-- ==== Sys2Proof/Word.lean ====
section
/-! DEFINITION. The word types of the D4 and the plainest operations on them (spec/00 R3, spec/01 R10). -/

namespace Sys2Proof

/-- One byte of memory. -/
abbrev Byte := BitVec 8

/-- A scalar register, a predicate register, an address (R10). -/
abbrev Word := BitVec 64

/-- A vector register: 64 lanes of 32 bits, 256 bytes little-endian (R10, R12). -/
abbrev Vec := BitVec 2048

/-- A guard field, [24:21] of every first word (R110, R112). -/
abbrev Guard := BitVec 4

/-- A scalar or vector register field (R112). -/
abbrev Reg6 := BitVec 6

/-- A predicate register number (R112). -/
abbrev PReg := BitVec 4

/-- A sparse table: keys strictly rising; a key that is not listed has the table's default. -/
abbrev Table (α : Type) := List (Nat × α)

end Sys2Proof
end

