-- ==== Sys2Proof/Syntax.lean ====
section
/-! DEFINITION. The abstract instructions of the D4: one constructor for every row of the table of operations and
events. A thread instruction carries the fields of its encoding (spec/05); a stream word those of spec/10 R245. The
operands of an event are an Event. -/

namespace Sys2Proof

/-- Rounding modes by the code of R113. -/
inductive Rm where | rne | rtz | rdn | rup | rna | sr | rto | dyn
  deriving DecidableEq, Repr

/-- Type codes 0b000 to 0b110 of R114. -/
inductive Ty where | f32 | bf16 | f16 | e4m3 | e5m2 | int | uint
  deriving DecidableEq, Repr

/-- Element and integer widths by the codes 0b000 to 0b011 of R114. -/
inductive Width where | w8 | w16 | w32 | w64
  deriving DecidableEq, Repr

/-- Size codes of LD and LDX (R119). -/
inductive LdSz where | z8 | z16 | z32 | x64 | s8 | s16 | s32
  deriving DecidableEq, Repr

/-- Integer compare conditions (R114). -/
inductive ICond where | eq | lt | ltu | tst
  deriving DecidableEq, Repr

/-- Floating-point compare conditions (R114). -/
inductive FCond where | eq | lt | le | un
  deriving DecidableEq, Repr

/-- Semaphore conditions (R209, R288). -/
inductive SCond where | eq | ne | geu | ges | ltu | maskAll | maskAny
  deriving DecidableEq, Repr

/-- Scopes (R67, R114). -/
inductive Scope where | cl | pkg | sys
  deriving DecidableEq, Repr

/-- Ordering codes (R114). -/
inductive Ordr where | plain | acq | rel | ar
  deriving DecidableEq, Repr

/-- Register classes of the future-control instructions (R114). -/
inductive RClass where | s | v | p
  deriving DecidableEq, Repr

/-- Atomic operations (R120). -/
inductive AOp where | add | and | or | xor | mins | minu | maxs | maxu | swap | cas
  deriving DecidableEq, Repr

/-- Atomic types (R120). -/
inductive AWidth where | i32 | i64 | f32 | bf16
  deriving DecidableEq, Repr

/-- MX element formats (R88). -/
inductive Mx where | mxint8 | mxint6 | mxint4
  deriving DecidableEq, Repr

/-- A collective transfer on the fabric (R235, R291, R294, R395): its sender is a die of a module, and its destination the
physical addresses and lengths of the pages that it covers. -/
structure XferPkt where
  group : Nat
  gen : Nat
  module : Nat
  die : Nat
  run : Nat
  idx : List Nat
  dst : List (Nat × Nat)
  op : Nat
  ty : Nat
  data : List Byte
  sent : Nat
  /-- The port it arrives at, none for one of the package itself (R394). -/
  via : Option Nat
  /-- Run number and indices of the sender's transfer to this package before it, where that one is not acknowledged (R293). -/
  after : Option (Nat × List Nat)
  deriving DecidableEq, Repr

/-- A release notice, or a request for one, from a die of a module; `asked` is the die that a request asks,
and `via` the port it arrives at, none for one of the package itself (R292, R394, R395). -/
structure NoticePkt where
  group : Nat
  gen : Nat
  run : Nat
  module : Nat
  die : Nat
  asked : Nat
  sent : Nat
  via : Option Nat
  deriving DecidableEq, Repr

/-- A frame that arrives at an import port, with the source its gap carries and what its light carries (R267, R396). -/
structure ImportPkt where
  port : Nat
  module : Nat
  bus : Nat
  frame : Nat
  wd : Nat
  fmt : Nat
  entry : List Byte
  lost : BitVec 64
  delay : Nat
  deriving DecidableEq, Repr

/-- What a patrol scrub reads (R414, R416). -/
inductive ScrubMem where | hbm | l2 | pool | acc | reg | pending | ring
  deriving DecidableEq, Repr

/-- An access that arrives from another module over the fabric (R71). -/
inductive RemoteOp where | load | store | atomic (op : AOp) (aw : AWidth)
  deriving DecidableEq, Repr

/-- The signed configuration record (R391, R403). -/
structure SignedConfig where
  moduleId : BitVec 16
  domain : List (BitVec 16)
  spareA : Nat
  spareB : Nat
  portDom : List Nat
  combDom : List Nat
  fr : List (Nat × Int)
  deriving DecidableEq, Repr

/-- A command of the debug mailbox with its arguments (R377, R378). -/
structure DbgCmd where
  rcb : BitVec 64
  asid : BitVec 16
  arg0 : BitVec 64
  arg1 : BitVec 64
  force : Bool
  deriving DecidableEq, Repr

/-- The events of the D4 with what the world outside the step decides about each (which completion, which packet, which
measured value). -/
inductive Event where
  | completion (i : Nat)
  | chunk (j : Nat)
  | rebase
  | transfer (die : Nat) (h : Nat)
  | transferReceive (p : XferPkt)
  | transferAck (i : Nat) (refused : Bool) (via : Option Nat)
  | releaseNotice (n : NoticePkt)
  | noticeRequest (n : NoticePkt)
  | noticeRequestRetry (die : Nat) (h : Nat)
  | noticeWaitTimeout (die : Nat) (h : Nat)
  | ackTimeout (die : Nat) (h : Nat)
  | quarantineEnd (i : Nat)
  | frameBoundary (bus : Nat) (low lost : BitVec 64) (margins : List (Nat × Nat))
  | accumulation (tile : Nat)
  | importFrame (f : ImportPkt)
  | combLoss (comb : Nat)
  | lineLowTimeout (comb : Nat) (line : Nat)
  | shadowCheck (tile : Nat)
  | trackerService (tile : Nat) (col : Nat) (ring : Nat) (drift : Int) (temp : BitVec 16)
  | moveSettle (i : Nat)
  | patrolScrub (m : ScrubMem) (granule : Nat) (correctable : Bool)
  | holdTimeout (i : Nat)
  | invAll
  | invAsid (asid : BitVec 16)
  | invRange (asid : BitVec 16) (npages : BitVec 32)
  | invalidationComplete
  | resolved (id : BitVec 32)
  | invalid (id : BitVec 32)
  | residencyTimeout (id : BitVec 32)
  | doorbell (q : Nat) (t : BitVec 32)
  | qctl (q : Nat) (v : BitVec 64)
  | acceptance (q : Nat)
  | semaphoreRead (lid : Nat) (which : Nat)
  | start (lid : Nat)
  | dispatch (lid : Nat) (cluster : Nat)
  | holdClusters (lid : Nat)
  | preEmption (lid : Nat) (cluster : Nat)
  | save (pk : Nat)
  | restore (pk : Nat) (cluster : Nat)
  | packEnd (pk : Nat)
  | regionKill (asid : BitVec 16) (rcb : BitVec 64)
  | powerOn
  | conventionalReset
  | config (ok : Bool) (c : SignedConfig)
  | ident (ok : Bool)
  | memup (ok : Bool)
  | optic (ok : Bool) (temp : BitVec 16)
  | ready
  | linkDown
  | linkUp
  | trip (die : Nat) (temp : BitVec 16)
  | tripRecovery (temp : BitVec 16)
  | cxlMemAccess (write : Bool) (pa : Nat) (data : List Byte)
  | remoteAccess (op : RemoteOp) (port : Nat) (module : Nat) (pa : Nat) (data : List Byte)
  | forward (src : Nat) (dst : Nat) (port : Nat)
  | bankSwap
  | beacon (port : Nat) (module : Nat) (peerPort : Nat) (epoch : Nat) (stamp : Nat) (locked : Bool)
  | failover (comb : Bool) (n : Nat)
  | ptpMessage (domain : Nat) (offs : BitVec 32)
  | holdover (offs : BitVec 32)
  | resv (k : Nat) (target : BitVec 8)
  | commit (k : Nat)
  | minm (tile : Nat)
  | counterClear (k : Nat)
  | optreqClear
  | optreqSet
  | rbsel (v : BitVec 64)
  | retire (v : BitVec 64)
  | registerWrite (off : Nat) (half : Option Bool) (v : BitVec 64)
  | identify
  | getHealthInfo
  | getFwInfo
  | transferFw (image : List Byte) (verifies : Bool) (version : BitVec 32)
  | activateFw
  | unsupported (opcode : Nat)
  | getVersion
  | getCapabilities
  | negotiateAlgorithms (sm3 sm2 : Bool)
  | getDigests
  | getCertificate (slot : Nat)
  | challenge (slot : Nat) (nonce : Nat)
  | getMeasurements (index : Nat) (nonce : Nat)
  | attach (c : DbgCmd)
  | detach (c : DbgCmd)
  | halt (c : DbgCmd)
  | haltComplete
  | resume (c : DbgCmd)
  | rewind (c : DbgCmd)
  | replay (c : DbgCmd)
  | trim (c : DbgCmd)
  | watch (c : DbgCmd)
  | acknowledgement (gtid : Nat)
  | replayParked
  | importLight (port : Nat) (module : Nat) (bus : Nat) (delay : Nat) (light : Bool)
  deriving DecidableEq, Repr

/-- The operations and events of the D4. An event row takes its operands from the event whose turn it is. -/
inductive Instr where
  /-- R138. Writes s[d] := s[a] + s[b]. -/
  | add (g : Guard) (d a b : Reg6)
  /-- R138. Writes s[d] := s[a] − s[b]. -/
  | sub (g : Guard) (d a b : Reg6)
  /-- R138. Writes s[d] := s[a] AND s[b]. -/
  | and (g : Guard) (d a b : Reg6)
  /-- R138. Writes s[d] := s[a] OR s[b]. -/
  | or (g : Guard) (d a b : Reg6)
  /-- R138. Writes s[d] := s[a] XOR s[b]. -/
  | xor (g : Guard) (d a b : Reg6)
  /-- R138. Shifts s[a] left by the low six bits of s[b]. -/
  | sll (g : Guard) (d a b : Reg6)
  /-- R138. Shifts s[a] right with zero fill by the low six bits of s[b]. -/
  | srl (g : Guard) (d a b : Reg6)
  /-- R138. Shifts s[a] right with sign fill by the low six bits of s[b]. -/
  | sra (g : Guard) (d a b : Reg6)
  /-- R138. Writes the low 64 bits of s[a] × s[b]. -/
  | mul (g : Guard) (d a b : Reg6)
  /-- R138. Writes the high 64 bits of the signed 128-bit product. -/
  | mulhs (g : Guard) (d a b : Reg6)
  /-- R138. Writes the high 64 bits of the unsigned 128-bit product. -/
  | mulhu (g : Guard) (d a b : Reg6)
  /-- R139. Writes the signed quotient, never trapping. -/
  | divs (g : Guard) (d a b : Reg6)
  /-- R139. Writes the unsigned quotient, never trapping. -/
  | divu (g : Guard) (d a b : Reg6)
  /-- R139. Writes the signed remainder, never trapping. -/
  | rems (g : Guard) (d a b : Reg6)
  /-- R139. Writes the unsigned remainder, never trapping. -/
  | remu (g : Guard) (d a b : Reg6)
  /-- R141. Adds a sign-extended 9-bit immediate to s[a]. -/
  | addi (g : Guard) (d a : Reg6) (imm : BitVec 9)
  /-- R141. ANDs s[a] with a sign-extended 9-bit immediate. -/
  | andi (g : Guard) (d a : Reg6) (imm : BitVec 9)
  /-- R141. ORs s[a] with a sign-extended 9-bit immediate. -/
  | ori (g : Guard) (d a : Reg6) (imm : BitVec 9)
  /-- R141. XORs s[a] with a sign-extended 9-bit immediate. -/
  | xori (g : Guard) (d a : Reg6) (imm : BitVec 9)
  /-- R141. Shifts s[a] left by an immediate amount. -/
  | slli (g : Guard) (d a sh : Reg6)
  /-- R141. Shifts s[a] right with zero fill by an immediate amount. -/
  | srli (g : Guard) (d a sh : Reg6)
  /-- R141. Shifts s[a] right with sign fill by an immediate amount. -/
  | srai (g : Guard) (d a sh : Reg6)
  /-- R141. Rotates s[a] right by an immediate amount. -/
  | rotri (g : Guard) (d a sh : Reg6)
  /-- R142. Loads a sign-extended 32-bit immediate into s[d]. -/
  | movi (g : Guard) (d : Reg6) (imm : BitVec 32)
  /-- R142. Adds a sign-extended 32-bit immediate to s[a]. -/
  | addiL (g : Guard) (d a : Reg6) (imm : BitVec 32)
  /-- R142. Replaces the upper half of s[a] with a 32-bit immediate. -/
  | orhi (g : Guard) (d a : Reg6) (imm : BitVec 32)
  /-- R142. ANDs s[a] with a sign-extended 32-bit immediate. -/
  | andiL (g : Guard) (d a : Reg6) (imm : BitVec 32)
  /-- R142. XORs s[a] with a sign-extended 32-bit immediate. -/
  | xoriL (g : Guard) (d a : Reg6) (imm : BitVec 32)
  /-- R144. Compares s[a] with a 32-bit immediate under a condition and writes a predicate pair. -/
  | cmpiL (g : Guard) (c : ICond) (pd : PReg) (a : Reg6) (imm : BitVec 32)
  /-- R140. Writes the low 64 bits of s[a] × s[b] + s[c]. -/
  | muladd (g : Guard) (d a b c : Reg6)
  /-- R138. Writes the signed minimum of s[a] and s[b]. -/
  | mins (g : Guard) (d a b : Reg6)
  /-- R138. Writes the unsigned minimum of s[a] and s[b]. -/
  | minu (g : Guard) (d a b : Reg6)
  /-- R138. Writes the signed maximum of s[a] and s[b]. -/
  | maxs (g : Guard) (d a b : Reg6)
  /-- R138. Writes the unsigned maximum of s[a] and s[b]. -/
  | maxu (g : Guard) (d a b : Reg6)
  /-- R138. Counts the leading zeros of s[a]. -/
  | clz (g : Guard) (d a : Reg6)
  /-- R138. Counts the trailing zeros of s[a]. -/
  | ctz (g : Guard) (d a : Reg6)
  /-- R138. Counts the one bits of s[a]. -/
  | popc (g : Guard) (d a : Reg6)
  /-- R138. Reverses the bit order of s[a]. -/
  | brev (g : Guard) (d a : Reg6)
  /-- R144. Compares two scalars under a condition and writes pd and its complement pd + 1. -/
  | cmp (g : Guard) (c : ICond) (pd : PReg) (a b : Reg6)
  /-- R144. Compares a scalar with a 9-bit immediate under a condition and writes a predicate pair. -/
  | cmpi (g : Guard) (c : ICond) (pd : PReg) (a : Reg6) (imm : BitVec 9)
  /-- R145. Writes pd := pa AND pb. -/
  | pand (g : Guard) (d a b : PReg)
  /-- R145. Writes pd := pa OR pb. -/
  | por (g : Guard) (d a b : PReg)
  /-- R145. Writes pd := pa XOR pb. -/
  | pxor (g : Guard) (d a b : PReg)
  /-- R145. Writes pd := pa AND NOT pb. -/
  | pandn (g : Guard) (d a b : PReg)
  /-- R145. Writes pd := NOT pa. -/
  | pnot (g : Guard) (d a : PReg)
  /-- R145. Copies a scalar into a predicate. -/
  | pfroms (g : Guard) (d : PReg) (a : Reg6)
  /-- R145. Copies a predicate into a scalar. -/
  | ptos (g : Guard) (d : Reg6) (a : PReg)
  /-- R145. Counts the one bits of a predicate into a scalar. -/
  | pcnt (g : Guard) (d : Reg6) (a : PReg)
  /-- R146. Branches pc-relative when its guard passes. -/
  | br (g : Guard) (imm : BitVec 21)
  /-- R146. Links pc + 4 into s63 and branches pc-relative. -/
  | call (g : Guard) (imm : BitVec 21)
  /-- R147. Jumps to s[a] after target checks. -/
  | jr (g : Guard) (a : Reg6)
  /-- R147. Jumps to s[a] and links pc + 4 into s[d]. -/
  | jalr (g : Guard) (d a : Reg6)
  /-- R153. Gives up the control slot for one cycle if another thread is ready. -/
  | yield (g : Guard)
  /-- R154. Ends the thread: arrives and deregisters at phasers and detaches pending registers. -/
  | exit (g : Guard)
  /-- R155. Raises BREAK precisely with a 6-bit code. -/
  | brk (g : Guard) (code : Reg6)
  /-- R149. Reads a control register into s[d]. -/
  | crr (g : Guard) (d : Reg6) (x : BitVec 8)
  /-- R150. Writes s[a] into a control register. -/
  | crw (g : Guard) (a : Reg6) (x : BitVec 8)
  /-- R138. Writes s[a] + (s[b] << n). -/
  | shadd (g : Guard) (d a b : Reg6) (n : BitVec 3)
  /-- R143. Extracts a bit field of s[a] zero-extended. -/
  | bfxu (g : Guard) (d a : Reg6) (pos len1 : BitVec 6)
  /-- R143. Extracts a bit field of s[a] sign-extended. -/
  | bfxs (g : Guard) (d a : Reg6) (pos len1 : BitVec 6)
  /-- R143. Inserts the low bits of s[a] into a field of s[d]. -/
  | bfi (g : Guard) (d a : Reg6) (pos len1 : BitVec 6)
  /-- R124. An encoding with a reserved major, sub-function or field raises ILLEGAL_OP at decode. -/
  | illegalOp (w0 w1 : BitVec 32)
  /-- R125. An extension-major instruction whose feature is absent traps to the user handler. -/
  | extAbsent (w0 w1 : BitVec 32)
  /-- R163. Adds FP32 vectors with one rounding. -/
  | vaddF32 (g : Guard) (d a b : Reg6) (rm : Rm)
  /-- R163. Subtracts FP32 vectors with one rounding. -/
  | vsubF32 (g : Guard) (d a b : Reg6) (rm : Rm)
  /-- R163. Multiplies FP32 vectors with one rounding. -/
  | vmulF32 (g : Guard) (d a b : Reg6) (rm : Rm)
  /-- R163. Adds BF16 vectors with one rounding. -/
  | vaddBf16 (g : Guard) (d a b : Reg6) (rm : Rm)
  /-- R163. Subtracts BF16 vectors with one rounding. -/
  | vsubBf16 (g : Guard) (d a b : Reg6) (rm : Rm)
  /-- R163. Multiplies BF16 vectors with one rounding. -/
  | vmulBf16 (g : Guard) (d a b : Reg6) (rm : Rm)
  /-- R163. Adds FP16 vectors with one rounding. -/
  | vaddF16 (g : Guard) (d a b : Reg6) (rm : Rm)
  /-- R163. Subtracts FP16 vectors with one rounding. -/
  | vsubF16 (g : Guard) (d a b : Reg6) (rm : Rm)
  /-- R163. Multiplies FP16 vectors with one rounding. -/
  | vmulF16 (g : Guard) (d a b : Reg6) (rm : Rm)
  /-- R163. Divides FP32 vectors with one rounding. -/
  | vdivF32 (g : Guard) (d a b : Reg6) (rm : Rm)
  /-- R163. Correctly rounded FP32 square root. -/
  | vsqrtF32 (g : Guard) (d a : Reg6) (rm : Rm)
  /-- R163. Correctly rounded FP32 reciprocal. -/
  | vrcpF32 (g : Guard) (d a : Reg6) (rm : Rm)
  /-- R163. Correctly rounded FP32 reciprocal square root. -/
  | vrsqF32 (g : Guard) (d a : Reg6) (rm : Rm)
  /-- R163. Correctly rounded FP32 2^x. -/
  | vexp2F32 (g : Guard) (d a : Reg6) (rm : Rm)
  /-- R163. Correctly rounded FP32 log2 x. -/
  | vlog2F32 (g : Guard) (d a : Reg6) (rm : Rm)
  /-- R168. Compares floating-point vectors lane by lane under a condition into a predicate pair. -/
  | vfcmp (g : Guard) (c : FCond) (pd : PReg) (a b : Reg6) (ty : Ty)
  /-- R163. Long-form FP vector add with any rounding including SR. -/
  | vaddL (g : Guard) (d a b : Reg6) (ty : Ty) (rm : Rm) (k n : Reg6)
  /-- R163. Long-form FP vector subtract. -/
  | vsubL (g : Guard) (d a b : Reg6) (ty : Ty) (rm : Rm) (k n : Reg6)
  /-- R163. Long-form FP vector multiply. -/
  | vmulL (g : Guard) (d a b : Reg6) (ty : Ty) (rm : Rm) (k n : Reg6)
  /-- R163. Long-form FP vector divide. -/
  | vdivL (g : Guard) (d a b : Reg6) (ty : Ty) (rm : Rm) (k n : Reg6)
  /-- R163. Fused a × b + c with one rounding. -/
  | vfma (g : Guard) (d a b c : Reg6) (ty : Ty) (rm : Rm) (k n : Reg6)
  /-- R163. Fused a × b − c with one rounding. -/
  | vfms (g : Guard) (d a b c : Reg6) (ty : Ty) (rm : Rm) (k n : Reg6)
  /-- R163. Fused −(a × b) + c with one rounding. -/
  | vfnma (g : Guard) (d a b c : Reg6) (ty : Ty) (rm : Rm) (k n : Reg6)
  /-- R163. Long-form correctly rounded square root. -/
  | vsqrtL (g : Guard) (d a : Reg6) (ty : Ty) (rm : Rm) (k n : Reg6)
  /-- R163. Long-form correctly rounded reciprocal. -/
  | vrcpL (g : Guard) (d a : Reg6) (ty : Ty) (rm : Rm) (k n : Reg6)
  /-- R163. Long-form correctly rounded reciprocal square root. -/
  | vrsqL (g : Guard) (d a : Reg6) (ty : Ty) (rm : Rm) (k n : Reg6)
  /-- R163. Long-form correctly rounded 2^x. -/
  | vexp2L (g : Guard) (d a : Reg6) (ty : Ty) (rm : Rm) (k n : Reg6)
  /-- R163. Long-form correctly rounded log2 x. -/
  | vlog2L (g : Guard) (d a : Reg6) (ty : Ty) (rm : Rm) (k n : Reg6)
  /-- R164. Element-wise fmin without rounding. -/
  | vmin (g : Guard) (d a b : Reg6) (ty : Ty)
  /-- R164. Element-wise fmax without rounding. -/
  | vmax (g : Guard) (d a b : Reg6) (ty : Ty)
  /-- R164. Clears the sign bit of each FP element. -/
  | vabs (g : Guard) (d a : Reg6) (ty : Ty)
  /-- R164. Inverts the sign bit of each FP element. -/
  | vneg (g : Guard) (d a : Reg6) (ty : Ty)
  /-- R165. Adds 32-bit integer lanes. -/
  | vaddI32 (g : Guard) (d a b : Reg6)
  /-- R165. Subtracts 32-bit integer lanes. -/
  | vsubI32 (g : Guard) (d a b : Reg6)
  /-- R165. Multiplies 32-bit integer lanes, low half. -/
  | vmulI32 (g : Guard) (d a b : Reg6)
  /-- R165. Signed minimum of 32-bit lanes. -/
  | vminS32 (g : Guard) (d a b : Reg6)
  /-- R165. Signed maximum of 32-bit lanes. -/
  | vmaxS32 (g : Guard) (d a b : Reg6)
  /-- R165. Unsigned minimum of 32-bit lanes. -/
  | vminuI32 (g : Guard) (d a b : Reg6)
  /-- R165. Unsigned maximum of 32-bit lanes. -/
  | vmaxuI32 (g : Guard) (d a b : Reg6)
  /-- R165. Arithmetic right shift of 32-bit lanes. -/
  | vsraI32 (g : Guard) (d a b : Reg6)
  /-- R165. Lane-wise AND. -/
  | vand (g : Guard) (d a b : Reg6)
  /-- R165. Lane-wise OR. -/
  | vor (g : Guard) (d a b : Reg6)
  /-- R165. Lane-wise XOR. -/
  | vxor (g : Guard) (d a b : Reg6)
  /-- R165. Lane-wise a AND NOT b. -/
  | vandn (g : Guard) (d a b : Reg6)
  /-- R165. Left shift of 32-bit lanes. -/
  | vshlI32 (g : Guard) (d a b : Reg6)
  /-- R165. Logical right shift of 32-bit lanes. -/
  | vshrI32 (g : Guard) (d a b : Reg6)
  /-- R165. Lane-wise NOT. -/
  | vnot (g : Guard) (d a : Reg6)
  /-- R165. Copies a vector lane by lane. -/
  | vmov (g : Guard) (d a : Reg6)
  /-- R168. Compares integer vectors under a condition into a predicate pair. -/
  | vicmp (g : Guard) (c : ICond) (pd : PReg) (a b : Reg6) (w : Width)
  /-- R169. Selects each element from va or vb by the guard. -/
  | vsel (g : Guard) (d a b : Reg6) (w : Width)
  /-- R170. Permutes lanes of va by indices in vb. -/
  | vperm (g : Guard) (d a b : Reg6)
  /-- R170. Broadcasts one lane of va to all lanes. -/
  | vbcast (g : Guard) (d a b : Reg6)
  /-- R170. Inserts the low word of a scalar into one lane. -/
  | vins (g : Guard) (d a b : Reg6)
  /-- R170. Rotates the lanes of va by a scalar amount. -/
  | vext (g : Guard) (d a b : Reg6)
  /-- R170. Interleaves the low halves of va and vb. -/
  | vziplo (g : Guard) (d a b : Reg6)
  /-- R170. Interleaves the high halves of va and vb. -/
  | vziphi (g : Guard) (d a b : Reg6)
  /-- R170. Compresses the guarded lanes of va to the bottom, zeroing the rest. -/
  | vcomp (g : Guard) (d a : Reg6)
  /-- R167. Writes a sign-extended immediate into every active lane. -/
  | vsplati (g : Guard) (d : Reg6) (imm : BitVec 9)
  /-- R177. Accumulates exact signed int8 dot products per lane. -/
  | vdotS8 (g : Guard) (d a b : Reg6)
  /-- R177. Accumulates exact unsigned int8 dot products per lane. -/
  | vdotU8 (g : Guard) (d a b : Reg6)
  /-- R177. Accumulates exact signed-by-unsigned int8 dot products per lane. -/
  | vdotSu8 (g : Guard) (d a b : Reg6)
  /-- R179. FP32 fixed-tree sum with RNE into element 0. -/
  | vredAddF32 (g : Guard) (d a : Reg6)
  /-- R179. FP32 fixed-tree maximum. -/
  | vredMaxF32 (g : Guard) (d a : Reg6)
  /-- R179. FP32 fixed-tree minimum. -/
  | vredMinF32 (g : Guard) (d a : Reg6)
  /-- R179. 32-bit integer tree sum. -/
  | vredAddI32 (g : Guard) (d a : Reg6)
  /-- R179. Signed 32-bit tree maximum. -/
  | vredMaxS32 (g : Guard) (d a : Reg6)
  /-- R179. Signed 32-bit tree minimum. -/
  | vredMinS32 (g : Guard) (d a : Reg6)
  /-- R179. Unsigned 32-bit tree maximum. -/
  | vredMaxuI32 (g : Guard) (d a : Reg6)
  /-- R179. Unsigned 32-bit tree minimum. -/
  | vredMinuI32 (g : Guard) (d a : Reg6)
  /-- R172. Short-form conversion between two type codes. -/
  | vcvt (g : Guard) (d a : Reg6) (sty dty : Ty) (rm : Rm)
  /-- R180. Counts FP elements into 64 exponent bins held in vd. -/
  | vhist (g : Guard) (d a b : Reg6) (ty : Ty)
  /-- R166. Long-form integer add at width w. -/
  | vaddIw (g : Guard) (d a b : Reg6) (w : Width)
  /-- R166. Long-form integer subtract at width w. -/
  | vsubIw (g : Guard) (d a b : Reg6) (w : Width)
  /-- R166. Long-form integer multiply, low half. -/
  | vmulIw (g : Guard) (d a b : Reg6) (w : Width)
  /-- R166. High half of the signed product. -/
  | vmulhs (g : Guard) (d a b : Reg6) (w : Width)
  /-- R166. High half of the unsigned product. -/
  | vmulhu (g : Guard) (d a b : Reg6) (w : Width)
  /-- R166. Signed saturating add. -/
  | vadds (g : Guard) (d a b : Reg6) (w : Width)
  /-- R166. Unsigned saturating add. -/
  | vaddsu (g : Guard) (d a b : Reg6) (w : Width)
  /-- R166. Signed saturating subtract. -/
  | vsubs (g : Guard) (d a b : Reg6) (w : Width)
  /-- R166. Unsigned saturating subtract. -/
  | vsubsu (g : Guard) (d a b : Reg6) (w : Width)
  /-- R166. Signed minimum at width w. -/
  | vmins (g : Guard) (d a b : Reg6) (w : Width)
  /-- R166. Signed maximum at width w. -/
  | vmaxs (g : Guard) (d a b : Reg6) (w : Width)
  /-- R166. Unsigned minimum at width w. -/
  | vminu (g : Guard) (d a b : Reg6) (w : Width)
  /-- R166. Unsigned maximum at width w. -/
  | vmaxu (g : Guard) (d a b : Reg6) (w : Width)
  /-- R166. Left shift at width w. -/
  | vshl (g : Guard) (d a b : Reg6) (w : Width)
  /-- R166. Logical right shift at width w. -/
  | vshr (g : Guard) (d a b : Reg6) (w : Width)
  /-- R166. Arithmetic right shift at width w. -/
  | vsra (g : Guard) (d a b : Reg6) (w : Width)
  /-- R166. Low w bits of a × b + c. -/
  | vmad (g : Guard) (d a b c : Reg6) (w : Width)
  /-- R166. Signed division at width w, never trapping. -/
  | vdivs (g : Guard) (d a b : Reg6) (w : Width)
  /-- R166. Unsigned division at width w, never trapping. -/
  | vdivu (g : Guard) (d a b : Reg6) (w : Width)
  /-- R166. Integer absolute value modulo 2^w. -/
  | vabsIw (g : Guard) (d a : Reg6) (w : Width)
  /-- R179. Long-form fixed-tree FP sum in a chosen rounding. -/
  | vredAdd (g : Guard) (d a : Reg6) (ty : Ty) (rm : Rm)
  /-- R179. Long-form fixed-tree FP maximum. -/
  | vredMax (g : Guard) (d a : Reg6) (ty : Ty)
  /-- R179. Long-form fixed-tree FP minimum. -/
  | vredMin (g : Guard) (d a : Reg6) (ty : Ty)
  /-- R182. Selects the top K elements with logical indices into a register pair. -/
  | vtopk (g : Guard) (d a b c : Reg6) (ty : Ty)
  /-- R172. Long-form conversion with any rounding including SR. -/
  | vcvtL (g : Guard) (d a : Reg6) (sty dty : Ty) (rm : Rm) (k n : Reg6)
  /-- R173. Divides by a scale and narrows with a single rounding. -/
  | vqsc (g : Guard) (d a b : Reg6) (sty dty : Ty) (rm : Rm) (k n : Reg6)
  /-- R175. Quantises groups of 32 elements into MX blocks. -/
  | vpack (g : Guard) (d a : Reg6) (mx : Mx) (ty : Ty) (rm : Rm) (k n : Reg6)
  /-- R176. Expands MX blocks to FP32 or BF16 elements exactly. -/
  | vunpk (g : Guard) (d a : Reg6) (mx : Mx) (ty : Ty) (rm : Rm) (k n : Reg6)
  /-- R180. Counts MX block elements into exponent bins. -/
  | vhistMx (g : Guard) (d a b : Reg6) (mx : Mx)
  /-- R188. Scalar load that binds s[d] pending until its completion. -/
  | ld (g : Guard) (d a : Reg6) (sz : LdSz) (off : BitVec 6)
  /-- R188. Scalar store of s[d]. -/
  | st (g : Guard) (d a : Reg6) (w : Width) (off : BitVec 6)
  /-- R193. Contiguous vector load binding v[d]. -/
  | vld (g : Guard) (d a : Reg6) (w : Width) (off : BitVec 6)
  /-- R193. Contiguous vector store. -/
  | vst (g : Guard) (d a : Reg6) (w : Width) (off : BitVec 6)
  /-- R190. Long-offset scalar load, optionally acquiring at a scope. -/
  | ldx (g : Guard) (d a : Reg6) (sz : LdSz) (sc : Scope) (o : Ordr) (imm : BitVec 32)
  /-- R190. Long-offset scalar store, optionally releasing at a scope. -/
  | stx (g : Guard) (d a : Reg6) (w : Width) (sc : Scope) (o : Ordr) (imm : BitVec 32)
  /-- R193. Strided vector load. -/
  | vlds (g : Guard) (d a b : Reg6) (w : Width)
  /-- R193. Strided vector store. -/
  | vsts (g : Guard) (d a b : Reg6) (w : Width)
  /-- R193. Indexed vector gather. -/
  | vgath (g : Guard) (d a b : Reg6) (w : Width)
  /-- R193. Indexed vector scatter. -/
  | vscat (g : Guard) (d a b : Reg6) (w : Width)
  /-- R72. Waits until earlier accesses are performed at its scope and writes the status word. -/
  | fence (g : Guard) (d : Reg6) (sc : Scope)
  /-- R197. Atomic read-modify-write returning the old value as a future. -/
  | atom (g : Guard) (d a b c : Reg6) (op : AOp) (aw : AWidth) (o : Ordr) (sc : Scope) (imm : BitVec 16)
  /-- R42. Tests a register's state against a state set into a predicate pair. -/
  | ftst (g : Guard) (pd : PReg) (a : Reg6) (cl : RClass) (set : BitVec 3)
  /-- R43. Moves a register's state and content, leaving the source MOVED. -/
  | fmov (g : Guard) (d a : Reg6) (cl : RClass)
  /-- R44. Detaches a register, leaving it poisoned DROPPED. -/
  | fdrop (g : Guard) (d : Reg6) (cl : RClass)
  /-- R45. Parks until a register is not pending and traps if poisoned. -/
  | fwait (g : Guard) (a : Reg6) (cl : RClass)
  /-- R210. Writes a register checkpoint and opens a trail window. -/
  | tmark (g : Guard) (d : Reg6)
  /-- R204. Registers the thread with a phaser in a role. -/
  | phReg (g : Guard) (a b : Reg6)
  /-- R205. Arrives at a phaser as a release and evaluates the flip. -/
  | phArrive (g : Guard) (a : Reg6)
  /-- R206. Binds a future that completes when the phase passes the token. -/
  | phWait (g : Guard) (d a b : Reg6)
  /-- R204. Removes the thread's registration from a phaser. -/
  | phDereg (g : Guard) (a : Reg6)
  /-- R204. Changes the thread's role at a phaser. -/
  | phRole (g : Guard) (a b : Reg6)
  /-- R208. Initialises a phaser or breaks it if registered. -/
  | phInit (g : Guard) (a b : Reg6)
  /-- R46. Writes a software poison value into a register. -/
  | fpoison (g : Guard) (d : Reg6) (cl : RClass) (code : BitVec 16)
  /-- R209. Binds a future that completes when a u64 word meets a condition. -/
  | semWait (g : Guard) (d a b : Reg6) (c : SCond)
  /-- R231. Computes 64 Sobol points of consecutive indices. -/
  | qseq (g : Guard) (d a b : Reg6)
  /-- R231. Computes Sobol points at per-lane indices. -/
  | qseqLane (g : Guard) (d a b : Reg6)
  /-- R232. Loads direction words of up to 64 dimensions into the cache. -/
  | qtbl (g : Guard) (d a b : Reg6)
  /-- R233. Computes 64 counter-based random words. -/
  | vrand (g : Guard) (d a b : Reg6)
  /-- R200. Checks or requests read residency of a range. -/
  | probeR (g : Guard) (d a b : Reg6)
  /-- R200. Checks or requests read and write residency of a range. -/
  | probeW (g : Guard) (d a b : Reg6)
  /-- R217. Commands a copy engine to copy bytes, optionally into a ring entry. -/
  | cpCopy (g : Guard) (d a b c : Reg6) (ord bar hist ring : Bool) (hty : Ty) (eng : BitVec 3)
  /-- R217. Commands a copy engine to fill with an 8-byte pattern. -/
  | cpFill (g : Guard) (d a b c : Reg6) (ord bar ring : Bool) (eng : BitVec 3)
  /-- R217. Commands a copy engine to convert elements between types. -/
  | cpCvt (g : Guard) (d a b c : Reg6) (ord bar hist ring : Bool) (dty sty : Ty) (rm : Rm) (eng : BitVec 3)
  /-- R217. Commands a copy engine to copy pitched rows. -/
  | cpStride (g : Guard) (d a b c : Reg6) (ord bar hist : Bool) (hty : Ty) (eng : BitVec 3)
  /-- R228. Marks ring entries filled and runs the advance step. -/
  | ringAdvFill (g : Guard) (d a b : Reg6)
  /-- R228. Advances FREE, empties entries and re-evaluates waiting copies. -/
  | ringAdvFree (g : Guard) (d a b : Reg6)
  /-- R228. Binds a future that completes when FILL reaches a target. -/
  | ringWaitFill (g : Guard) (d a b : Reg6)
  /-- R228. Binds a future that completes when FREE reaches a target. -/
  | ringWaitFree (g : Guard) (d a b : Reg6)
  /-- R229. Gives a ring new geometry with empty counters and marks. -/
  | ringReset (g : Guard) (d a b c : Reg6)
  /-- R236. Arms a collective record into a walker handle. -/
  | collArm (g : Guard) (d a : Reg6)
  /-- R236. Frees a walker handle and starts the group's quarantine. -/
  | collDisarm (g : Guard) (d a : Reg6)
  /-- R237. Starts a run of an armed collective. -/
  | collGo (g : Guard) (d a : Reg6)
  /-- R237. Restarts an aborted run from the armed RESUME indices. -/
  | collGoResume (g : Guard) (d a : Reg6)
  /-- R238. Submits a child launch packet to the shepherd. -/
  | launch (g : Guard) (d a : Reg6) (unord endd : Bool)
  /-- R239. Starts a receive stream program on a tile. -/
  | strmGoTile (g : Guard) (d a b : Reg6) (ref : Bool) (tile : BitVec 5)
  /-- R239. Starts a transmit stream program on a bus. -/
  | strmGoBus (g : Guard) (d a b : Reg6) (ref : Bool) (bus : BitVec 2)
  /-- R240. Registers a tile as a listener of a bus or import port. -/
  | strmReg (g : Guard) (d a : Reg6) (tile : BitVec 5)
  /-- R240. Deregisters a tile at the next frame boundary. -/
  | strmDereg (g : Guard) (d : Reg6) (tile : BitVec 5)
  /-- R397. Re-measures an import port's arrival delay and sets DELAY and SLACK. -/
  | lnkAlign (g : Guard) (d a : Reg6)
  /-- R246. Ends a stream program with its completion word. -/
  | sEnd
  /-- R246. Sets the micro-PC to a target. -/
  | sJmp (t : BitVec 16)
  /-- R246. Decrements a loop counter and branches while it was nonzero. -/
  | sLoop (l : BitVec 2) (t : BitVec 16)
  /-- R246. Sets a loop counter to a 24-bit immediate. -/
  | sSetlc (l : BitVec 2) (imm : BitVec 24)
  /-- R246. Branches when a loop counter is zero. -/
  | sBrz (l : BitVec 2) (t : BitVec 16)
  /-- R253. Holds admission of the next frame until NOW reaches START plus an offset. -/
  | sWnow (imm : BitVec 24)
  /-- R247. Sets the window length W. -/
  | sWin (wd : BitVec 8)
  /-- R247. Sets the fine converter gain G. -/
  | sGain (gain : BitVec 5)
  /-- R247. Sets the element format of this side. -/
  | sFmt (f : BitVec 2)
  /-- R247. Sets the activation format a receive tile accepts. -/
  | sFmtA (f : BitVec 2)
  /-- R247. Sets the scale source, ring or a constant. -/
  | sScl (m : BitVec 1) (x : BitVec 8)
  /-- R248. Binds an input or status ring to the sequencer. -/
  | sRing (role : BitVec 2) (core : BitVec 7) (ring : BitVec 4)
  /-- R260. Selects analog mode or REFMODE for later windows. -/
  | sMode (r : BitVec 1)
  /-- R269. Deregisters and reregisters the tile with another bus selector. -/
  | sSelb (sel : BitVec 3)
  /-- R247. Selects the accumulator set for later windows. -/
  | sAcc (n : BitVec 2)
  /-- R247. Sets every element of an accumulator set to +0 after earlier windows. -/
  | sAclr (n : BitVec 2)
  /-- R254. Makes the tile or transmitter ready for a frame with the captured configuration. -/
  | sRun (k : BitVec 1)
  /-- R270. Converts and writes an accumulator set row by row, optionally zeroing it. -/
  | sDrain (bar z : BitVec 1) (rm ty : BitVec 3) (n : BitVec 2)
  /-- R247. Resets OPTR to OBASE. -/
  | sOrst
  /-- R245. An unassigned stream opcode ends the program poisoned 0x0060. -/
  | badStreamOp (w : BitVec 32)
  /-- R52. A producer's completion arrives and fills or poisons its register or kennel slot, or is discarded. -/
  | completion
  /-- R218. A copy engine checks, reads and writes one chunk of a destination image. -/
  | chunk
  /-- R66. Lowers every logical timestamp and recycles every trail window. -/
  | rebase
  /-- R235. A walker sends one transfer of a run once its release notice has arrived. -/
  | transfer
  /-- R291. Receiving stack logic applies or drops an arriving collective transfer. -/
  | transferReceive
  /-- R237. An acknowledgement arrives; the last one completes the run and writes back RUNS. -/
  | transferAck
  /-- R292. A release notice arrives and frees transfers waiting for it. -/
  | releaseNotice
  /-- R292. A notice request arrives and the walker answers with its latest run. -/
  | noticeRequest
  /-- R292. Each 1 ms a waiting transfer resends its notice request. -/
  | noticeRequestRetry
  /-- R292. A transfer that waited 10 ms for its notice aborts the run with 0x0040. -/
  | noticeWaitTimeout
  /-- R395. A transfer unacknowledged for 10 ms aborts its run with 0x0040. -/
  | ackTimeout
  /-- R236. A COLL.ARM held for a disarmed GROUP arms it after 50 µs. -/
  | quarantineEnd
  /-- R251. A bus reaches the end of a gap, busy or idle. -/
  | frameBoundary
  /-- R259. An integrated window's codes are rescaled and added to the accumulators. -/
  | accumulation
  /-- R267. A frame arrives at an import port and is integrated or missed. -/
  | importFrame
  /-- R265. A comb fails and its bus switches to comb 4 or its sessions end poisoned. -/
  | combLoss
  /-- R412. A comb line low for 1 ms starts the claim of comb 4 or a wavelength failure. -/
  | lineLowTimeout
  /-- R413. The check path compares a captured analog window with its ideal codes. -/
  | shadowCheck
  /-- R404. Every 16 µs the tracker adjusts a ring's heater code. -/
  | trackerService
  /-- R405. After 50 µs of settling the channel passes to the new ring. -/
  | moveSettle
  /-- R414. The patrol reads and corrects a line of HBM4, L2 or a pool. -/
  | patrolScrub
  /-- R335. An access held by HOLD beyond TIMEOUT faults with reason HELD. -/
  | holdTimeout
  /-- R340. INVCMD KIND 0b00 invalidates cached translations of all ASIDs. -/
  | invAll
  /-- R340. INVCMD KIND 0b01 invalidates cached translations of one ASID. -/
  | invAsid
  /-- R340. INVCMD KIND 0b10 invalidates a page range of one ASID. -/
  | invRange
  /-- R341. An invalidation completes, advances DONE and writes the note. -/
  | invalidationComplete
  /-- R343. RQRESP with outcome RESOLVED makes the PROBE walk again. -/
  | resolved
  /-- R343. RQRESP with outcome INVALID poisons the PROBE. -/
  | invalid
  /-- R343. A residency request unanswered after TIMEOUT poisons the PROBE. -/
  | residencyTimeout
  /-- R316. A QTAIL write makes queue packets visible or halts the queue. -/
  | doorbell
  /-- R315. A QCTL write sets EN and, on 0 to 1, clears HEAD, TAIL, NREF and HALT. -/
  | qctl
  /-- R322. The shepherd reads a visible packet and accepts or refuses it. -/
  | acceptance
  /-- R323. The shepherd reads a launch's semaphore word and tests its condition. -/
  | semaphoreRead
  /-- R324. NOW reaches a timed launch's START. -/
  | start
  /-- R325. The shepherd places a ready pack whole on a cluster and starts it. -/
  | dispatch
  /-- R326. A launch waiting 1 ms at effective priority 15 holds its clusters. -/
  | holdClusters
  /-- R327. The shepherd chooses victims on one cluster for a ready launch. -/
  | preEmption
  /-- R363. A victim pack is saved into its kennel at a frame boundary. -/
  | save
  /-- R365. A saved pack is checked and written back from its kennel. -/
  | restore
  /-- R154. A pack's last thread has exited and its accesses are performed at SYS. -/
  | packEnd
  /-- R355. KILLCMD GO kills every launch whose chain holds the named RCB. -/
  | regionKill
  /-- R385. A power cycle resets the D4 and begins boot. -/
  | powerOn
  /-- R385. A CXL Conventional Reset kills every launch and begins boot. -/
  | conventionalReset
  /-- R388. Firmware verifies the configuration record and extends measurement 2. -/
  | config
  /-- R388. Firmware derives the SM2 identity key. -/
  | ident
  /-- R388. HBM4 is trained and zeroed and the CXL.mem range goes active. -/
  | memup
  /-- R388. Lasers come on, heaters lock and skew is calibrated. -/
  | optic
  /-- R388. The shepherd is enabled. -/
  | ready
  /-- R385. The CXL link drops; host accesses behave as across a dead link. -/
  | linkDown
  /-- R385. The CXL link trains again and pending host signals are sent. -/
  | linkUp
  /-- R425. A die at 105 °C removes power and acts as after a reset. -/
  | trip
  /-- R425. The junction falls below 70 °C and boot begins again. -/
  | tripRecovery
  /-- R71. A host CXL.mem access enters the package order at stack logic. -/
  | cxlMemAccess
  /-- R71. A fabric access from another module is performed by this package's stack logic. -/
  | remoteAccess
  /-- R393. A module forwards a two-hop packet onward in its next slot. -/
  | forward
  /-- R392. NOW reaches TTSTART and the timetable banks swap. -/
  | bankSwap
  /-- R394. A port checks the received beacon at slot start. -/
  | beacon
  /-- R399. A lost port or comb claims a spare. -/
  | failover
  /-- R401. An IEEE 1588 message disciplines NOW. -/
  | ptpMessage
  /-- R401. Lock is lost or the offset exceeds 1 ms; NOW runs on its own oscillator. -/
  | holdover
  /-- R398. An SPCLM write reserves a spare for a planned move. -/
  | resv
  /-- R398. An SPCLM write commits a reservation. -/
  | commit
  /-- R408. A SKEW write resets MINM to 0xFFFF. -/
  | minm
  /-- R417. A write clears a package counter. -/
  | counterClear
  /-- R423. PWRCTL OPTREQ = 0 requests OPTOFF. -/
  | optreqClear
  /-- R423. PWRCTL OPTREQ = 1 starts the lasers and heaters. -/
  | optreqSet
  /-- R390. An RBSEL write captures one object page into the readback window. -/
  | rbsel
  /-- R410. HCMD RETIRE retires one ring, moving its channel first. -/
  | retire
  /-- R4. A write to a control register with no row of its own stores its RW fields and clears W1C bits. -/
  | registerWrite
  /-- R389. Primary mailbox Identify command. -/
  | identify
  /-- R389. Primary mailbox Get Health Info command. -/
  | getHealthInfo
  /-- R389. Primary mailbox Get FW Info command. -/
  | getFwInfo
  /-- R389. Writes a firmware image into the inactive flash slot. -/
  | transferFw
  /-- R389. Selects firmware to take effect at the next reset. -/
  | activateFw
  /-- R389. Any other mailbox opcode returns Unsupported. -/
  | unsupported
  /-- R388. SPDM GET_VERSION request. -/
  | getVersion
  /-- R388. SPDM GET_CAPABILITIES request. -/
  | getCapabilities
  /-- R388. SPDM NEGOTIATE_ALGORITHMS; only SM3 and SM2 are accepted. -/
  | negotiateAlgorithms
  /-- R388. SPDM GET_DIGESTS request. -/
  | getDigests
  /-- R388. SPDM GET_CERTIFICATE returns the slot 0 identity certificate. -/
  | getCertificate
  /-- R388. SPDM CHALLENGE signed with the identity key. -/
  | challenge
  /-- R388. SPDM GET_MEASUREMENTS returns measurement blocks 1–4. -/
  | getMeasurements
  /-- R378. BREAK and WATCH now halt the region. -/
  | attach
  /-- R378. Ends ATTACH and clears the watchpoints. -/
  | detach
  /-- R379. Stops the region's threads and dispatch. -/
  | halt
  /-- R379. HALT completes once commands in flight end and sequencers hold. -/
  | haltComplete
  /-- R378. Lets halted threads and sequencers continue. -/
  | resume
  /-- R380. Undoes trail entries back to a window after the obstacle checks. -/
  | rewind
  /-- R382. Runs up to count instructions of one positioned thread. -/
  | replay
  /-- R378. Recycles trail windows below n. -/
  | trim
  /-- R378. Sets or clears a watchpoint range. -/
  | watch
  /-- R69. An acknowledgement, a dead-link report or a refusal for an outside-domain store or atomic arrives from the host, a
  remote stack logic or a control-space target, so that the access counts as performed and its counters update. -/
  | acknowledgement
  /-- R382. A REPLAY whose stepped instruction still has a pending register, or whose out pack has not been restored, after 1 ms
  of NOW stops with PARKED. -/
  | replayParked
  /-- R396. Light appears at or vanishes from an import port, which changes UP and whether its listeners can integrate or
  register. -/
  | importLight
  deriving DecidableEq, Repr

/-- The row of the table that an event is. -/
def Event.row : Event → Instr
  | .completion _ => .completion
  | .chunk _ => .chunk
  | .rebase => .rebase
  | .transfer _ _ => .transfer
  | .transferReceive _ => .transferReceive
  | .transferAck _ _ _ => .transferAck
  | .releaseNotice _ => .releaseNotice
  | .noticeRequest _ => .noticeRequest
  | .noticeRequestRetry _ _ => .noticeRequestRetry
  | .noticeWaitTimeout _ _ => .noticeWaitTimeout
  | .ackTimeout _ _ => .ackTimeout
  | .quarantineEnd _ => .quarantineEnd
  | .frameBoundary _ _ _ _ => .frameBoundary
  | .accumulation _ => .accumulation
  | .importFrame _ => .importFrame
  | .combLoss _ => .combLoss
  | .lineLowTimeout _ _ => .lineLowTimeout
  | .shadowCheck _ => .shadowCheck
  | .trackerService _ _ _ _ _ => .trackerService
  | .moveSettle _ => .moveSettle
  | .patrolScrub _ _ _ => .patrolScrub
  | .holdTimeout _ => .holdTimeout
  | .invAll => .invAll
  | .invAsid _ => .invAsid
  | .invRange _ _ => .invRange
  | .invalidationComplete => .invalidationComplete
  | .resolved _ => .resolved
  | .invalid _ => .invalid
  | .residencyTimeout _ => .residencyTimeout
  | .doorbell _ _ => .doorbell
  | .qctl _ _ => .qctl
  | .acceptance _ => .acceptance
  | .semaphoreRead _ _ => .semaphoreRead
  | .start _ => .start
  | .dispatch _ _ => .dispatch
  | .holdClusters _ => .holdClusters
  | .preEmption _ _ => .preEmption
  | .save _ => .save
  | .restore _ _ => .restore
  | .packEnd _ => .packEnd
  | .regionKill _ _ => .regionKill
  | .powerOn => .powerOn
  | .conventionalReset => .conventionalReset
  | .config _ _ => .config
  | .ident _ => .ident
  | .memup _ => .memup
  | .optic _ _ => .optic
  | .ready => .ready
  | .linkDown => .linkDown
  | .linkUp => .linkUp
  | .trip _ _ => .trip
  | .tripRecovery _ => .tripRecovery
  | .cxlMemAccess _ _ _ => .cxlMemAccess
  | .remoteAccess _ _ _ _ _ => .remoteAccess
  | .forward _ _ _ => .forward
  | .bankSwap => .bankSwap
  | .beacon _ _ _ _ _ _ => .beacon
  | .failover _ _ => .failover
  | .ptpMessage _ _ => .ptpMessage
  | .holdover _ => .holdover
  | .resv _ _ => .resv
  | .commit _ => .commit
  | .minm _ => .minm
  | .counterClear _ => .counterClear
  | .optreqClear => .optreqClear
  | .optreqSet => .optreqSet
  | .rbsel _ => .rbsel
  | .retire _ => .retire
  | .registerWrite _ _ _ => .registerWrite
  | .identify => .identify
  | .getHealthInfo => .getHealthInfo
  | .getFwInfo => .getFwInfo
  | .transferFw _ _ _ => .transferFw
  | .activateFw => .activateFw
  | .unsupported _ => .unsupported
  | .getVersion => .getVersion
  | .getCapabilities => .getCapabilities
  | .negotiateAlgorithms _ _ => .negotiateAlgorithms
  | .getDigests => .getDigests
  | .getCertificate _ => .getCertificate
  | .challenge _ _ => .challenge
  | .getMeasurements _ _ => .getMeasurements
  | .attach _ => .attach
  | .detach _ => .detach
  | .halt _ => .halt
  | .haltComplete => .haltComplete
  | .resume _ => .resume
  | .rewind _ => .rewind
  | .replay _ => .replay
  | .trim _ => .trim
  | .watch _ => .watch
  | .acknowledgement _ => .acknowledgement
  | .replayParked => .replayParked
  | .importLight _ _ _ _ _ => .importLight

end Sys2Proof
end

