-- ==== Sys2Proof/WellFormed.lean ====
section
/-! DEFINITION. Which abstract instructions the encodings of spec/05 R107 to R123 allow, and which events name units that
exist (spec/01 R8). -/

namespace Sys2Proof

/-- FP32, BF16 or FP16: the types of the FP long forms (R117). -/
def Ty.isFp3 : Ty → Bool
  | .f32 | .bf16 | .f16 => true
  | _ => false

/-- The five floating-point formats (R83). -/
def Ty.isFp : Ty → Bool
  | .int | .uint => false
  | _ => true

/-- The types of VTOPK (R117). -/
def Ty.isTopk : Ty → Bool
  | .f32 | .bf16 | .f16 | .int | .uint => true
  | _ => false

/-- The FP side of VPACK and VUNPK (R118). -/
def Ty.isMxSide : Ty → Bool
  | .f32 | .bf16 => true
  | _ => false

/-- Element width in bits (R114, R171). -/
def Ty.bits : Ty → Nat
  | .f32 | .int | .uint => 32
  | .bf16 | .f16 => 16
  | .e4m3 | .e5m2 => 8

/-- A compare or FTST destination is even and from p2 to p14 (R112). -/
def pairOk (pd : PReg) : Bool := pd.toNat % 2 == 0 && pd != 0

/-- VTOPK's destination is even (R181). -/
def evenReg (d : Reg6) : Bool := d.toNat % 2 == 0

/-- k and n are 0 unless the mode is SR (R111). -/
def srOk (rm : Rm) (k n : Reg6) : Bool := rm == .sr || (k == 0 && n == 0)

/-- The pairs of VQSC: D is BF16, FP16, E4M3, E5M2 or .int, no wider than S (R173). -/
def qscOk (sty dty : Ty) : Bool :=
  sty.isFp3 && (dty != .f32) && (dty != .uint) && decide (dty.bits ≤ sty.bits)

/-- pos + len does not exceed 64 (R143). -/
def bitsOk (pos len1 : BitVec 6) : Bool := decide (pos.toNat + len1.toNat + 1 ≤ 64)

/-- LDX: plain with scope 0, or acquire (R119). -/
def ldxOk (o : Ordr) (sc : Scope) : Bool := (o == .plain && sc == .cl) || o == .acq

/-- STX: plain with scope 0, or release (R119). -/
def stxOk (o : Ordr) (sc : Scope) : Bool := (o == .plain && sc == .cl) || o == .rel

/-- ATOM's field rules (R120). -/
def atomOk (c : Reg6) (op : AOp) (aw : AWidth) (o : Ordr) (sc : Scope) : Bool :=
  (op == .cas || c == 0) && (op == .add || aw == .i32 || aw == .i64) && (o != .plain || sc == .cl)

/-- A predicate field of a future-control instruction has [5:4] zero (R112). -/
def classReg (cl : RClass) (r : Reg6) : Bool := cl != .p || decide (r.toNat < 16)

/-- The highest register of a copy's group (R213, R216). -/
def cpTop (bar hist : Bool) : Nat := if hist then 2 else if bar then 1 else 0

/-- The highest register of CP.CVT's group (R213). -/
def cvtTop (bar hist : Bool) (rm : Rm) : Nat := if rm == .sr then 4 else cpTop bar hist

/-- The group lies within s0 to s63 (R213). -/
def groupOk (c : Reg6) (top : Nat) : Bool := decide (c.toNat + top ≤ 63)

/-- The control-register indices of R15. -/
def crIndices : List Nat :=
  [0x00, 0x01, 0x08, 0x09, 0x0A, 0x0B, 0x10, 0x11, 0x12, 0x13, 0x14, 0x18, 0x19, 0x1A, 0x20, 0x28, 0x29, 0x2A,
   0x30, 0x31, 0x38]

/-- An index of R15 (R149). -/
def crIndexOk (x : Nat) : Bool := crIndices.contains x

/-- An encoding admits the instruction; a row that is an event has no encoding. -/
def wellFormed : Instr → Bool
  | .add _ _ _ _ => true
  | .sub _ _ _ _ => true
  | .and _ _ _ _ => true
  | .or _ _ _ _ => true
  | .xor _ _ _ _ => true
  | .sll _ _ _ _ => true
  | .srl _ _ _ _ => true
  | .sra _ _ _ _ => true
  | .mul _ _ _ _ => true
  | .mulhs _ _ _ _ => true
  | .mulhu _ _ _ _ => true
  | .divs _ _ _ _ => true
  | .divu _ _ _ _ => true
  | .rems _ _ _ _ => true
  | .remu _ _ _ _ => true
  | .addi _ _ _ _ => true
  | .andi _ _ _ _ => true
  | .ori _ _ _ _ => true
  | .xori _ _ _ _ => true
  | .slli _ _ _ _ => true
  | .srli _ _ _ _ => true
  | .srai _ _ _ _ => true
  | .rotri _ _ _ _ => true
  | .movi _ _ _ => true
  | .addiL _ _ _ _ => true
  | .orhi _ _ _ _ => true
  | .andiL _ _ _ _ => true
  | .xoriL _ _ _ _ => true
  | .cmpiL _ _ pd _ _ => pairOk pd
  | .muladd _ _ _ _ _ => true
  | .mins _ _ _ _ => true
  | .minu _ _ _ _ => true
  | .maxs _ _ _ _ => true
  | .maxu _ _ _ _ => true
  | .clz _ _ _ => true
  | .ctz _ _ _ => true
  | .popc _ _ _ => true
  | .brev _ _ _ => true
  | .cmp _ _ pd _ _ => pairOk pd
  | .cmpi _ _ pd _ _ => pairOk pd
  | .pand _ _ _ _ => true
  | .por _ _ _ _ => true
  | .pxor _ _ _ _ => true
  | .pandn _ _ _ _ => true
  | .pnot _ _ _ => true
  | .pfroms _ _ _ => true
  | .ptos _ _ _ => true
  | .pcnt _ _ _ => true
  | .br _ _ => true
  | .call _ _ => true
  | .jr _ _ => true
  | .jalr _ _ _ => true
  | .yield _ => true
  | .exit _ => true
  | .brk _ _ => true
  | .crr _ _ x => crIndexOk x.toNat
  | .crw _ _ x => crIndexOk x.toNat
  | .shadd _ _ _ _ _ => true
  | .bfxu _ _ _ pos len1 => bitsOk pos len1
  | .bfxs _ _ _ pos len1 => bitsOk pos len1
  | .bfi _ _ _ pos len1 => bitsOk pos len1
  | .illegalOp _ _ => true
  | .extAbsent _ _ => true
  | .vaddF32 _ _ _ _ rm => rm != .sr
  | .vsubF32 _ _ _ _ rm => rm != .sr
  | .vmulF32 _ _ _ _ rm => rm != .sr
  | .vaddBf16 _ _ _ _ rm => rm != .sr
  | .vsubBf16 _ _ _ _ rm => rm != .sr
  | .vmulBf16 _ _ _ _ rm => rm != .sr
  | .vaddF16 _ _ _ _ rm => rm != .sr
  | .vsubF16 _ _ _ _ rm => rm != .sr
  | .vmulF16 _ _ _ _ rm => rm != .sr
  | .vdivF32 _ _ _ _ rm => rm != .sr
  | .vsqrtF32 _ _ _ rm => rm != .sr
  | .vrcpF32 _ _ _ rm => rm != .sr
  | .vrsqF32 _ _ _ rm => rm != .sr
  | .vexp2F32 _ _ _ rm => rm != .sr
  | .vlog2F32 _ _ _ rm => rm != .sr
  | .vfcmp _ _ pd _ _ ty => pairOk pd && ty.isFp3
  | .vaddL _ _ _ _ ty rm k n => ty.isFp3 && srOk rm k n
  | .vsubL _ _ _ _ ty rm k n => ty.isFp3 && srOk rm k n
  | .vmulL _ _ _ _ ty rm k n => ty.isFp3 && srOk rm k n
  | .vdivL _ _ _ _ ty rm k n => ty.isFp3 && srOk rm k n
  | .vfma _ _ _ _ _ ty rm k n => ty.isFp3 && srOk rm k n
  | .vfms _ _ _ _ _ ty rm k n => ty.isFp3 && srOk rm k n
  | .vfnma _ _ _ _ _ ty rm k n => ty.isFp3 && srOk rm k n
  | .vsqrtL _ _ _ ty rm k n => ty.isFp3 && srOk rm k n
  | .vrcpL _ _ _ ty rm k n => ty.isFp3 && srOk rm k n
  | .vrsqL _ _ _ ty rm k n => ty.isFp3 && srOk rm k n
  | .vexp2L _ _ _ ty rm k n => ty.isFp3 && srOk rm k n
  | .vlog2L _ _ _ ty rm k n => ty.isFp3 && srOk rm k n
  | .vmin _ _ _ _ ty => ty.isFp3
  | .vmax _ _ _ _ ty => ty.isFp3
  | .vabs _ _ _ ty => ty.isFp3
  | .vneg _ _ _ ty => ty.isFp3
  | .vaddI32 _ _ _ _ => true
  | .vsubI32 _ _ _ _ => true
  | .vmulI32 _ _ _ _ => true
  | .vminS32 _ _ _ _ => true
  | .vmaxS32 _ _ _ _ => true
  | .vminuI32 _ _ _ _ => true
  | .vmaxuI32 _ _ _ _ => true
  | .vsraI32 _ _ _ _ => true
  | .vand _ _ _ _ => true
  | .vor _ _ _ _ => true
  | .vxor _ _ _ _ => true
  | .vandn _ _ _ _ => true
  | .vshlI32 _ _ _ _ => true
  | .vshrI32 _ _ _ _ => true
  | .vnot _ _ _ => true
  | .vmov _ _ _ => true
  | .vicmp _ _ pd _ _ _ => pairOk pd
  | .vsel _ _ _ _ _ => true
  | .vperm _ _ _ _ => true
  | .vbcast _ _ _ _ => true
  | .vins _ _ _ _ => true
  | .vext _ _ _ _ => true
  | .vziplo _ _ _ _ => true
  | .vziphi _ _ _ _ => true
  | .vcomp _ _ _ => true
  | .vsplati _ _ _ => true
  | .vdotS8 _ _ _ _ => true
  | .vdotU8 _ _ _ _ => true
  | .vdotSu8 _ _ _ _ => true
  | .vredAddF32 _ _ _ => true
  | .vredMaxF32 _ _ _ => true
  | .vredMinF32 _ _ _ => true
  | .vredAddI32 _ _ _ => true
  | .vredMaxS32 _ _ _ => true
  | .vredMinS32 _ _ _ => true
  | .vredMaxuI32 _ _ _ => true
  | .vredMinuI32 _ _ _ => true
  | .vcvt _ _ _ sty dty rm => sty != dty && rm != .sr
  | .vhist _ _ _ _ ty => ty.isFp
  | .vaddIw _ _ _ _ _ => true
  | .vsubIw _ _ _ _ _ => true
  | .vmulIw _ _ _ _ _ => true
  | .vmulhs _ _ _ _ _ => true
  | .vmulhu _ _ _ _ _ => true
  | .vadds _ _ _ _ _ => true
  | .vaddsu _ _ _ _ _ => true
  | .vsubs _ _ _ _ _ => true
  | .vsubsu _ _ _ _ _ => true
  | .vmins _ _ _ _ _ => true
  | .vmaxs _ _ _ _ _ => true
  | .vminu _ _ _ _ _ => true
  | .vmaxu _ _ _ _ _ => true
  | .vshl _ _ _ _ _ => true
  | .vshr _ _ _ _ _ => true
  | .vsra _ _ _ _ _ => true
  | .vmad _ _ _ _ _ _ => true
  | .vdivs _ _ _ _ _ => true
  | .vdivu _ _ _ _ _ => true
  | .vabsIw _ _ _ _ => true
  | .vredAdd _ _ _ ty rm => ty.isFp3 && rm != .sr
  | .vredMax _ _ _ ty => ty.isFp3
  | .vredMin _ _ _ ty => ty.isFp3
  | .vtopk _ d _ _ _ ty => ty.isTopk && evenReg d
  | .vcvtL _ _ _ sty dty rm k n => sty != dty && srOk rm k n
  | .vqsc _ _ _ _ sty dty rm k n => qscOk sty dty && srOk rm k n
  | .vpack _ _ _ _ ty rm k n => ty.isMxSide && srOk rm k n
  | .vunpk _ _ _ _ ty rm k n => ty.isMxSide && srOk rm k n
  | .vhistMx _ _ _ _ _ => true
  | .ld _ _ _ _ _ => true
  | .st _ _ _ _ _ => true
  | .vld _ _ _ _ _ => true
  | .vst _ _ _ _ _ => true
  | .ldx _ _ _ _ sc o _ => ldxOk o sc
  | .stx _ _ _ _ sc o _ => stxOk o sc
  | .vlds _ _ _ _ _ => true
  | .vsts _ _ _ _ _ => true
  | .vgath _ _ _ _ _ => true
  | .vscat _ _ _ _ _ => true
  | .fence _ _ _ => true
  | .atom _ _ _ _ c op aw o sc _ => atomOk c op aw o sc
  | .ftst _ pd a cl _ => pairOk pd && classReg cl a
  | .fmov _ d a cl => classReg cl d && classReg cl a
  | .fdrop _ d cl => classReg cl d
  | .fwait _ a cl => classReg cl a
  | .tmark _ _ => true
  | .phReg _ _ _ => true
  | .phArrive _ _ => true
  | .phWait _ _ _ _ => true
  | .phDereg _ _ => true
  | .phRole _ _ _ => true
  | .phInit _ _ _ => true
  | .fpoison _ d cl code => classReg cl d && decide (0x8000 ≤ code.toNat)
  | .semWait _ _ _ _ _ => true
  | .qseq _ _ _ _ => true
  | .qseqLane _ _ _ _ => true
  | .qtbl _ _ _ _ => true
  | .vrand _ _ _ _ => true
  | .probeR _ _ _ _ => true
  | .probeW _ _ _ _ => true
  | .cpCopy _ _ _ _ c _ bar hist _ hty _ => hty.isFp && groupOk c (cpTop bar hist)
  | .cpFill _ _ _ _ c _ bar _ _ => groupOk c (cpTop bar false)
  | .cpCvt _ _ _ _ c _ bar hist _ dty sty rm _ => dty != sty && groupOk c (cvtTop bar hist rm)
  | .cpStride _ _ _ _ c _ _ _ hty _ => hty.isFp && groupOk c 3
  | .ringAdvFill _ _ _ _ => true
  | .ringAdvFree _ _ _ _ => true
  | .ringWaitFill _ _ _ _ => true
  | .ringWaitFree _ _ _ _ => true
  | .ringReset _ _ _ _ _ => true
  | .collArm _ _ _ => true
  | .collDisarm _ _ _ => true
  | .collGo _ _ _ => true
  | .collGoResume _ _ _ => true
  | .launch _ _ _ _ _ => true
  | .strmGoTile _ _ _ _ _ _ => true
  | .strmGoBus _ _ _ _ _ _ => true
  | .strmReg _ _ _ _ => true
  | .strmDereg _ _ _ => true
  | .lnkAlign _ _ _ => true
  | .sEnd => true
  | .sJmp _ => true
  | .sLoop _ _ => true
  | .sSetlc _ _ => true
  | .sBrz _ _ => true
  | .sWnow _ => true
  | .sWin _ => true
  | .sGain _ => true
  | .sFmt _ => true
  | .sFmtA _ => true
  | .sScl _ _ => true
  | .sRing _ _ _ => true
  | .sMode _ => true
  | .sSelb _ => true
  | .sAcc _ => true
  | .sAclr _ => true
  | .sRun _ => true
  | .sDrain _ _ _ _ _ => true
  | .sOrst => true
  | .badStreamOp _ => true
  | .completion => true
  | .chunk => true
  | .rebase => true
  | .transfer => true
  | .transferReceive => true
  | .transferAck => true
  | .releaseNotice => true
  | .noticeRequest => true
  | .noticeRequestRetry => true
  | .noticeWaitTimeout => true
  | .ackTimeout => true
  | .quarantineEnd => true
  | .frameBoundary => true
  | .accumulation => true
  | .importFrame => true
  | .combLoss => true
  | .lineLowTimeout => true
  | .shadowCheck => true
  | .trackerService => true
  | .moveSettle => true
  | .patrolScrub => true
  | .holdTimeout => true
  | .invAll => true
  | .invAsid => true
  | .invRange => true
  | .invalidationComplete => true
  | .resolved => true
  | .invalid => true
  | .residencyTimeout => true
  | .doorbell => true
  | .qctl => true
  | .acceptance => true
  | .semaphoreRead => true
  | .start => true
  | .dispatch => true
  | .holdClusters => true
  | .preEmption => true
  | .save => true
  | .restore => true
  | .packEnd => true
  | .regionKill => true
  | .powerOn => true
  | .conventionalReset => true
  | .config => true
  | .ident => true
  | .memup => true
  | .optic => true
  | .ready => true
  | .linkDown => true
  | .linkUp => true
  | .trip => true
  | .tripRecovery => true
  | .cxlMemAccess => true
  | .remoteAccess => true
  | .forward => true
  | .bankSwap => true
  | .beacon => true
  | .failover => true
  | .ptpMessage => true
  | .holdover => true
  | .resv => true
  | .commit => true
  | .minm => true
  | .counterClear => true
  | .optreqClear => true
  | .optreqSet => true
  | .rbsel => true
  | .retire => true
  | .registerWrite => true
  | .identify => true
  | .getHealthInfo => true
  | .getFwInfo => true
  | .transferFw => true
  | .activateFw => true
  | .unsupported => true
  | .getVersion => true
  | .getCapabilities => true
  | .negotiateAlgorithms => true
  | .getDigests => true
  | .getCertificate => true
  | .challenge => true
  | .getMeasurements => true
  | .attach => true
  | .detach => true
  | .halt => true
  | .haltComplete => true
  | .resume => true
  | .rewind => true
  | .replay => true
  | .trim => true
  | .watch => true
  | .acknowledgement => true
  | .replayParked => true
  | .importLight => true

/-- The units that an event names exist (spec/01 R8). -/
def Event.wellFormed : Event → Bool
  | .completion _ => true
  | .chunk _ => true
  | .rebase => true
  | .transfer die h => decide (die < 4) && decide (h < 16)
  | .transferReceive _ => true
  | .transferAck _ _ _ => true
  | .releaseNotice _ => true
  | .noticeRequest _ => true
  | .noticeRequestRetry die h => decide (die < 4) && decide (h < 16)
  | .noticeWaitTimeout die h => decide (die < 4) && decide (h < 16)
  | .ackTimeout die h => decide (die < 4) && decide (h < 16)
  | .quarantineEnd _ => true
  | .frameBoundary bus _ _ _ => decide (bus < 8)
  | .accumulation tile => decide (tile < 32)
  | .importFrame f => decide (f.port < 4)
  | .combLoss comb => decide (comb < 5)
  | .lineLowTimeout comb line => decide (comb < 5) && decide (line < 64)
  | .shadowCheck tile => decide (tile < 32)
  | .trackerService tile col ring _ _ => decide (tile < 32) && decide (col < 128) && decide (ring < 68)
  | .moveSettle _ => true
  | .patrolScrub _ _ _ => true
  | .holdTimeout _ => true
  | .invAll => true
  | .invAsid _ => true
  | .invRange _ _ => true
  | .invalidationComplete => true
  | .resolved _ => true
  | .invalid _ => true
  | .residencyTimeout _ => true
  | .doorbell q _ => decide (q < 64)
  | .qctl q _ => decide (q < 64)
  | .acceptance q => decide (q < 64)
  | .semaphoreRead _ which => decide (which < 2)
  | .start _ => true
  | .dispatch _ cluster => decide (cluster < 8)
  | .holdClusters _ => true
  | .preEmption _ cluster => decide (cluster < 8)
  | .save _ => true
  | .restore _ cluster => decide (cluster < 8)
  | .packEnd _ => true
  | .regionKill _ _ => true
  | .powerOn => true
  | .conventionalReset => true
  | .config _ _ => true
  | .ident _ => true
  | .memup _ => true
  | .optic _ _ => true
  | .ready => true
  | .linkDown => true
  | .linkUp => true
  | .trip die _ => decide (die < 4)
  | .tripRecovery _ => true
  | .cxlMemAccess _ _ _ => true
  | .remoteAccess _ port _ _ _ => decide (port < 18)
  | .forward _ _ _ => true
  | .bankSwap => true
  | .beacon port _ _ _ _ _ => decide (port < 18)
  | .failover _ n => decide (n < 18)
  | .ptpMessage domain _ => decide (domain < 256)
  | .holdover _ => true
  | .resv k _ => decide (k < 3)
  | .commit k => decide (k < 3)
  | .minm tile => decide (tile < 32)
  | .counterClear k => decide (k < 9)
  | .optreqClear => true
  | .optreqSet => true
  | .rbsel _ => true
  | .retire _ => true
  | .registerWrite _ _ _ => true
  | .identify => true
  | .getHealthInfo => true
  | .getFwInfo => true
  | .transferFw _ _ _ => true
  | .activateFw => true
  | .unsupported _ => true
  | .getVersion => true
  | .getCapabilities => true
  | .negotiateAlgorithms _ _ => true
  | .getDigests => true
  | .getCertificate _ => true
  | .challenge _ _ => true
  | .getMeasurements _ _ => true
  | .attach _ => true
  | .detach _ => true
  | .halt _ => true
  | .haltComplete => true
  | .resume _ => true
  | .rewind _ => true
  | .replay _ => true
  | .trim _ => true
  | .watch _ => true
  | .acknowledgement gtid => decide (gtid < 8192)
  | .replayParked => true
  | .importLight port _ bus _ _ => decide (port < 4) && decide (bus < 4)

end Sys2Proof
end

