-- ==== Sys2Proof/Decode.lean ====
section
/-! DEFINITION. The decoder, total on any words, and the encoder (spec/05 R107 to R126, spec/06 R137, spec/07 R161,
spec/08 R187, spec/09 R213, spec/10 R245). A word that is no instruction is rejected by name; the machine turns the
rejection into the ILLEGAL_OP or EXT_ABSENT row of the table. -/

namespace Sys2Proof

/-- Why a word is no instruction (R124, R245). -/
inductive DecodeError where
  | reservedMajor    -- a reserved major (R115 to R123)
  | extAbsent        -- an extension major whose feature bit is clear (R123, R126)
  | unassigned       -- an unassigned sub-function
  | reservedCode     -- a reserved code in a field
  | reservedField    -- a reserved field that is not zero, or a field outside its limits
  | badStreamOp      -- a stream word with no opcode of R245
  | short            -- fewer bytes than the instruction has
  deriving DecidableEq, Repr

/-! ### Field codes (R113, R114, R119, R120) -/

def Rm.code : Rm → Nat
  | .rne => 0
  | .rtz => 1
  | .rdn => 2
  | .rup => 3
  | .rna => 4
  | .sr => 5
  | .rto => 6
  | .dyn => 7

def Rm.ofCode : Nat → Option Rm
  | 0 => some .rne
  | 1 => some .rtz
  | 2 => some .rdn
  | 3 => some .rup
  | 4 => some .rna
  | 5 => some .sr
  | 6 => some .rto
  | 7 => some .dyn
  | _ => none

theorem Rm.ofCode_code (x : Rm) : Rm.ofCode x.code = some x := by cases x <;> rfl

theorem Rm.code_lt (x : Rm) : x.code < 8 := by cases x <;> decide

def Ty.code : Ty → Nat
  | .f32 => 0
  | .bf16 => 1
  | .f16 => 2
  | .e4m3 => 3
  | .e5m2 => 4
  | .int => 5
  | .uint => 6

def Ty.ofCode : Nat → Option Ty
  | 0 => some .f32
  | 1 => some .bf16
  | 2 => some .f16
  | 3 => some .e4m3
  | 4 => some .e5m2
  | 5 => some .int
  | 6 => some .uint
  | _ => none

theorem Ty.ofCode_code (x : Ty) : Ty.ofCode x.code = some x := by cases x <;> rfl

theorem Ty.code_lt (x : Ty) : x.code < 8 := by cases x <;> decide

def Width.code : Width → Nat
  | .w8 => 0
  | .w16 => 1
  | .w32 => 2
  | .w64 => 3

def Width.ofCode : Nat → Option Width
  | 0 => some .w8
  | 1 => some .w16
  | 2 => some .w32
  | 3 => some .w64
  | _ => none

theorem Width.ofCode_code (x : Width) : Width.ofCode x.code = some x := by cases x <;> rfl

theorem Width.code_lt (x : Width) : x.code < 4 := by cases x <;> decide

def LdSz.code : LdSz → Nat
  | .z8 => 0
  | .z16 => 1
  | .z32 => 2
  | .x64 => 3
  | .s8 => 4
  | .s16 => 5
  | .s32 => 6

def LdSz.ofCode : Nat → Option LdSz
  | 0 => some .z8
  | 1 => some .z16
  | 2 => some .z32
  | 3 => some .x64
  | 4 => some .s8
  | 5 => some .s16
  | 6 => some .s32
  | _ => none

theorem LdSz.ofCode_code (x : LdSz) : LdSz.ofCode x.code = some x := by cases x <;> rfl

theorem LdSz.code_lt (x : LdSz) : x.code < 8 := by cases x <;> decide

def ICond.code : ICond → Nat
  | .eq => 0
  | .lt => 1
  | .ltu => 2
  | .tst => 3

def ICond.ofCode : Nat → Option ICond
  | 0 => some .eq
  | 1 => some .lt
  | 2 => some .ltu
  | 3 => some .tst
  | _ => none

theorem ICond.ofCode_code (x : ICond) : ICond.ofCode x.code = some x := by cases x <;> rfl

theorem ICond.code_lt (x : ICond) : x.code < 4 := by cases x <;> decide

def FCond.code : FCond → Nat
  | .eq => 0
  | .lt => 1
  | .le => 2
  | .un => 3

def FCond.ofCode : Nat → Option FCond
  | 0 => some .eq
  | 1 => some .lt
  | 2 => some .le
  | 3 => some .un
  | _ => none

theorem FCond.ofCode_code (x : FCond) : FCond.ofCode x.code = some x := by cases x <;> rfl

theorem FCond.code_lt (x : FCond) : x.code < 4 := by cases x <;> decide

def SCond.code : SCond → Nat
  | .eq => 0
  | .ne => 1
  | .geu => 2
  | .ges => 3
  | .ltu => 4
  | .maskAll => 5
  | .maskAny => 6

def SCond.ofCode : Nat → Option SCond
  | 0 => some .eq
  | 1 => some .ne
  | 2 => some .geu
  | 3 => some .ges
  | 4 => some .ltu
  | 5 => some .maskAll
  | 6 => some .maskAny
  | _ => none

theorem SCond.ofCode_code (x : SCond) : SCond.ofCode x.code = some x := by cases x <;> rfl

theorem SCond.code_lt (x : SCond) : x.code < 8 := by cases x <;> decide

def Scope.code : Scope → Nat
  | .cl => 0
  | .pkg => 1
  | .sys => 2

def Scope.ofCode : Nat → Option Scope
  | 0 => some .cl
  | 1 => some .pkg
  | 2 => some .sys
  | _ => none

theorem Scope.ofCode_code (x : Scope) : Scope.ofCode x.code = some x := by cases x <;> rfl

theorem Scope.code_lt (x : Scope) : x.code < 4 := by cases x <;> decide

def Ordr.code : Ordr → Nat
  | .plain => 0
  | .acq => 1
  | .rel => 2
  | .ar => 3

def Ordr.ofCode : Nat → Option Ordr
  | 0 => some .plain
  | 1 => some .acq
  | 2 => some .rel
  | 3 => some .ar
  | _ => none

theorem Ordr.ofCode_code (x : Ordr) : Ordr.ofCode x.code = some x := by cases x <;> rfl

theorem Ordr.code_lt (x : Ordr) : x.code < 4 := by cases x <;> decide

def RClass.code : RClass → Nat
  | .s => 0
  | .v => 1
  | .p => 2

def RClass.ofCode : Nat → Option RClass
  | 0 => some .s
  | 1 => some .v
  | 2 => some .p
  | _ => none

theorem RClass.ofCode_code (x : RClass) : RClass.ofCode x.code = some x := by cases x <;> rfl

theorem RClass.code_lt (x : RClass) : x.code < 4 := by cases x <;> decide

def AOp.code : AOp → Nat
  | .add => 0
  | .and => 1
  | .or => 2
  | .xor => 3
  | .mins => 4
  | .minu => 5
  | .maxs => 6
  | .maxu => 7
  | .swap => 8
  | .cas => 9

def AOp.ofCode : Nat → Option AOp
  | 0 => some .add
  | 1 => some .and
  | 2 => some .or
  | 3 => some .xor
  | 4 => some .mins
  | 5 => some .minu
  | 6 => some .maxs
  | 7 => some .maxu
  | 8 => some .swap
  | 9 => some .cas
  | _ => none

theorem AOp.ofCode_code (x : AOp) : AOp.ofCode x.code = some x := by cases x <;> rfl

theorem AOp.code_lt (x : AOp) : x.code < 16 := by cases x <;> decide

def AWidth.code : AWidth → Nat
  | .i32 => 0
  | .i64 => 1
  | .f32 => 2
  | .bf16 => 3

def AWidth.ofCode : Nat → Option AWidth
  | 0 => some .i32
  | 1 => some .i64
  | 2 => some .f32
  | 3 => some .bf16
  | _ => none

theorem AWidth.ofCode_code (x : AWidth) : AWidth.ofCode x.code = some x := by cases x <;> rfl

theorem AWidth.code_lt (x : AWidth) : x.code < 4 := by cases x <;> decide

def Mx.code : Mx → Nat
  | .mxint8 => 0
  | .mxint6 => 1
  | .mxint4 => 2

def Mx.ofCode : Nat → Option Mx
  | 0 => some .mxint8
  | 1 => some .mxint6
  | 2 => some .mxint4
  | _ => none

theorem Mx.ofCode_code (x : Mx) : Mx.ofCode x.code = some x := by cases x <;> rfl

theorem Mx.code_lt (x : Mx) : x.code < 4 := by cases x <;> decide

/-! ### Words and fields (R107, R110, R111) -/

/-- The low w bits of x from bit lo up. -/
def fld (x lo w : Nat) : Nat := x / 2 ^ lo % 2 ^ w

/-- A first word has format R in every 64-bit form, and every 32-bit format has its op, g, d and a fields (R110). -/
structure Fields where
  op : Nat
  g : Guard
  d : Reg6
  a : Reg6
  b : Reg6
  f : Nat
  deriving DecidableEq, Repr

def fields (w : Nat) : Fields where
  op := fld w 25 7
  g := BitVec.ofNat 4 (fld w 21 4)
  d := BitVec.ofNat 6 (fld w 15 6)
  a := BitVec.ofNat 6 (fld w 9 6)
  b := BitVec.ofNat 6 (fld w 3 6)
  f := fld w 0 3

/-- A word of format R (R110). -/
def encR (op : Nat) (g : Guard) (d a b f : Nat) : Nat :=
  op * 2 ^ 25 + g.toNat * 2 ^ 21 + d * 2 ^ 15 + a * 2 ^ 9 + b * 2 ^ 3 + f

theorem fields_encR (op : Nat) (g : Guard) (d a b : Reg6) (f : Nat) (ho : op < 128) (hf : f < 8) :
    fields (encR op g d.toNat a.toNat b.toNat f) = ⟨op, g, d, a, b, f⟩ := by
  have hg := g.isLt; have hd := d.isLt; have ha := a.isLt; have hb := b.isLt
  simp only [fields, encR, fld, Fields.mk.injEq]
  refine ⟨by omega, ?_, ?_, ?_, ?_, by omega⟩ <;> apply BitVec.eq_of_toNat_eq <;> simp <;> omega

/-- A first word is the first of two exactly when the low two bits of its major are 0b11 (R107). -/
def isLong (w0 : Nat) : Bool := fld w0 25 2 == 3

/-- The second half of an I, M or sub-coded word: its low nine bits (R110). -/
def imm9 (w : Nat) : BitVec 9 := BitVec.ofNat 9 w

/-- An extension word of layout XR (R111). -/
structure Xr where
  c : Reg6
  k : Reg6
  n : Reg6
  rm : Nat
  ty : Nat
  sub : Nat
  deriving DecidableEq, Repr

def xr (w : Nat) : Xr where
  c := BitVec.ofNat 6 (fld w 26 6)
  k := BitVec.ofNat 6 (fld w 20 6)
  n := BitVec.ofNat 6 (fld w 14 6)
  rm := fld w 11 3
  ty := fld w 8 3
  sub := fld w 0 8

def encXr (c k n rm ty sub : Nat) : Nat :=
  c * 2 ^ 26 + k * 2 ^ 20 + n * 2 ^ 14 + rm * 2 ^ 11 + ty * 2 ^ 8 + sub

theorem xr_encXr (c k n : Reg6) (rm ty sub : Nat) (hr : rm < 8) (ht : ty < 8) (hs : sub < 256) :
    xr (encXr c.toNat k.toNat n.toNat rm ty sub) = ⟨c, k, n, rm, ty, sub⟩ := by
  have hc := c.isLt; have hk := k.isLt; have hn := n.isLt
  simp only [xr, encXr, fld, Xr.mk.injEq]
  refine ⟨?_, ?_, ?_, by omega, by omega, by omega⟩ <;> apply BitVec.eq_of_toNat_eq <;> simp <;> omega

/-- An extension word of layout XE (R111). -/
structure Xe where
  c : Reg6
  flags : Nat
  sub : Nat
  eng : Nat
  deriving DecidableEq, Repr

def xe (w : Nat) : Xe where
  c := BitVec.ofNat 6 (fld w 26 6)
  flags := fld w 16 10
  sub := fld w 8 8
  eng := fld w 0 8

def encXe (c flags sub eng : Nat) : Nat := c * 2 ^ 26 + flags * 2 ^ 16 + sub * 2 ^ 8 + eng

theorem xe_encXe (c : Reg6) (flags sub eng : Nat) (hf : flags < 1024) (hs : sub < 256) (he : eng < 256) :
    xe (encXe c.toNat flags sub eng) = ⟨c, flags, sub, eng⟩ := by
  have hc := c.isLt
  simp only [xe, encXe, fld, Xe.mk.injEq]
  refine ⟨?_, by omega, by omega, by omega⟩
  apply BitVec.eq_of_toNat_eq; simp; omega

/-- A flag as a bit. -/
def bit (b : Bool) : Nat := if b then 1 else 0

def flag (x i : Nat) : Bool := fld x i 1 == 1

/-- The instruction, if the condition holds. -/
def need (c : Bool) (e : DecodeError) (i : Instr) : Except DecodeError Instr := if c then .ok i else .error e

def withCode {α : Type} (x : Option α) (k : α → Except DecodeError Instr) : Except DecodeError Instr :=
  match x with
  | some a => k a
  | none => .error .reservedCode

/-- The instruction, if the fields the form lists as zero are zero and it is well formed (R124 step 2). -/
def checked (zero : Bool) (i : Instr) : Except DecodeError Instr :=
  if zero && wellFormed i then .ok i else .error .reservedField

/-- A predicate register of a six-bit field: its low four bits; [5:4] must be zero (R112). -/
def preg (r : Reg6) : PReg := r.truncate 4

def pOk (r : Reg6) : Bool := decide (r.toNat < 16)

/-- A predicate number as a register field. -/
def ofP (p : PReg) : Reg6 := p.zeroExtend 6

/-! ### Scalar and control, majors 0x00 to 0x1F (R115) -/

def decodeScalar (F : Fields) (w0 w1 : Nat) : Except DecodeError Instr :=
  match F.op with
  | 0x00 => match F.f with
    | 0 => .ok (.add F.g F.d F.a F.b)
    | 1 => .ok (.sub F.g F.d F.a F.b)
    | 2 => .ok (.and F.g F.d F.a F.b)
    | 3 => .ok (.or F.g F.d F.a F.b)
    | 4 => .ok (.xor F.g F.d F.a F.b)
    | 5 => .ok (.sll F.g F.d F.a F.b)
    | 6 => .ok (.srl F.g F.d F.a F.b)
    | 7 => .ok (.sra F.g F.d F.a F.b)
    | _ => .error .unassigned
  | 0x01 => match F.f with
    | 0 => .ok (.mul F.g F.d F.a F.b)
    | 1 => .ok (.mulhs F.g F.d F.a F.b)
    | 2 => .ok (.mulhu F.g F.d F.a F.b)
    | 3 => .ok (.divs F.g F.d F.a F.b)
    | 4 => .ok (.divu F.g F.d F.a F.b)
    | 5 => .ok (.rems F.g F.d F.a F.b)
    | 6 => .ok (.remu F.g F.d F.a F.b)
    | _ => .error .unassigned
  | 0x02 => .ok (.addi F.g F.d F.a (imm9 w0))
  | 0x03 => match F.f with
    | 0 => checked (F.a == 0 && F.b == 0) (.movi F.g F.d (BitVec.ofNat 32 w1))
    | 1 => checked (F.b == 0) (.addiL F.g F.d F.a (BitVec.ofNat 32 w1))
    | 2 => checked (F.b == 0) (.orhi F.g F.d F.a (BitVec.ofNat 32 w1))
    | 3 => checked (F.b == 0) (.andiL F.g F.d F.a (BitVec.ofNat 32 w1))
    | 4 => checked (F.b == 0) (.xoriL F.g F.d F.a (BitVec.ofNat 32 w1))
    | 5 => withCode (ICond.ofCode (fld F.d.toNat 4 2)) fun c =>
        checked (F.b == 0) (.cmpiL F.g c (preg F.d) F.a (BitVec.ofNat 32 w1))
    | _ => .error .unassigned
  | 0x04 => .ok (.andi F.g F.d F.a (imm9 w0))
  | 0x05 => .ok (.ori F.g F.d F.a (imm9 w0))
  | 0x06 => .ok (.xori F.g F.d F.a (imm9 w0))
  | 0x07 =>
    let X := xr w1
    checked (F.f == 0 && X.sub == 0 && X.ty == 3 && X.rm == 0 && X.k == 0 && X.n == 0) (.muladd F.g F.d F.a F.b X.c)
  | 0x08 => if fld w0 8 1 != 0 then .error .reservedField else match fld w0 6 2 with
    | 0 => .ok (.slli F.g F.d F.a (BitVec.ofNat 6 w0))
    | 1 => .ok (.srli F.g F.d F.a (BitVec.ofNat 6 w0))
    | 2 => .ok (.srai F.g F.d F.a (BitVec.ofNat 6 w0))
    | _ => .ok (.rotri F.g F.d F.a (BitVec.ofNat 6 w0))
  | 0x09 => match F.f with
    | 0 => .ok (.mins F.g F.d F.a F.b)
    | 1 => .ok (.minu F.g F.d F.a F.b)
    | 2 => .ok (.maxs F.g F.d F.a F.b)
    | 3 => .ok (.maxu F.g F.d F.a F.b)
    | 4 => checked (F.b == 0) (.clz F.g F.d F.a)
    | 5 => checked (F.b == 0) (.ctz F.g F.d F.a)
    | 6 => checked (F.b == 0) (.popc F.g F.d F.a)
    | _ => checked (F.b == 0) (.brev F.g F.d F.a)
  | 0x0A => withCode (ICond.ofCode (fld F.d.toNat 4 2)) fun c =>
      checked (F.f == 0) (.cmp F.g c (preg F.d) F.a F.b)
  | 0x0B =>
    let pos := BitVec.ofNat 6 (fld w1 0 6)
    let len1 := BitVec.ofNat 6 (fld w1 6 6)
    let z := F.b == 0 && fld w1 12 20 == 0
    match F.f with
    | 0 => checked z (.bfxu F.g F.d F.a pos len1)
    | 1 => checked z (.bfxs F.g F.d F.a pos len1)
    | 2 => checked z (.bfi F.g F.d F.a pos len1)
    | _ => .error .unassigned
  | 0x0C => withCode (ICond.ofCode (fld F.d.toNat 4 2)) fun c =>
      checked true (.cmpi F.g c (preg F.d) F.a (imm9 w0))
  | 0x0D => match F.f with
    | 0 => checked (pOk F.d && pOk F.a && pOk F.b) (.pand F.g (preg F.d) (preg F.a) (preg F.b))
    | 1 => checked (pOk F.d && pOk F.a && pOk F.b) (.por F.g (preg F.d) (preg F.a) (preg F.b))
    | 2 => checked (pOk F.d && pOk F.a && pOk F.b) (.pxor F.g (preg F.d) (preg F.a) (preg F.b))
    | 3 => checked (pOk F.d && pOk F.a && pOk F.b) (.pandn F.g (preg F.d) (preg F.a) (preg F.b))
    | 4 => checked (pOk F.d && pOk F.a && F.b == 0) (.pnot F.g (preg F.d) (preg F.a))
    | 5 => checked (pOk F.d && F.b == 0) (.pfroms F.g (preg F.d) F.a)
    | 6 => checked (pOk F.a && F.b == 0) (.ptos F.g F.d (preg F.a))
    | _ => checked (pOk F.a && F.b == 0) (.pcnt F.g F.d (preg F.a))
  | 0x0E => .ok (.br F.g (BitVec.ofNat 21 w0))
  | 0x10 => .ok (.call F.g (BitVec.ofNat 21 w0))
  | 0x11 => match F.f with
    | 0 => checked (F.d == 0 && F.b == 0) (.jr F.g F.a)
    | 1 => checked (F.b == 0) (.jalr F.g F.d F.a)
    | _ => .error .unassigned
  | 0x12 => match F.f with
    | 0 => checked (F.d == 0 && F.a == 0 && F.b == 0) (.yield F.g)
    | 1 => checked (F.d == 0 && F.a == 0 && F.b == 0) (.exit F.g)
    | 2 => checked (F.d == 0 && F.b == 0) (.brk F.g F.a)
    | _ => .error .unassigned
  | 0x14 => checked (F.a == 0 && fld w0 8 1 == 0) (.crr F.g F.d (BitVec.ofNat 8 w0))
  | 0x15 => checked (F.d == 0 && fld w0 8 1 == 0) (.crw F.g F.a (BitVec.ofNat 8 w0))
  | 0x18 => .ok (.shadd F.g F.d F.a F.b (BitVec.ofNat 3 F.f))
  | _ => .error .reservedMajor

/-! ### Vector arithmetic, majors 0x20 to 0x3F (R116, R117) -/

def decodeVfx (F : Fields) (w1 : Nat) : Except DecodeError Instr :=
  let X := xr w1
  withCode (Ty.ofCode X.ty) fun ty => withCode (Rm.ofCode X.rm) fun rm =>
  let z := F.f == 0
  let zc := z && X.c == 0
  let zb := zc && F.b == 0
  let nr := X.rm == 0 && X.k == 0 && X.n == 0
  match X.sub with
  | 0x00 => checked zc (.vaddL F.g F.d F.a F.b ty rm X.k X.n)
  | 0x01 => checked zc (.vsubL F.g F.d F.a F.b ty rm X.k X.n)
  | 0x02 => checked zc (.vmulL F.g F.d F.a F.b ty rm X.k X.n)
  | 0x03 => checked zc (.vdivL F.g F.d F.a F.b ty rm X.k X.n)
  | 0x04 => checked z (.vfma F.g F.d F.a F.b X.c ty rm X.k X.n)
  | 0x05 => checked z (.vfms F.g F.d F.a F.b X.c ty rm X.k X.n)
  | 0x06 => checked z (.vfnma F.g F.d F.a F.b X.c ty rm X.k X.n)
  | 0x08 => checked zb (.vsqrtL F.g F.d F.a ty rm X.k X.n)
  | 0x09 => checked zb (.vrcpL F.g F.d F.a ty rm X.k X.n)
  | 0x0A => checked zb (.vrsqL F.g F.d F.a ty rm X.k X.n)
  | 0x0B => checked zb (.vexp2L F.g F.d F.a ty rm X.k X.n)
  | 0x0C => checked zb (.vlog2L F.g F.d F.a ty rm X.k X.n)
  | 0x10 => checked (zc && nr) (.vmin F.g F.d F.a F.b ty)
  | 0x11 => checked (zc && nr) (.vmax F.g F.d F.a F.b ty)
  | 0x12 => checked (zb && nr) (.vabs F.g F.d F.a ty)
  | 0x13 => checked (zb && nr) (.vneg F.g F.d F.a ty)
  | _ => .error .unassigned

def decodeVix (F : Fields) (w1 : Nat) : Except DecodeError Instr :=
  let X := xr w1
  withCode (Width.ofCode X.ty) fun w =>
  let z := F.f == 0 && X.rm == 0 && X.k == 0 && X.n == 0
  let zc := z && X.c == 0
  match X.sub with
  | 0 => checked zc (.vaddIw F.g F.d F.a F.b w)
  | 1 => checked zc (.vsubIw F.g F.d F.a F.b w)
  | 2 => checked zc (.vmulIw F.g F.d F.a F.b w)
  | 3 => checked zc (.vmulhs F.g F.d F.a F.b w)
  | 4 => checked zc (.vmulhu F.g F.d F.a F.b w)
  | 5 => checked zc (.vadds F.g F.d F.a F.b w)
  | 6 => checked zc (.vaddsu F.g F.d F.a F.b w)
  | 7 => checked zc (.vsubs F.g F.d F.a F.b w)
  | 8 => checked zc (.vsubsu F.g F.d F.a F.b w)
  | 9 => checked zc (.vmins F.g F.d F.a F.b w)
  | 10 => checked zc (.vmaxs F.g F.d F.a F.b w)
  | 11 => checked zc (.vminu F.g F.d F.a F.b w)
  | 12 => checked zc (.vmaxu F.g F.d F.a F.b w)
  | 13 => checked zc (.vshl F.g F.d F.a F.b w)
  | 14 => checked zc (.vshr F.g F.d F.a F.b w)
  | 15 => checked zc (.vsra F.g F.d F.a F.b w)
  | 16 => checked z (.vmad F.g F.d F.a F.b X.c w)
  | 17 => checked zc (.vdivs F.g F.d F.a F.b w)
  | 18 => checked zc (.vdivu F.g F.d F.a F.b w)
  | 19 => checked (zc && F.b == 0) (.vabsIw F.g F.d F.a w)
  | _ => .error .unassigned

def decodeVrx (F : Fields) (w1 : Nat) : Except DecodeError Instr :=
  let X := xr w1
  withCode (Ty.ofCode X.ty) fun ty => withCode (Rm.ofCode X.rm) fun rm =>
  let z := F.f == 0 && X.k == 0 && X.n == 0
  let zb := z && X.c == 0 && F.b == 0
  match X.sub with
  | 0x00 => checked zb (.vredAdd F.g F.d F.a ty rm)
  | 0x01 => checked (zb && X.rm == 0) (.vredMax F.g F.d F.a ty)
  | 0x02 => checked (zb && X.rm == 0) (.vredMin F.g F.d F.a ty)
  | 0x10 => checked (z && X.rm == 0) (.vtopk F.g F.d F.a F.b X.c ty)
  | _ => .error .unassigned

def decodeVector (F : Fields) (w0 w1 : Nat) : Except DecodeError Instr :=
  match F.op with
  | 0x20 => withCode (Rm.ofCode F.f) fun rm => checked true (.vaddF32 F.g F.d F.a F.b rm)
  | 0x21 => withCode (Rm.ofCode F.f) fun rm => checked true (.vsubF32 F.g F.d F.a F.b rm)
  | 0x22 => withCode (Rm.ofCode F.f) fun rm => checked true (.vmulF32 F.g F.d F.a F.b rm)
  | 0x24 => withCode (Rm.ofCode F.f) fun rm => checked true (.vaddBf16 F.g F.d F.a F.b rm)
  | 0x25 => withCode (Rm.ofCode F.f) fun rm => checked true (.vsubBf16 F.g F.d F.a F.b rm)
  | 0x26 => withCode (Rm.ofCode F.f) fun rm => checked true (.vmulBf16 F.g F.d F.a F.b rm)
  | 0x28 => withCode (Rm.ofCode F.f) fun rm => checked true (.vaddF16 F.g F.d F.a F.b rm)
  | 0x29 => withCode (Rm.ofCode F.f) fun rm => checked true (.vsubF16 F.g F.d F.a F.b rm)
  | 0x2A => withCode (Rm.ofCode F.f) fun rm => checked true (.vmulF16 F.g F.d F.a F.b rm)
  | 0x2C => withCode (Rm.ofCode F.f) fun rm => checked true (.vdivF32 F.g F.d F.a F.b rm)
  | 0x23 => decodeVfx F w1
  | 0x27 => decodeVix F w1
  | 0x2B => decodeVrx F w1
  | 0x2D => withCode (Rm.ofCode F.f) fun rm => match F.b.toNat with
    | 0 => checked true (.vsqrtF32 F.g F.d F.a rm)
    | 1 => checked true (.vrcpF32 F.g F.d F.a rm)
    | 2 => checked true (.vrsqF32 F.g F.d F.a rm)
    | 3 => checked true (.vexp2F32 F.g F.d F.a rm)
    | 4 => checked true (.vlog2F32 F.g F.d F.a rm)
    | _ => .error .unassigned
  | 0x2E => withCode (FCond.ofCode (fld F.d.toNat 4 2)) fun c => withCode (Ty.ofCode F.f) fun ty =>
      checked true (.vfcmp F.g c (preg F.d) F.a F.b ty)
  | 0x30 => match F.f with
    | 0 => .ok (.vaddI32 F.g F.d F.a F.b)
    | 1 => .ok (.vsubI32 F.g F.d F.a F.b)
    | 2 => .ok (.vmulI32 F.g F.d F.a F.b)
    | 3 => .ok (.vminS32 F.g F.d F.a F.b)
    | 4 => .ok (.vmaxS32 F.g F.d F.a F.b)
    | 5 => .ok (.vminuI32 F.g F.d F.a F.b)
    | 6 => .ok (.vmaxuI32 F.g F.d F.a F.b)
    | 7 => .ok (.vsraI32 F.g F.d F.a F.b)
    | _ => .error .unassigned
  | 0x31 => match F.f with
    | 0 => .ok (.vand F.g F.d F.a F.b)
    | 1 => .ok (.vor F.g F.d F.a F.b)
    | 2 => .ok (.vxor F.g F.d F.a F.b)
    | 3 => .ok (.vandn F.g F.d F.a F.b)
    | 4 => .ok (.vshlI32 F.g F.d F.a F.b)
    | 5 => .ok (.vshrI32 F.g F.d F.a F.b)
    | 6 => checked (F.b == 0) (.vnot F.g F.d F.a)
    | _ => checked (F.b == 0) (.vmov F.g F.d F.a)
  | 0x32 => withCode (ICond.ofCode (fld F.d.toNat 4 2)) fun c => withCode (Width.ofCode F.f) fun w =>
      checked true (.vicmp F.g c (preg F.d) F.a F.b w)
  | 0x34 => withCode (Width.ofCode F.f) fun w => .ok (.vsel F.g F.d F.a F.b w)
  | 0x35 => match F.f with
    | 0 => .ok (.vperm F.g F.d F.a F.b)
    | 1 => .ok (.vbcast F.g F.d F.a F.b)
    | 2 => .ok (.vins F.g F.d F.a F.b)
    | 3 => .ok (.vext F.g F.d F.a F.b)
    | 4 => .ok (.vziplo F.g F.d F.a F.b)
    | 5 => .ok (.vziphi F.g F.d F.a F.b)
    | 6 => checked (F.b == 0) (.vcomp F.g F.d F.a)
    | _ => .error .unassigned
  | 0x36 => checked (F.a == 0) (.vsplati F.g F.d (imm9 w0))
  | 0x38 => match F.f with
    | 0 => .ok (.vdotS8 F.g F.d F.a F.b)
    | 1 => .ok (.vdotU8 F.g F.d F.a F.b)
    | 2 => .ok (.vdotSu8 F.g F.d F.a F.b)
    | _ => .error .unassigned
  | 0x39 => match F.f with
    | 0 => checked (F.b == 0) (.vredAddF32 F.g F.d F.a)
    | 1 => checked (F.b == 0) (.vredMaxF32 F.g F.d F.a)
    | 2 => checked (F.b == 0) (.vredMinF32 F.g F.d F.a)
    | 3 => checked (F.b == 0) (.vredAddI32 F.g F.d F.a)
    | 4 => checked (F.b == 0) (.vredMaxS32 F.g F.d F.a)
    | 5 => checked (F.b == 0) (.vredMinS32 F.g F.d F.a)
    | 6 => checked (F.b == 0) (.vredMaxuI32 F.g F.d F.a)
    | _ => checked (F.b == 0) (.vredMinuI32 F.g F.d F.a)
  | _ => .error .reservedMajor

/-! ### Conversion, narrowing and histogram, majors 0x40 to 0x4F (R118) -/

def decodeNarrow (F : Fields) (w1 : Nat) : Except DecodeError Instr :=
  let X := xr w1
  withCode (Ty.ofCode X.ty) fun ty => withCode (Rm.ofCode X.rm) fun rm =>
  let zbc := F.b == 0 && X.c == 0
  let z := zbc && F.f == 0
  let zh := X.c == 0 && F.f == 0 && X.ty == 0 && X.rm == 0 && X.k == 0 && X.n == 0
  match X.sub with
  | 0x00 => withCode (Ty.ofCode F.f) fun dty => checked zbc (.vcvtL F.g F.d F.a ty dty rm X.k X.n)
  | 0x01 => withCode (Ty.ofCode F.f) fun dty => checked (X.c == 0) (.vqsc F.g F.d F.a F.b ty dty rm X.k X.n)
  | 0x08 => checked z (.vpack F.g F.d F.a .mxint8 ty rm X.k X.n)
  | 0x09 => checked z (.vpack F.g F.d F.a .mxint6 ty rm X.k X.n)
  | 0x0A => checked z (.vpack F.g F.d F.a .mxint4 ty rm X.k X.n)
  | 0x0C => checked z (.vunpk F.g F.d F.a .mxint8 ty rm X.k X.n)
  | 0x0D => checked z (.vunpk F.g F.d F.a .mxint6 ty rm X.k X.n)
  | 0x0E => checked z (.vunpk F.g F.d F.a .mxint4 ty rm X.k X.n)
  | 0x10 => checked zh (.vhistMx F.g F.d F.a F.b .mxint8)
  | 0x11 => checked zh (.vhistMx F.g F.d F.a F.b .mxint6)
  | 0x12 => checked zh (.vhistMx F.g F.d F.a F.b .mxint4)
  | _ => .error .unassigned

def decodeConvert (F : Fields) (w1 : Nat) : Except DecodeError Instr :=
  match F.op with
  | 0x40 => withCode (Ty.ofCode (fld F.b.toNat 3 3)) fun sty => withCode (Ty.ofCode (fld F.b.toNat 0 3)) fun dty =>
      withCode (Rm.ofCode F.f) fun rm => checked true (.vcvt F.g F.d F.a sty dty rm)
  | 0x41 => withCode (Ty.ofCode F.f) fun ty => checked true (.vhist F.g F.d F.a F.b ty)
  | 0x43 => decodeNarrow F w1
  | _ => .error .reservedMajor

/-! ### Memory, majors 0x50 to 0x5F (R119, R120) -/

def decodeAtom (F : Fields) (w1 : Nat) : Except DecodeError Instr :=
  withCode (AOp.ofCode (fld w1 22 4)) fun op => withCode (AWidth.ofCode (fld w1 20 2)) fun aw =>
  withCode (Ordr.ofCode (fld w1 18 2)) fun o => withCode (Scope.ofCode (fld w1 16 2)) fun sc =>
  checked (F.f == 0) (.atom F.g F.d F.a F.b (BitVec.ofNat 6 (fld w1 26 6)) op aw o sc (BitVec.ofNat 16 w1))

def decodeMemory (F : Fields) (w0 w1 : Nat) : Except DecodeError Instr :=
  match F.op with
  | 0x50 => withCode (LdSz.ofCode (fld w0 6 3)) fun sz => .ok (.ld F.g F.d F.a sz (BitVec.ofNat 6 w0))
  | 0x51 => withCode (Width.ofCode (fld w0 6 3)) fun w => .ok (.st F.g F.d F.a w (BitVec.ofNat 6 w0))
  | 0x52 => withCode (Width.ofCode (fld w0 6 3)) fun w => .ok (.vld F.g F.d F.a w (BitVec.ofNat 6 w0))
  | 0x53 => withCode (LdSz.ofCode F.f) fun sz => withCode (Scope.ofCode (fld F.b.toNat 4 2)) fun sc =>
      withCode (Ordr.ofCode (fld F.b.toNat 2 2)) fun o =>
      checked (fld F.b.toNat 0 2 == 0) (.ldx F.g F.d F.a sz sc o (BitVec.ofNat 32 w1))
  | 0x54 => withCode (Width.ofCode (fld w0 6 3)) fun w => .ok (.vst F.g F.d F.a w (BitVec.ofNat 6 w0))
  | 0x55 => withCode (Width.ofCode F.f) fun w => .ok (.vlds F.g F.d F.a F.b w)
  | 0x56 => withCode (Width.ofCode F.f) fun w => .ok (.vsts F.g F.d F.a F.b w)
  | 0x57 => withCode (Width.ofCode F.f) fun w => withCode (Scope.ofCode (fld F.b.toNat 4 2)) fun sc =>
      withCode (Ordr.ofCode (fld F.b.toNat 2 2)) fun o =>
      checked (fld F.b.toNat 0 2 == 0) (.stx F.g F.d F.a w sc o (BitVec.ofNat 32 w1))
  | 0x58 => withCode (Width.ofCode F.f) fun w => .ok (.vgath F.g F.d F.a F.b w)
  | 0x59 => withCode (Width.ofCode F.f) fun w => .ok (.vscat F.g F.d F.a F.b w)
  | 0x5A => withCode (Scope.ofCode F.f) fun sc => checked (F.a == 0 && F.b == 0) (.fence F.g F.d sc)
  | 0x5B => decodeAtom F w1
  | _ => .error .reservedMajor

/-! ### Synchronisation, futures and engine commands, majors 0x60 to 0x6F (R121, R122, R215) -/

def decodeSync (F : Fields) (w1 : Nat) : Except DecodeError Instr :=
  match F.op with
  | 0x60 => match F.f with
    | 0 => withCode (RClass.ofCode (fld F.b.toNat 4 2)) fun cl =>
        checked (pOk F.d && fld F.b.toNat 3 1 == 0) (.ftst F.g (preg F.d) F.a cl (BitVec.ofNat 3 F.b.toNat))
    | 1 => withCode (RClass.ofCode (fld F.b.toNat 4 2)) fun cl => withCode (RClass.ofCode (fld F.b.toNat 2 2)) fun ce =>
        checked (cl == ce && fld F.b.toNat 0 2 == 0) (.fmov F.g F.d F.a cl)
    | 2 => withCode (RClass.ofCode (fld F.b.toNat 2 2)) fun cl =>
        checked (F.a == 0 && fld F.b.toNat 4 2 == 0 && fld F.b.toNat 0 2 == 0) (.fdrop F.g F.d cl)
    | 3 => withCode (RClass.ofCode (fld F.b.toNat 4 2)) fun cl =>
        checked (F.d == 0 && fld F.b.toNat 0 4 == 0) (.fwait F.g F.a cl)
    | _ => .error .unassigned
  | 0x61 => checked (F.a == 0 && F.b == 0 && F.f == 0) (.tmark F.g F.d)
  | 0x62 => match F.f with
    | 0 => checked (F.d == 0) (.phReg F.g F.a F.b)
    | 1 => checked (F.d == 0 && F.b == 0) (.phArrive F.g F.a)
    | 2 => .ok (.phWait F.g F.d F.a F.b)
    | 3 => checked (F.d == 0 && F.b == 0) (.phDereg F.g F.a)
    | 4 => checked (F.d == 0) (.phRole F.g F.a F.b)
    | 5 => checked (F.d == 0) (.phInit F.g F.a F.b)
    | _ => .error .unassigned
  | 0x63 => withCode (RClass.ofCode (fld F.b.toNat 2 2)) fun cl =>
      checked (F.f == 0 && F.a == 0 && fld F.b.toNat 4 2 == 0 && fld F.b.toNat 0 2 == 0 && fld w1 16 16 == 0)
        (.fpoison F.g F.d cl (BitVec.ofNat 16 w1))
  | 0x64 => withCode (SCond.ofCode F.f) fun c => .ok (.semWait F.g F.d F.a F.b c)
  | 0x68 => match F.f with
    | 0 => .ok (.qseq F.g F.d F.a F.b)
    | 1 => .ok (.qseqLane F.g F.d F.a F.b)
    | _ => .error .unassigned
  | 0x69 => checked (F.f == 0) (.qtbl F.g F.d F.a F.b)
  | 0x6A => checked (F.f == 0) (.vrand F.g F.d F.a F.b)
  | 0x6C => match F.f with
    | 0 => .ok (.probeR F.g F.d F.a F.b)
    | 1 => .ok (.probeW F.g F.d F.a F.b)
    | _ => .error .unassigned
  | _ => .error .reservedMajor

def decodeEngine (F : Fields) (w1 : Nat) : Except DecodeError Instr :=
  let X := xe w1
  let L := X.flags
  let ord := flag L 0
  let bar := flag L 1
  let hist := flag L 2
  let ring := flag L 3
  let zf := F.f == 0
  let e3 := decide (X.eng < 8)
  let eng := BitVec.ofNat 3 X.eng
  let z0 := zf && X.c == 0 && X.eng == 0
  match X.sub with
  | 0x00 => withCode (Ty.ofCode (fld L 4 3)) fun hty =>
      checked (zf && e3 && fld L 7 3 == 0) (.cpCopy F.g F.d F.a F.b X.c ord bar hist ring hty eng)
  | 0x01 => checked (zf && e3 && fld L 4 6 == 0 && !hist) (.cpFill F.g F.d F.a F.b X.c ord bar ring eng)
  | 0x02 => withCode (Ty.ofCode (fld L 4 3)) fun dty => withCode (Ty.ofCode (fld L 7 3)) fun sty =>
      withCode (Rm.ofCode (fld X.eng 5 3)) fun rm =>
      checked (zf && fld X.eng 3 2 == 0) (.cpCvt F.g F.d F.a F.b X.c ord bar hist ring dty sty rm eng)
  | 0x03 => withCode (Ty.ofCode (fld L 4 3)) fun hty =>
      checked (zf && e3 && fld L 7 3 == 0 && !ring) (.cpStride F.g F.d F.a F.b X.c ord bar hist hty eng)
  | 0x08 => checked (z0 && fld L 1 9 == 0) (if flag L 0 then .ringAdvFree F.g F.d F.a F.b else .ringAdvFill F.g F.d F.a F.b)
  | 0x09 => checked (z0 && fld L 1 9 == 0) (if flag L 0 then .ringWaitFree F.g F.d F.a F.b else .ringWaitFill F.g F.d F.a F.b)
  | 0x0A => checked (zf && L == 0 && X.eng == 0) (.ringReset F.g F.d F.a F.b X.c)
  | 0x10 => checked (z0 && F.b == 0 && fld L 1 9 == 0) (if flag L 0 then .collDisarm F.g F.d F.a else .collArm F.g F.d F.a)
  | 0x11 => checked (z0 && F.b == 0 && fld L 1 9 == 0) (if flag L 0 then .collGoResume F.g F.d F.a else .collGo F.g F.d F.a)
  | 0x18 => checked (z0 && F.b == 0 && fld L 2 8 == 0) (.launch F.g F.d F.a (flag L 0) (flag L 1))
  | 0x20 => if flag X.eng 7 then
      checked (zf && X.c == 0 && fld L 1 9 == 0 && fld X.eng 2 5 == 0)
        (.strmGoBus F.g F.d F.a F.b (flag L 0) (BitVec.ofNat 2 X.eng))
    else
      checked (zf && X.c == 0 && fld L 1 9 == 0 && fld X.eng 5 2 == 0)
        (.strmGoTile F.g F.d F.a F.b (flag L 0) (BitVec.ofNat 5 X.eng))
  | 0x21 => checked (zf && F.b == 0 && X.c == 0 && L == 0 && fld X.eng 5 3 == 0) (.strmReg F.g F.d F.a (BitVec.ofNat 5 X.eng))
  | 0x22 => checked (zf && F.a == 0 && F.b == 0 && X.c == 0 && L == 0 && fld X.eng 5 3 == 0)
      (.strmDereg F.g F.d (BitVec.ofNat 5 X.eng))
  | 0x28 => checked (z0 && F.b == 0 && L == 0) (.lnkAlign F.g F.d F.a)
  | _ => .error .unassigned

/-- The instruction that a first word and an extension word hold (R124 step 2). The extension word counts only for a
64-bit major. -/
def decode (w0 w1 : Nat) : Except DecodeError Instr :=
  let F := fields w0
  if F.op < 0x20 then decodeScalar F w0 w1
  else if F.op < 0x40 then decodeVector F w0 w1
  else if F.op < 0x50 then decodeConvert F w1
  else if F.op < 0x60 then decodeMemory F w0 w1
  else if F.op == 0x6B then decodeEngine F w1
  else if F.op < 0x70 then decodeSync F w1
  else if F.op < 0x78 then .error .extAbsent
  else .error .reservedMajor

/-- What the machine runs for the words: an undecodable encoding is its fate (R124, R125). -/
def decodeOrFate (w0 w1 : Nat) : Instr :=
  match decode w0 w1 with
  | .ok i => i
  | .error .extAbsent => .extAbsent (BitVec.ofNat 32 w0) (BitVec.ofNat 32 w1)
  | .error _ => .illegalOp (BitVec.ofNat 32 w0) (BitVec.ofNat 32 w1)

/-! ### Stream words (R245) -/

/-- A stream word. Fields outside their limits decode here and end the program when they execute (R245). -/
def decodeStream (w : Nat) : Except DecodeError Instr :=
  let z := fun (lo n : Nat) => fld w lo n == 0
  let b2 := BitVec.ofNat 2 (fld w 24 2)
  let t := BitVec.ofNat 16 w
  match fld w 26 6 with
  | 0x01 => need (z 0 26) .badStreamOp .sEnd
  | 0x02 => need (z 16 10) .badStreamOp (.sJmp t)
  | 0x03 => need (z 16 8) .badStreamOp (.sLoop b2 t)
  | 0x04 => .ok (.sSetlc b2 (BitVec.ofNat 24 w))
  | 0x05 => need (z 16 8) .badStreamOp (.sBrz b2 t)
  | 0x06 => need (z 24 2) .badStreamOp (.sWnow (BitVec.ofNat 24 w))
  | 0x08 => need (z 8 18) .badStreamOp (.sWin (BitVec.ofNat 8 w))
  | 0x09 => need (z 5 21) .badStreamOp (.sGain (BitVec.ofNat 5 w))
  | 0x0A => need (z 3 23) .badStreamOp (if flag w 2 then .sFmtA (BitVec.ofNat 2 w) else .sFmt (BitVec.ofNat 2 w))
  | 0x0B => need (z 9 17) .badStreamOp (.sScl (BitVec.ofNat 1 (fld w 8 1)) (BitVec.ofNat 8 w))
  | 0x0C => need (z 11 13) .badStreamOp (.sRing b2 (BitVec.ofNat 7 (fld w 4 7)) (BitVec.ofNat 4 w))
  | 0x0D => need (z 1 25) .badStreamOp (.sMode (BitVec.ofNat 1 w))
  | 0x0E => need (z 3 23) .badStreamOp (.sSelb (BitVec.ofNat 3 w))
  | 0x0F => need (z 2 24) .badStreamOp (.sAcc (BitVec.ofNat 2 w))
  | 0x10 => need (z 2 24) .badStreamOp (.sAclr (BitVec.ofNat 2 w))
  | 0x18 => need (z 1 25) .badStreamOp (.sRun (BitVec.ofNat 1 w))
  | 0x19 => need (z 10 16) .badStreamOp (.sDrain (BitVec.ofNat 1 (fld w 9 1)) (BitVec.ofNat 1 (fld w 8 1))
      (BitVec.ofNat 3 (fld w 5 3)) (BitVec.ofNat 3 (fld w 2 3)) (BitVec.ofNat 2 w))
  | 0x1A => need (z 0 26) .badStreamOp .sOrst
  | _ => .error .badStreamOp

/-- The transmit side implements END to BRZ, WNOW, WIN, FMT, SCL, RING and RUN; the receive side all but WNOW (R245). -/
def streamSideOk (transmit : Bool) : Instr → Bool
  | .sEnd | .sJmp _ | .sLoop _ _ | .sSetlc _ _ | .sBrz _ _ | .sWin _ | .sFmt _ | .sScl _ _ | .sRing _ _ _ | .sRun _ => true
  | .sWnow _ => transmit
  | .sGain _ | .sFmtA _ | .sMode _ | .sSelb _ | .sAcc _ | .sAclr _ | .sDrain _ _ _ _ _ | .sOrst => !transmit
  | _ => false

/-- What a sequencer runs for a word: a word that is not assigned for its side is BAD_STREAM_OP (R245). -/
def decodeStreamOrFate (transmit : Bool) (w : Nat) : Instr :=
  match decodeStream w with
  | .ok i => if streamSideOk transmit i then i else .badStreamOp (BitVec.ofNat 32 w)
  | .error _ => .badStreamOp (BitVec.ofNat 32 w)

/-! ### The encoder -/

def enc3 (op f : Nat) (g : Guard) (d a b : Reg6) : List Nat := [encR op g d.toNat a.toNat b.toNat f]

/-- Format I (R110). -/
def encI (op : Nat) (g : Guard) (d a : Reg6) (i : BitVec 9) : List Nat :=
  [encR op g d.toNat a.toNat (i.toNat / 8) (i.toNat % 8)]

/-- Format M (R110). -/
def encM (op sz : Nat) (g : Guard) (d a off : Reg6) : List Nat :=
  [encR op g d.toNat a.toNat (sz * 8 + off.toNat / 8) (off.toNat % 8)]

/-- Format B (R110). -/
def encB (op : Nat) (g : Guard) (i : BitVec 21) : List Nat := [op * 2 ^ 25 + g.toNat * 2 ^ 21 + i.toNat]

def enc64 (op f : Nat) (g : Guard) (d a b : Reg6) (w1 : Nat) : List Nat := [encR op g d.toNat a.toNat b.toNat f, w1]

/-- A compare destination: the condition in [5:4], the register in [3:0] (R114). -/
def cmpD (code : Nat) (pd : PReg) : Reg6 := BitVec.ofNat 6 (code * 16 + pd.toNat)

def r6 (n : Nat) : Reg6 := BitVec.ofNat 6 n

/-- The words of an instruction, first word first; a stream word is one word; an event and a fate have none. -/
def encode : Instr → List Nat
  | .add g d a b => enc3 0x00 0 g d a b
  | .sub g d a b => enc3 0x00 1 g d a b
  | .and g d a b => enc3 0x00 2 g d a b
  | .or g d a b => enc3 0x00 3 g d a b
  | .xor g d a b => enc3 0x00 4 g d a b
  | .sll g d a b => enc3 0x00 5 g d a b
  | .srl g d a b => enc3 0x00 6 g d a b
  | .sra g d a b => enc3 0x00 7 g d a b
  | .mul g d a b => enc3 0x01 0 g d a b
  | .mulhs g d a b => enc3 0x01 1 g d a b
  | .mulhu g d a b => enc3 0x01 2 g d a b
  | .divs g d a b => enc3 0x01 3 g d a b
  | .divu g d a b => enc3 0x01 4 g d a b
  | .rems g d a b => enc3 0x01 5 g d a b
  | .remu g d a b => enc3 0x01 6 g d a b
  | .addi g d a imm => encI 0x02 g d a imm
  | .andi g d a imm => encI 0x04 g d a imm
  | .ori g d a imm => encI 0x05 g d a imm
  | .xori g d a imm => encI 0x06 g d a imm
  | .slli g d a sh => encM 0x08 0 g d a sh
  | .srli g d a sh => encM 0x08 1 g d a sh
  | .srai g d a sh => encM 0x08 2 g d a sh
  | .rotri g d a sh => encM 0x08 3 g d a sh
  | .movi g d imm => enc64 0x03 0 g d 0 0 imm.toNat
  | .addiL g d a imm => enc64 0x03 1 g d a 0 imm.toNat
  | .orhi g d a imm => enc64 0x03 2 g d a 0 imm.toNat
  | .andiL g d a imm => enc64 0x03 3 g d a 0 imm.toNat
  | .xoriL g d a imm => enc64 0x03 4 g d a 0 imm.toNat
  | .cmpiL g c pd a imm => enc64 0x03 5 g (cmpD c.code pd) a 0 imm.toNat
  | .muladd g d a b c => enc64 0x07 0 g d a b (encXr c.toNat 0 0 0 3 0)
  | .mins g d a b => enc3 0x09 0 g d a b
  | .minu g d a b => enc3 0x09 1 g d a b
  | .maxs g d a b => enc3 0x09 2 g d a b
  | .maxu g d a b => enc3 0x09 3 g d a b
  | .clz g d a => enc3 0x09 4 g d a 0
  | .ctz g d a => enc3 0x09 5 g d a 0
  | .popc g d a => enc3 0x09 6 g d a 0
  | .brev g d a => enc3 0x09 7 g d a 0
  | .cmp g c pd a b => enc3 0x0A 0 g (cmpD c.code pd) a b
  | .cmpi g c pd a imm => encI 0x0C g (cmpD c.code pd) a imm
  | .pand g d a b => enc3 0x0D 0 g (ofP d) (ofP a) (ofP b)
  | .por g d a b => enc3 0x0D 1 g (ofP d) (ofP a) (ofP b)
  | .pxor g d a b => enc3 0x0D 2 g (ofP d) (ofP a) (ofP b)
  | .pandn g d a b => enc3 0x0D 3 g (ofP d) (ofP a) (ofP b)
  | .pnot g d a => enc3 0x0D 4 g (ofP d) (ofP a) 0
  | .pfroms g d a => enc3 0x0D 5 g (ofP d) a 0
  | .ptos g d a => enc3 0x0D 6 g d (ofP a) 0
  | .pcnt g d a => enc3 0x0D 7 g d (ofP a) 0
  | .br g i => encB 0x0E g i
  | .call g i => encB 0x10 g i
  | .jr g a => enc3 0x11 0 g 0 a 0
  | .jalr g d a => enc3 0x11 1 g d a 0
  | .yield g => enc3 0x12 0 g 0 0 0
  | .exit g => enc3 0x12 1 g 0 0 0
  | .brk g c => enc3 0x12 2 g 0 c 0
  | .crr g d x => encI 0x14 g d 0 (x.zeroExtend 9)
  | .crw g a x => encI 0x15 g 0 a (x.zeroExtend 9)
  | .shadd g d a b n => enc3 0x18 n.toNat g d a b
  | .bfxu g d a pos len1 => enc64 0x0B 0 g d a 0 (len1.toNat * 64 + pos.toNat)
  | .bfxs g d a pos len1 => enc64 0x0B 1 g d a 0 (len1.toNat * 64 + pos.toNat)
  | .bfi g d a pos len1 => enc64 0x0B 2 g d a 0 (len1.toNat * 64 + pos.toNat)
  | .illegalOp _ _ => []
  | .extAbsent _ _ => []
  | .vaddF32 g d a b rm => enc3 0x20 rm.code g d a b
  | .vsubF32 g d a b rm => enc3 0x21 rm.code g d a b
  | .vmulF32 g d a b rm => enc3 0x22 rm.code g d a b
  | .vaddBf16 g d a b rm => enc3 0x24 rm.code g d a b
  | .vsubBf16 g d a b rm => enc3 0x25 rm.code g d a b
  | .vmulBf16 g d a b rm => enc3 0x26 rm.code g d a b
  | .vaddF16 g d a b rm => enc3 0x28 rm.code g d a b
  | .vsubF16 g d a b rm => enc3 0x29 rm.code g d a b
  | .vmulF16 g d a b rm => enc3 0x2A rm.code g d a b
  | .vdivF32 g d a b rm => enc3 0x2C rm.code g d a b
  | .vsqrtF32 g d a rm => enc3 0x2D rm.code g d a 0
  | .vrcpF32 g d a rm => enc3 0x2D rm.code g d a 1
  | .vrsqF32 g d a rm => enc3 0x2D rm.code g d a 2
  | .vexp2F32 g d a rm => enc3 0x2D rm.code g d a 3
  | .vlog2F32 g d a rm => enc3 0x2D rm.code g d a 4
  | .vfcmp g c pd a b ty => enc3 0x2E ty.code g (cmpD c.code pd) a b
  | .vaddL g d a b ty rm k n => enc64 0x23 0 g d a b (encXr 0 k.toNat n.toNat rm.code ty.code 0)
  | .vsubL g d a b ty rm k n => enc64 0x23 0 g d a b (encXr 0 k.toNat n.toNat rm.code ty.code 1)
  | .vmulL g d a b ty rm k n => enc64 0x23 0 g d a b (encXr 0 k.toNat n.toNat rm.code ty.code 2)
  | .vdivL g d a b ty rm k n => enc64 0x23 0 g d a b (encXr 0 k.toNat n.toNat rm.code ty.code 3)
  | .vfma g d a b c ty rm k n => enc64 0x23 0 g d a b (encXr c.toNat k.toNat n.toNat rm.code ty.code 4)
  | .vfms g d a b c ty rm k n => enc64 0x23 0 g d a b (encXr c.toNat k.toNat n.toNat rm.code ty.code 5)
  | .vfnma g d a b c ty rm k n => enc64 0x23 0 g d a b (encXr c.toNat k.toNat n.toNat rm.code ty.code 6)
  | .vsqrtL g d a ty rm k n => enc64 0x23 0 g d a 0 (encXr 0 k.toNat n.toNat rm.code ty.code 8)
  | .vrcpL g d a ty rm k n => enc64 0x23 0 g d a 0 (encXr 0 k.toNat n.toNat rm.code ty.code 9)
  | .vrsqL g d a ty rm k n => enc64 0x23 0 g d a 0 (encXr 0 k.toNat n.toNat rm.code ty.code 10)
  | .vexp2L g d a ty rm k n => enc64 0x23 0 g d a 0 (encXr 0 k.toNat n.toNat rm.code ty.code 11)
  | .vlog2L g d a ty rm k n => enc64 0x23 0 g d a 0 (encXr 0 k.toNat n.toNat rm.code ty.code 12)
  | .vmin g d a b ty => enc64 0x23 0 g d a b (encXr 0 0 0 0 ty.code 16)
  | .vmax g d a b ty => enc64 0x23 0 g d a b (encXr 0 0 0 0 ty.code 17)
  | .vabs g d a ty => enc64 0x23 0 g d a 0 (encXr 0 0 0 0 ty.code 18)
  | .vneg g d a ty => enc64 0x23 0 g d a 0 (encXr 0 0 0 0 ty.code 19)
  | .vaddI32 g d a b => enc3 0x30 0 g d a b
  | .vsubI32 g d a b => enc3 0x30 1 g d a b
  | .vmulI32 g d a b => enc3 0x30 2 g d a b
  | .vminS32 g d a b => enc3 0x30 3 g d a b
  | .vmaxS32 g d a b => enc3 0x30 4 g d a b
  | .vminuI32 g d a b => enc3 0x30 5 g d a b
  | .vmaxuI32 g d a b => enc3 0x30 6 g d a b
  | .vsraI32 g d a b => enc3 0x30 7 g d a b
  | .vand g d a b => enc3 0x31 0 g d a b
  | .vor g d a b => enc3 0x31 1 g d a b
  | .vxor g d a b => enc3 0x31 2 g d a b
  | .vandn g d a b => enc3 0x31 3 g d a b
  | .vshlI32 g d a b => enc3 0x31 4 g d a b
  | .vshrI32 g d a b => enc3 0x31 5 g d a b
  | .vnot g d a => enc3 0x31 6 g d a 0
  | .vmov g d a => enc3 0x31 7 g d a 0
  | .vicmp g c pd a b w => enc3 0x32 w.code g (cmpD c.code pd) a b
  | .vsel g d a b w => enc3 0x34 w.code g d a b
  | .vperm g d a b => enc3 0x35 0 g d a b
  | .vbcast g d a b => enc3 0x35 1 g d a b
  | .vins g d a b => enc3 0x35 2 g d a b
  | .vext g d a b => enc3 0x35 3 g d a b
  | .vziplo g d a b => enc3 0x35 4 g d a b
  | .vziphi g d a b => enc3 0x35 5 g d a b
  | .vcomp g d a => enc3 0x35 6 g d a 0
  | .vsplati g d imm => encI 0x36 g d 0 imm
  | .vdotS8 g d a b => enc3 0x38 0 g d a b
  | .vdotU8 g d a b => enc3 0x38 1 g d a b
  | .vdotSu8 g d a b => enc3 0x38 2 g d a b
  | .vredAddF32 g d a => enc3 0x39 0 g d a 0
  | .vredMaxF32 g d a => enc3 0x39 1 g d a 0
  | .vredMinF32 g d a => enc3 0x39 2 g d a 0
  | .vredAddI32 g d a => enc3 0x39 3 g d a 0
  | .vredMaxS32 g d a => enc3 0x39 4 g d a 0
  | .vredMinS32 g d a => enc3 0x39 5 g d a 0
  | .vredMaxuI32 g d a => enc3 0x39 6 g d a 0
  | .vredMinuI32 g d a => enc3 0x39 7 g d a 0
  | .vcvt g d a sty dty rm => enc3 0x40 rm.code g d a (r6 (sty.code * 8 + dty.code))
  | .vhist g d a b ty => enc3 0x41 ty.code g d a b
  | .vaddIw g d a b w => enc64 0x27 0 g d a b (encXr 0 0 0 0 w.code 0)
  | .vsubIw g d a b w => enc64 0x27 0 g d a b (encXr 0 0 0 0 w.code 1)
  | .vmulIw g d a b w => enc64 0x27 0 g d a b (encXr 0 0 0 0 w.code 2)
  | .vmulhs g d a b w => enc64 0x27 0 g d a b (encXr 0 0 0 0 w.code 3)
  | .vmulhu g d a b w => enc64 0x27 0 g d a b (encXr 0 0 0 0 w.code 4)
  | .vadds g d a b w => enc64 0x27 0 g d a b (encXr 0 0 0 0 w.code 5)
  | .vaddsu g d a b w => enc64 0x27 0 g d a b (encXr 0 0 0 0 w.code 6)
  | .vsubs g d a b w => enc64 0x27 0 g d a b (encXr 0 0 0 0 w.code 7)
  | .vsubsu g d a b w => enc64 0x27 0 g d a b (encXr 0 0 0 0 w.code 8)
  | .vmins g d a b w => enc64 0x27 0 g d a b (encXr 0 0 0 0 w.code 9)
  | .vmaxs g d a b w => enc64 0x27 0 g d a b (encXr 0 0 0 0 w.code 10)
  | .vminu g d a b w => enc64 0x27 0 g d a b (encXr 0 0 0 0 w.code 11)
  | .vmaxu g d a b w => enc64 0x27 0 g d a b (encXr 0 0 0 0 w.code 12)
  | .vshl g d a b w => enc64 0x27 0 g d a b (encXr 0 0 0 0 w.code 13)
  | .vshr g d a b w => enc64 0x27 0 g d a b (encXr 0 0 0 0 w.code 14)
  | .vsra g d a b w => enc64 0x27 0 g d a b (encXr 0 0 0 0 w.code 15)
  | .vmad g d a b c w => enc64 0x27 0 g d a b (encXr c.toNat 0 0 0 w.code 16)
  | .vdivs g d a b w => enc64 0x27 0 g d a b (encXr 0 0 0 0 w.code 17)
  | .vdivu g d a b w => enc64 0x27 0 g d a b (encXr 0 0 0 0 w.code 18)
  | .vabsIw g d a w => enc64 0x27 0 g d a 0 (encXr 0 0 0 0 w.code 19)
  | .vredAdd g d a ty rm => enc64 0x2B 0 g d a 0 (encXr 0 0 0 rm.code ty.code 0)
  | .vredMax g d a ty => enc64 0x2B 0 g d a 0 (encXr 0 0 0 0 ty.code 1)
  | .vredMin g d a ty => enc64 0x2B 0 g d a 0 (encXr 0 0 0 0 ty.code 2)
  | .vtopk g d a b c ty => enc64 0x2B 0 g d a b (encXr c.toNat 0 0 0 ty.code 16)
  | .vcvtL g d a sty dty rm k n => enc64 0x43 dty.code g d a 0 (encXr 0 k.toNat n.toNat rm.code sty.code 0)
  | .vqsc g d a b sty dty rm k n => enc64 0x43 dty.code g d a b (encXr 0 k.toNat n.toNat rm.code sty.code 1)
  | .vpack g d a mx ty rm k n => enc64 0x43 0 g d a 0 (encXr 0 k.toNat n.toNat rm.code ty.code (8 + mx.code))
  | .vunpk g d a mx ty rm k n => enc64 0x43 0 g d a 0 (encXr 0 k.toNat n.toNat rm.code ty.code (12 + mx.code))
  | .vhistMx g d a b mx => enc64 0x43 0 g d a b (encXr 0 0 0 0 0 (16 + mx.code))
  | .ld g d a sz off => encM 0x50 sz.code g d a off
  | .st g d a w off => encM 0x51 w.code g d a off
  | .vld g d a w off => encM 0x52 w.code g d a off
  | .vst g d a w off => encM 0x54 w.code g d a off
  | .ldx g d a sz sc o imm => enc64 0x53 sz.code g d a (r6 (sc.code * 16 + o.code * 4)) imm.toNat
  | .stx g d a w sc o imm => enc64 0x57 w.code g d a (r6 (sc.code * 16 + o.code * 4)) imm.toNat
  | .vlds g d a b w => enc3 0x55 w.code g d a b
  | .vsts g d a b w => enc3 0x56 w.code g d a b
  | .vgath g d a b w => enc3 0x58 w.code g d a b
  | .vscat g d a b w => enc3 0x59 w.code g d a b
  | .fence g d sc => enc3 0x5A sc.code g d 0 0
  | .atom g d a b c op aw o sc imm => enc64 0x5B 0 g d a b
      (c.toNat * 2 ^ 26 + op.code * 2 ^ 22 + aw.code * 2 ^ 20 + o.code * 2 ^ 18 + sc.code * 2 ^ 16 + imm.toNat)
  | .ftst g pd a cl set => enc3 0x60 0 g (ofP pd) a (r6 (cl.code * 16 + set.toNat))
  | .fmov g d a cl => enc3 0x60 1 g d a (r6 (cl.code * 16 + cl.code * 4))
  | .fdrop g d cl => enc3 0x60 2 g d 0 (r6 (cl.code * 4))
  | .fwait g a cl => enc3 0x60 3 g 0 a (r6 (cl.code * 16))
  | .tmark g d => enc3 0x61 0 g d 0 0
  | .phReg g a b => enc3 0x62 0 g 0 a b
  | .phArrive g a => enc3 0x62 1 g 0 a 0
  | .phWait g d a b => enc3 0x62 2 g d a b
  | .phDereg g a => enc3 0x62 3 g 0 a 0
  | .phRole g a b => enc3 0x62 4 g 0 a b
  | .phInit g a b => enc3 0x62 5 g 0 a b
  | .fpoison g d cl code => enc64 0x63 0 g d 0 (r6 (cl.code * 4)) code.toNat
  | .semWait g d a b c => enc3 0x64 c.code g d a b
  | .qseq g d a b => enc3 0x68 0 g d a b
  | .qseqLane g d a b => enc3 0x68 1 g d a b
  | .qtbl g d a b => enc3 0x69 0 g d a b
  | .vrand g d a b => enc3 0x6A 0 g d a b
  | .probeR g d a b => enc3 0x6C 0 g d a b
  | .probeW g d a b => enc3 0x6C 1 g d a b
  | .cpCopy g d a b c ord bar hist ring hty eng => enc64 0x6B 0 g d a b
      (encXe c.toNat (bit ord + bit bar * 2 + bit hist * 4 + bit ring * 8 + hty.code * 16) 0x00 eng.toNat)
  | .cpFill g d a b c ord bar ring eng => enc64 0x6B 0 g d a b
      (encXe c.toNat (bit ord + bit bar * 2 + bit ring * 8) 0x01 eng.toNat)
  | .cpCvt g d a b c ord bar hist ring dty sty rm eng => enc64 0x6B 0 g d a b
      (encXe c.toNat (bit ord + bit bar * 2 + bit hist * 4 + bit ring * 8 + dty.code * 16 + sty.code * 128) 0x02 (eng.toNat + rm.code * 32))
  | .cpStride g d a b c ord bar hist hty eng => enc64 0x6B 0 g d a b
      (encXe c.toNat (bit ord + bit bar * 2 + bit hist * 4 + hty.code * 16) 0x03 eng.toNat)
  | .ringAdvFill g d a b => enc64 0x6B 0 g d a b (encXe 0 (0) 0x08 (0))
  | .ringAdvFree g d a b => enc64 0x6B 0 g d a b (encXe 0 (1) 0x08 (0))
  | .ringWaitFill g d a b => enc64 0x6B 0 g d a b (encXe 0 (0) 0x09 (0))
  | .ringWaitFree g d a b => enc64 0x6B 0 g d a b (encXe 0 (1) 0x09 (0))
  | .ringReset g d a b c => enc64 0x6B 0 g d a b (encXe c.toNat (0) 0x0A (0))
  | .collArm g d a => enc64 0x6B 0 g d a 0 (encXe 0 (0) 0x10 (0))
  | .collDisarm g d a => enc64 0x6B 0 g d a 0 (encXe 0 (1) 0x10 (0))
  | .collGo g d a => enc64 0x6B 0 g d a 0 (encXe 0 (0) 0x11 (0))
  | .collGoResume g d a => enc64 0x6B 0 g d a 0 (encXe 0 (1) 0x11 (0))
  | .launch g d a u e => enc64 0x6B 0 g d a 0 (encXe 0 (bit u + bit e * 2) 0x18 (0))
  | .strmGoTile g d a b r t => enc64 0x6B 0 g d a b (encXe 0 (bit r) 0x20 (t.toNat))
  | .strmGoBus g d a b r t => enc64 0x6B 0 g d a b (encXe 0 (bit r) 0x20 (128 + t.toNat))
  | .strmReg g d a t => enc64 0x6B 0 g d a 0 (encXe 0 (0) 0x21 (t.toNat))
  | .strmDereg g d t => enc64 0x6B 0 g d 0 0 (encXe 0 (0) 0x22 (t.toNat))
  | .lnkAlign g d a => enc64 0x6B 0 g d a 0 (encXe 0 (0) 0x28 (0))
  | .sEnd => [0x01 * 2 ^ 26]
  | .sJmp t => [0x02 * 2 ^ 26 + t.toNat]
  | .sLoop l t => [0x03 * 2 ^ 26 + l.toNat * 2 ^ 24 + t.toNat]
  | .sSetlc l i => [0x04 * 2 ^ 26 + l.toNat * 2 ^ 24 + i.toNat]
  | .sBrz l t => [0x05 * 2 ^ 26 + l.toNat * 2 ^ 24 + t.toNat]
  | .sWnow i => [0x06 * 2 ^ 26 + i.toNat]
  | .sWin w => [0x08 * 2 ^ 26 + w.toNat]
  | .sGain x => [0x09 * 2 ^ 26 + x.toNat]
  | .sFmt f => [0x0A * 2 ^ 26 + f.toNat]
  | .sFmtA f => [0x0A * 2 ^ 26 + 4 + f.toNat]
  | .sScl m x => [0x0B * 2 ^ 26 + m.toNat * 2 ^ 8 + x.toNat]
  | .sRing r c n => [0x0C * 2 ^ 26 + r.toNat * 2 ^ 24 + c.toNat * 2 ^ 4 + n.toNat]
  | .sMode r => [0x0D * 2 ^ 26 + r.toNat]
  | .sSelb x => [0x0E * 2 ^ 26 + x.toNat]
  | .sAcc n => [0x0F * 2 ^ 26 + n.toNat]
  | .sAclr n => [0x10 * 2 ^ 26 + n.toNat]
  | .sRun k => [0x18 * 2 ^ 26 + k.toNat]
  | .sDrain bar z rm ty n => [0x19 * 2 ^ 26 + bar.toNat * 2 ^ 9 + z.toNat * 2 ^ 8 + rm.toNat * 2 ^ 5 + ty.toNat * 2 ^ 2 + n.toNat]
  | .sOrst => [0x1A * 2 ^ 26]
  | .badStreamOp w => [w.toNat]
  | .completion => []
  | .chunk => []
  | .rebase => []
  | .transfer => []
  | .transferReceive => []
  | .transferAck => []
  | .releaseNotice => []
  | .noticeRequest => []
  | .noticeRequestRetry => []
  | .noticeWaitTimeout => []
  | .ackTimeout => []
  | .quarantineEnd => []
  | .frameBoundary => []
  | .accumulation => []
  | .importFrame => []
  | .combLoss => []
  | .lineLowTimeout => []
  | .shadowCheck => []
  | .trackerService => []
  | .moveSettle => []
  | .patrolScrub => []
  | .holdTimeout => []
  | .invAll => []
  | .invAsid => []
  | .invRange => []
  | .invalidationComplete => []
  | .resolved => []
  | .invalid => []
  | .residencyTimeout => []
  | .doorbell => []
  | .qctl => []
  | .acceptance => []
  | .semaphoreRead => []
  | .start => []
  | .dispatch => []
  | .holdClusters => []
  | .preEmption => []
  | .save => []
  | .restore => []
  | .packEnd => []
  | .regionKill => []
  | .powerOn => []
  | .conventionalReset => []
  | .config => []
  | .ident => []
  | .memup => []
  | .optic => []
  | .ready => []
  | .linkDown => []
  | .linkUp => []
  | .trip => []
  | .tripRecovery => []
  | .cxlMemAccess => []
  | .remoteAccess => []
  | .forward => []
  | .bankSwap => []
  | .beacon => []
  | .failover => []
  | .ptpMessage => []
  | .holdover => []
  | .resv => []
  | .commit => []
  | .minm => []
  | .counterClear => []
  | .optreqClear => []
  | .optreqSet => []
  | .rbsel => []
  | .retire => []
  | .registerWrite => []
  | .identify => []
  | .getHealthInfo => []
  | .getFwInfo => []
  | .transferFw => []
  | .activateFw => []
  | .unsupported => []
  | .getVersion => []
  | .getCapabilities => []
  | .negotiateAlgorithms => []
  | .getDigests => []
  | .getCertificate => []
  | .challenge => []
  | .getMeasurements => []
  | .attach => []
  | .detach => []
  | .halt => []
  | .haltComplete => []
  | .resume => []
  | .rewind => []
  | .replay => []
  | .trim => []
  | .watch => []
  | .acknowledgement => []
  | .replayParked => []
  | .importLight => []

/-! ### Bytes (R3, R107) -/

/-- The number that bytes hold, least significant byte first (R3). -/
def ofBytes : List Byte → Nat
  | [] => 0
  | b :: bs => b.toNat + 256 * ofBytes bs

/-- n bytes of a number, least significant first (R3). -/
def toBytes : Nat → Nat → List Byte
  | 0, _ => []
  | n + 1, x => BitVec.ofNat 8 x :: toBytes n (x / 256)

/-- The instruction at the front of a list of bytes, with the bytes after it. -/
def decodeBytes (bs : List Byte) : Except DecodeError (Instr × List Byte) :=
  if bs.length < 4 then .error .short
  else
    let w0 := ofBytes (bs.take 4)
    let n := if isLong w0 then 8 else 4
    if bs.length < n then .error .short
    else (decode w0 (if isLong w0 then ofBytes ((bs.drop 4).take 4) else 0)).map fun i => (i, bs.drop n)

/-- Bytes of an instruction in memory. -/
def encodeBytes (i : Instr) : List Byte := (encode i).flatMap (toBytes 4)

/-- The instruction that the decoder reads from the bits of a row of the opcode table, numbered from the first word's
bit 0; the bits above nbits are zero. Thread instructions only: stream words are never fetched as instructions (R123). -/
def decodeTableWord (nbits w : Nat) : Option Instr :=
  let x := w % 2 ^ nbits
  match decodeBytes (toBytes 8 x) with
  | .ok (i, _) => some i
  | .error _ => none

end Sys2Proof
end

