-- ==== Sys2Proof/Config.lean ====
section
/-! DEFINITION. What is fixed for the machine, and the free values: constants with no body, so that nothing can
evaluate them and every statement about them holds whatever they are (DESIGN CHOICE, notes/assumptions/2.md). -/

namespace Sys2Proof.Config

/-- FREE. The analog code of one receiver of one window before it is cut to the range of spec/10 R258; applied to a
counter of the state and to the receiver. -/
opaque analogCode : Nat → Nat → Int

/-- FREE. Whether a receiver-window of a calibrated tile falls outside the accuracy model of R258. -/
opaque outlier : Nat → Nat → Bool

/-- FREE. Whether a receiver in the gray band of R258 is promoted (or reported saturated). -/
opaque grayBand : Nat → Nat → Bool

/-- FREE. Whether a QSEQ uses the cached copy of a direction word or reads it again (spec/04 R106). -/
opaque usesCached : Nat → Nat → Bool

/-- FREE. Whether a load uses the copy of another module's line that its package's L2 holds (spec/03 R68). -/
opaque usesCopy : Nat → Bool

/-- FREE. A digest that the boot logic or the SPDM responder forms with SM3 (spec/22 R388); applied to what is hashed. -/
opaque sm3 : List Nat → BitVec 256

/-- FREE. A signature made with the identity key that only the part holds (spec/22, Attestation). -/
opaque sm2Sign : List Nat → BitVec 512

/-- FREE. The identity key certificate of slot 0 (spec/22, Attestation). -/
opaque certificate : List Byte

/-- FREE. The fuse state reported in measurement block 4 and the boot ROM version of block 3 (spec/22, Attestation). -/
opaque rawMeasurement : Nat → BitVec 256

/-- FREE. What Get Health Info and Get FW Info answer beyond the fields the spec gives (spec/22 R389). -/
opaque mailboxBody : Nat → List Byte

/-- FREE. A byte that a read delivers where the spec lets the read be old, new or undefined. -/
opaque freeByte : Nat → Byte

/-- The number of bytes of device memory: 1,536 × 10^9 (spec/01 R427). -/
def deviceBytes : Nat := 1536 * 10 ^ 9

/-- The bytes that the stacks of one die hold (R427). -/
def dieBytes : Nat := 384 * 10 ^ 9

/-- The bytes of one core's register pool: 1,536 KiB (spec/01 R20). -/
def poolBytes : Nat := 1536 * 1024

/-- The device physical address at which control space starts (spec/22 R386). -/
def shbase : Nat := 0xFFFFFFE00000

/-- Pending-table entries of a core (spec/02 R33). -/
def pendingEntries : Nat := 512

/-- Reserve of pending-table entries of each resident thread (R33). -/
def reserve : Nat := 8

/-- One core cycle in units of NOW: 0.5 ns with 16 fraction bits (spec/01 R15, spec/00 headline figures). -/
def cycle : Nat := 0x8000

/-- Units of NOW in a nanosecond. -/
def ns : Nat := 0x10000

end Sys2Proof.Config
end

