-- ==== Sys2Proof/Machine/Bits.lean ====
section
/-! DEFINITION. Bit fields, bytes in little-endian order (spec/00 R3), sparse tables, and cells of memory in their
canonical form: addresses strictly rising and no cell that holds zero, which is what an unlisted address reads as. -/

namespace Sys2Proof.Machine

/-- bits(x, hi, lo) as a number. -/
def bits {n : Nat} (x : BitVec n) (hi lo : Nat) : Nat := x.toNat / 2 ^ lo % 2 ^ (hi + 1 - lo)

/-- bits(x, hi, lo) of a number. -/
def nbits (x hi lo : Nat) : Nat := x / 2 ^ lo % 2 ^ (hi + 1 - lo)

/-- x with bits [hi:lo] replaced by v. -/
def putBits {n : Nat} (x : BitVec n) (hi lo : Nat) (v : Nat) : BitVec n :=
  let m : BitVec n := BitVec.ofNat n ((2 ^ (hi + 1 - lo) - 1) * 2 ^ lo)
  (x &&& ~~~m) ||| (BitVec.ofNat n (v % 2 ^ (hi + 1 - lo) * 2 ^ lo))

/-- A saturating advance of a counter of w bits. -/
def satInc {w : Nat} (x : BitVec w) : BitVec w := if x = BitVec.allOnes w then x else x + 1

/-- The number of a truth value. -/
def boolNat (b : Bool) : Nat := if b then 1 else 0

/-- The value of a table at a key, d where none is listed. -/
def tget {α : Type} (d : α) : Table α → Nat → α
  | [], _ => d
  | (j, w) :: r, k => if k = j then w else if k < j then d else tget d r k

/-- Sets the value of a key. -/
def tset {α : Type} : Table α → Nat → α → Table α
  | [], k, v => [(k, v)]
  | (j, w) :: r, k, v =>
    if k < j then (k, v) :: (j, w) :: r else if k = j then (k, v) :: r else (j, w) :: tset r k v

/-- The byte at an address; zero where none is listed. -/
def mget : List Host.Cell → Nat → Byte
  | [], _ => 0
  | (j, w) :: r, k => if k < j then 0 else if k = j then w else mget r k

/-- Writes one byte and keeps the canonical form. -/
def mset : List Host.Cell → Nat → Byte → List Host.Cell
  | [], k, v => if v = 0 then [] else [(k, v)]
  | (j, w) :: r, k, v =>
    if k < j then (if v = 0 then (j, w) :: r else (k, v) :: (j, w) :: r)
    else if k = j then (if v = 0 then r else (k, v) :: r)
    else (j, w) :: mset r k v

/-- Every key is at least lo, keys rise strictly, and no cell holds zero. -/
def cellsFrom (lo : Nat) : List Host.Cell → Bool
  | [] => true
  | (j, w) :: r => decide (lo ≤ j) && decide (w ≠ 0) && cellsFrom (j + 1) r

/-- The canonical form of a memory. -/
def Memory.wf (m : List Host.Cell) : Bool := cellsFrom 0 m

/-- The n bytes from address a on. -/
def mread (m : List Host.Cell) (a : Nat) : Nat → List Byte
  | 0 => []
  | n + 1 => mget m a :: mread m (a + 1) n

/-- Writes bytes from address a on. -/
def mwrite (m : List Host.Cell) (a : Nat) : List Byte → List Host.Cell
  | [] => m
  | b :: bs => mwrite (mset m a b) (a + 1) bs

/-- Removes every cell with a key in [lo, hi). -/
def mclear (m : List Host.Cell) (lo hi : Nat) : List Host.Cell :=
  m.filter fun c => decide (c.1 < lo) || decide (hi ≤ c.1)

/-- The number that bytes hold, least significant first. -/
def leNat : List Byte → Nat
  | [] => 0
  | b :: bs => b.toNat + 256 * leNat bs

/-- n bytes of a number, least significant first. -/
def natLe : Nat → Nat → List Byte
  | 0, _ => []
  | n + 1, x => BitVec.ofNat 8 x :: natLe n (x / 256)

/-- Bytes [at, at + n) of a list, zero beyond its end. -/
def slice (bs : List Byte) (pos n : Nat) : List Byte :=
  (bs.drop pos ++ List.replicate n 0).take n

/-- bs with the bytes from pos on replaced by xs, as far as bs reaches. -/
def splice (bs : List Byte) (pos : Nat) (xs : List Byte) : List Byte :=
  bs.take pos ++ (xs.take (bs.length - pos)) ++ bs.drop (pos + xs.length)

/-- A field of n bytes at an offset of a byte list. -/
def fieldAt (bs : List Byte) (pos n : Nat) : Nat := leNat (slice bs pos n)

/-- The list of f 0 to f (n − 1). -/
def tabulate {α : Type} (n : Nat) (f : Nat → α) : List α := (List.range n).map f

/-- The sum of f 0 to f (n − 1). -/
def sumTo (n : Nat) (f : Nat → Int) : Int := (List.range n).foldl (fun a i => a + f i) 0

/-- The first i below n with f i, from lo on. -/
def findFrom (f : Nat → Bool) (lo : Nat) : Nat → Option Nat
  | 0 => none
  | n + 1 => if f lo then some lo else findFrom f (lo + 1) n

end Sys2Proof.Machine
end

