-- ==== Sys2Proof/Machine/Flags.lean ====
section
/-! DEFINITION. Number formats, exact values, the one rounding and the flags it raises (spec/04 R82-R101). Encodings are
numbers; exact values are dyadic, or a lower bound with many more bits than any format holds and the remark that the
value lies above it. -/

namespace Sys2Proof.Machine

/-! ### Flags (R15, R94) -/

/-- inexact. -/
def Fl.inexact : Nat := 1
/-- underflow. -/
def Fl.underflow : Nat := 2
/-- overflow. -/
def Fl.overflow : Nat := 4
/-- divide-by-zero. -/
def Fl.divZero : Nat := 8
/-- invalid. -/
def Fl.invalid : Nat := 16

/-- A flag where a condition holds. -/
def flagIf (b : Bool) (f : Nat) : Nat := if b then f else 0

/-! ### Formats (R83, R84) -/

/-- A floating-point format: exponent and mantissa bits, and whether it is one of the FP8 formats, which saturate
(R93). -/
structure Fmt where
  e : Nat
  m : Nat
  fp8 : Bool
  deriving DecidableEq, Repr

/-- binary32. -/
def fp32 : Fmt := ⟨8, 23, false⟩
/-- BF16. -/
def bf16 : Fmt := ⟨8, 7, false⟩
/-- binary16. -/
def fp16 : Fmt := ⟨5, 10, false⟩
/-- FP8 E4M3. -/
def fpE4m3 : Fmt := ⟨4, 3, true⟩
/-- FP8 E5M2. -/
def fpE5m2 : Fmt := ⟨5, 2, true⟩

/-- The format of a type code; none for the integer codes (R114). -/
def tyFmt : Ty → Option Fmt
  | .f32 => some fp32
  | .bf16 => some bf16
  | .f16 => some fp16
  | .e4m3 => some fpE4m3
  | .e5m2 => some fpE5m2
  | .int => none
  | .uint => none

/-- The element width of a type code (R171). -/
def tyBits : Ty → Nat
  | .f32 | .int | .uint => 32
  | .bf16 | .f16 => 16
  | .e4m3 | .e5m2 => 8

/-- The bits of an encoding. -/
def Fmt.width (f : Fmt) : Nat := 1 + f.e + f.m
/-- The exponent bias. -/
def Fmt.bias (f : Fmt) : Int := 2 ^ (f.e - 1) - 1
/-- The least exponent of a normal value. -/
def Fmt.emin (f : Fmt) : Int := 1 - f.bias
/-- E4M3 has no infinity (R83). -/
def Fmt.hasInf (f : Fmt) : Bool := f.e != 4
/-- The encoding of the largest finite magnitude. -/
def Fmt.maxFin (f : Fmt) : Nat := if f.hasInf then (2 ^ f.e - 1) * 2 ^ f.m - 1 else 2 ^ (f.e + f.m) - 2
/-- The encoding of +∞. -/
def Fmt.infEnc (f : Fmt) : Nat := (2 ^ f.e - 1) * 2 ^ f.m
/-- The default NaN (R83, R85). -/
def Fmt.nan (f : Fmt) : Nat := if f.hasInf then (2 ^ f.e - 1) * 2 ^ f.m + 2 ^ (f.m - 1) else 2 ^ (f.e + f.m) - 1
/-- The sign bit. -/
def Fmt.sign (f : Fmt) (neg : Bool) : Nat := if neg then 2 ^ (f.e + f.m) else 0

/-- What an encoding stands for (R84): a number is ± mag × 2^exp. -/
inductive Val where
  | nan (sig : Bool)
  | inf (neg : Bool)
  | num (neg : Bool) (mag : Nat) (exp : Int)
  deriving DecidableEq, Repr

/-- The value of an encoding (R84). -/
def Fmt.val (f : Fmt) (x : Nat) : Val :=
  let s := decide (x / 2 ^ (f.e + f.m) % 2 = 1)
  let ef := x / 2 ^ f.m % 2 ^ f.e
  let mf := x % 2 ^ f.m
  if f.hasInf && ef == 2 ^ f.e - 1 then
    if mf = 0 then .inf s else .nan (!f.fp8 && decide (mf < 2 ^ (f.m - 1)))
  else if !f.hasInf && ef == 2 ^ f.e - 1 && mf == 2 ^ f.m - 1 then .nan false
  else if ef = 0 then .num s mf (f.emin - f.m)
  else .num s (2 ^ f.m + mf) ((ef : Int) - f.bias - f.m)

/-- Whether a value is a NaN. -/
def Val.isNan : Val → Bool
  | .nan _ => true
  | _ => false

/-- Whether a value is a signalling NaN. -/
def Val.isSig : Val → Bool
  | .nan s => s
  | _ => false

/-- The negated value. -/
def Val.neg : Val → Val
  | .nan s => .nan s
  | .inf s => .inf (!s)
  | .num s m e => .num (!s) m e

/-- The value of an exact integer. -/
def Val.ofInt (x : Int) : Val := .num (decide (x < 0)) x.natAbs 0

/-! ### Exact results -/

/-- The exact result of an operation: ± mag × 2^exp, or, with `more`, a real strictly between that and
± (mag + 1) × 2^exp. -/
inductive Exact where
  | nan
  | inf (neg : Bool)
  | real (neg : Bool) (mag : Nat) (exp : Int) (more : Bool)
  deriving DecidableEq, Repr

/-- A value as an exact result. -/
def Val.exact : Val → Exact
  | .nan _ => .nan
  | .inf s => .inf s
  | .num s m e => .real s m e false

/-- What follows for a magnitude cut at units of 2^qe: the units below it, whether anything is discarded, and its first 32
bits; `half` compares it with one half. -/
structure Cut where
  lo : Nat
  rest : Bool
  half : Ordering
  f32 : Nat
  deriving DecidableEq, Repr

/-- Cuts a nonzero magnitude at units of 2^qe. -/
def cut (mag : Nat) (exp : Int) (more : Bool) (qe : Int) : Cut :=
  if qe ≤ exp then { lo := mag * 2 ^ (exp - qe).toNat, rest := more, half := .lt, f32 := 0 }
  else
    let sh := (qe - exp).toNat
    if Nat.log2 mag + 40 < sh then { lo := 0, rest := true, half := .lt, f32 := 0 }
    else
      let r := mag % 2 ^ sh
      { lo := mag / 2 ^ sh, rest := r != 0 || more,
        half := if 2 * r = 2 ^ sh ∧ more then .gt else compareOfLessAndEq (2 * r) (2 ^ sh),
        f32 := r * 2 ^ 32 / 2 ^ sh }

/-- Whether a mode rounds away from zero (R91, R95); DYN has been resolved before (R16). -/
def Cut.up (c : Cut) (rm : Rm) (neg : Bool) (rbits : Nat) : Bool :=
  c.rest &&
    match rm with
    | .rne | .dyn => c.half == .gt || (c.half == .eq && c.lo % 2 == 1)
    | .rna => c.half != .lt
    | .rtz => false
    | .rdn => neg
    | .rup => !neg
    | .rto => c.lo % 2 == 0
    | .sr => decide (2 ^ 32 ≤ c.f32 + rbits)

/-- The rounded units. -/
def Cut.round (c : Cut) (rm : Rm) (neg : Bool) (rbits : Nat) : Nat := c.lo + boolNat (c.up rm neg rbits)

/-- The overflow results of R93. -/
def Fmt.overflow (f : Fmt) (rm : Rm) (neg : Bool) : Nat :=
  f.sign neg +
    if f.fp8 then f.maxFin
    else
      match rm with
      | .rtz | .rto => f.maxFin
      | .rdn => if neg then f.infEnc else f.maxFin
      | .rup => if neg then f.maxFin else f.infEnc
      | _ => f.infEnc

/-- round_to of a nonzero magnitude (R91, R93, R94): the encoding and the flags. -/
def Fmt.roundMag (f : Fmt) (rm : Rm) (rbits : Nat) (neg : Bool) (mag : Nat) (exp : Int) (more : Bool) : Nat × Nat :=
  let top := (Nat.log2 mag : Int) + exp
  if f.bias + 1 < top then (f.overflow rm neg, Fl.overflow + Fl.inexact)
  else
    let qe := max top f.emin - f.m
    let c := cut mag exp more qe
    let enc := (qe - (f.emin - f.m)).toNat * 2 ^ f.m + c.round rm neg rbits
    if f.maxFin < enc then (f.overflow rm neg, Fl.overflow + Fl.inexact)
    else (f.sign neg + enc, flagIf c.rest Fl.inexact + flagIf (c.rest && decide (top < f.emin)) Fl.underflow)

/-- round_to of an exact result. An infinity becomes E4M3's largest finite value with overflow and inexact (R93). -/
def Fmt.round (f : Fmt) (rm : Rm) (rbits : Nat) : Exact → Nat × Nat
  | .nan => (f.nan, 0)
  | .inf s => if f.hasInf then (f.sign s + f.infEnc, 0) else (f.sign s + f.maxFin, Fl.overflow + Fl.inexact)
  | .real s m e more => if m = 0 then (f.sign s, 0) else f.roundMag rm rbits s m e more

/-- round_int(y, rm) of a nonzero magnitude, with whether it differs from y (R92). -/
def roundInt (rm : Rm) (rbits : Nat) (neg : Bool) (mag : Nat) (exp : Int) (more : Bool) : Int × Bool :=
  let c := cut mag exp more 0
  let q : Int := c.round rm neg rbits
  (if neg then -q else q, c.rest)

/-! ### Saturation (R82) and conversion to an integer (R92) -/

/-- sat_s(n, x). -/
def satS (n : Nat) (x : Int) : Int := min (max x (-(2 ^ (n - 1)))) (2 ^ (n - 1) - 1)
/-- sat_u(n, x). -/
def satU (n : Nat) (x : Int) : Int := min (max x 0) (2 ^ n - 1)

/-- An integer as n bits in two's complement. -/
def wrap (n : Nat) (x : Int) : Nat := (x % 2 ^ n).toNat

/-- The signed value of n bits. -/
def signed (n x : Nat) : Int := if 2 ^ (n - 1) ≤ x then (x : Int) - 2 ^ n else x

/-- An exact result to a 32-bit integer format (R92). -/
def toInt32 (sgn : Bool) (rm : Rm) (rbits : Nat) : Exact → Nat × Nat
  | .nan => (0, Fl.invalid)
  | .inf s => (wrap 32 (if sgn then (if s then -(2 ^ 31) else 2 ^ 31 - 1) else (if s then 0 else 2 ^ 32 - 1)), Fl.invalid)
  | .real s m e more =>
    if m = 0 then (0, 0)
    else if 64 < (Nat.log2 m : Int) + e then
      (wrap 32 (if sgn then (if s then -(2 ^ 31) else 2 ^ 31 - 1) else (if s then 0 else 2 ^ 32 - 1)), Fl.invalid)
    else
      let (q, inx) := roundInt rm rbits s m e more
      let r := if sgn then satS 32 q else satU 32 q
      (wrap 32 r, if r = q then flagIf inx Fl.inexact else Fl.invalid)

/-! ### Arithmetic (R85, R96) -/

/-- The flag that signalling operands raise (R85). -/
def sigFlag (vs : List Val) : Nat := flagIf (vs.any Val.isSig) Fl.invalid

/-- An exact result with the flags of its operands. -/
abbrev Op := Exact × Nat

/-- x + y of numbers; the mode fixes the sign of an exact zero sum (R91). -/
def sumNum (rm : Rm) (s : Bool) (m : Nat) (e : Int) (s' : Bool) (m' : Nat) (e' : Int) : Exact :=
  let q := min e e'
  let a : Int := (m * 2 ^ (e - q).toNat : Nat)
  let b : Int := (m' * 2 ^ (e' - q).toNat : Nat)
  let t := (if s then -a else a) + (if s' then -b else b)
  if t = 0 then .real (if s = s' then s else decide (rm = .rdn)) 0 q false
  else .real (decide (t < 0)) t.natAbs q false

/-- x + y. -/
def addV (rm : Rm) (x y : Val) : Op :=
  match x, y with
  | .nan _, _ | _, .nan _ => (.nan, sigFlag [x, y])
  | .inf s, .inf s' => if s = s' then (.inf s, 0) else (.nan, Fl.invalid)
  | .inf s, .num _ _ _ => (.inf s, 0)
  | .num _ _ _, .inf s => (.inf s, 0)
  | .num s m e, .num s' m' e' => (sumNum rm s m e s' m' e', 0)

/-- x − y. -/
def subV (rm : Rm) (x y : Val) : Op := addV rm x y.neg

/-- x × y as a value, exact; `nan false` also for the undefined 0 × ∞. -/
def prodV (x y : Val) : Val × Nat :=
  match x, y with
  | .nan _, _ | _, .nan _ => (.nan false, sigFlag [x, y])
  | .inf s, .inf s' => (.inf (s != s'), 0)
  | .inf s, .num s' m _ => if m = 0 then (.nan false, Fl.invalid) else (.inf (s != s'), 0)
  | .num s m _, .inf s' => if m = 0 then (.nan false, Fl.invalid) else (.inf (s != s'), 0)
  | .num s m e, .num s' m' e' => (.num (s != s') (m * m') (e + e'), 0)

/-- x × y. -/
def mulV (x y : Val) : Op := ((prodV x y).1.exact, (prodV x y).2)

/-- x × y + z, with the product negated where `np` and z where `nz`: one exact value (R163). -/
def fmaV (np nz : Bool) (rm : Rm) (x y z : Val) : Op :=
  let (p, f) := prodV x y
  let (r, f') := addV rm (if np then p.neg else p) (if nz then z.neg else z)
  (r, f ||| f')

/-- x / y (R96). -/
def divV (x y : Val) : Op :=
  match x, y with
  | .nan _, _ | _, .nan _ => (.nan, sigFlag [x, y])
  | .inf _, .inf _ => (.nan, Fl.invalid)
  | .inf s, .num s' _ _ => (.inf (s != s'), 0)
  | .num s _ _, .inf s' => (.real (s != s') 0 0 false, 0)
  | .num s m e, .num s' m' e' =>
    if m' = 0 then (if m = 0 then (.nan, Fl.invalid) else (.inf (s != s'), Fl.divZero))
    else if m = 0 then (.real (s != s') 0 0 false, 0)
    else
      let k := 128 + Nat.log2 m'
      let n := m * 2 ^ k
      (.real (s != s') (n / m') (e - e' - k) (n % m' != 0), 0)

/-- The greatest r with r² ≤ n, bit by bit from bit k − 1 down. -/
def isqrtFrom (n : Nat) : Nat → Nat → Nat
  | 0, r => r
  | k + 1, r => isqrtFrom n k (if (r + 2 ^ k) * (r + 2 ^ k) ≤ n then r + 2 ^ k else r)

/-- The integer square root. -/
def isqrt (n : Nat) : Nat := isqrtFrom n (Nat.log2 n / 2 + 1) 0

/-- √x (R96). -/
def sqrtV (x : Val) : Op :=
  match x with
  | .nan _ => (.nan, sigFlag [x])
  | .inf s => if s then (.nan, Fl.invalid) else (.inf false, 0)
  | .num s m e =>
    if m = 0 then (.real s 0 0 false, 0)
    else if s then (.nan, Fl.invalid)
    else
      let k := 200 + (e % 2).toNat
      let n := m * 2 ^ k
      let r := isqrt n
      (.real false r ((e - k) / 2) (r * r != n), 0)

/-- 1/x (R96). -/
def rcpV (x : Val) : Op := divV (.num false 1 0) x

/-- 1/√x (R96). -/
def rsqV (x : Val) : Op :=
  match x with
  | .nan _ => (.nan, sigFlag [x])
  | .inf s => if s then (.nan, Fl.invalid) else (.real false 0 0 false, 0)
  | .num s m e =>
    if m = 0 then (.inf s, Fl.divZero)
    else if s then (.nan, Fl.invalid)
    else
      let k := 400 + (e % 2).toNat
      let r := isqrt (2 ^ k / m)
      (.real false r (-((e + k) / 2)) (r * r * m != 2 ^ k), 0)

/-- ⌊ln 2 × 2^256⌋. -/
def ln2 : Nat := 0xb17217f7d1cf79abc9e3b39803f2f6af40f343267298b62d8a0d175b8baafa2b

/-- Terms of the series of e^y at 256 fraction bits, rounded down: the sum from the term t of index i on. -/
def expSeries (y : Nat) : Nat → Nat → Nat → Nat
  | 0, _, _ => 0
  | n + 1, i, t => t + expSeries y n (i + 1) (t * y / (2 ^ 256 * (i + 1)))

/-- 2^x (R96). An irrational result is cut at 128 fraction bits (DEDUCED, notes/assumptions/7.md). -/
def exp2V (x : Val) : Op :=
  match x with
  | .nan _ => (.nan, sigFlag [x])
  | .inf s => if s then (.real false 0 0 false, 0) else (.inf false, 0)
  | .num s m e =>
    let n : Int := if s then -(m : Int) else m
    if 0 ≤ e then (.real false 1 (n * 2 ^ e.toNat) false, 0)
    else
      let d : Nat := 2 ^ (-e).toNat
      let fr := (n % d).toNat
      if fr = 0 then (.real false 1 (n / d) false, 0)
      else (.real false (expSeries (fr * ln2 / d) 72 0 (2 ^ 256) / 2 ^ 128) (n / d - 128) true, 0)

/-- The first n fraction bits of log2 z, for z in [1, 2) with 420 fraction bits: z is squared once for each bit. -/
def log2Bits : Nat → Nat → Nat → Nat
  | 0, _, acc => acc
  | n + 1, z, acc =>
    let q := z * z / 2 ^ 420
    if 2 ^ 421 ≤ q then log2Bits n (q / 2) (2 * acc + 1) else log2Bits n q (2 * acc)

/-- log2 x (R96). An irrational result is cut at 160 fraction bits (DEDUCED, notes/assumptions/7.md). -/
def log2V (x : Val) : Op :=
  match x with
  | .nan _ => (.nan, sigFlag [x])
  | .inf s => if s then (.nan, Fl.invalid) else (.inf false, 0)
  | .num s m e =>
    if m = 0 then (.inf true, Fl.divZero)
    else if s then (.nan, Fl.invalid)
    else
      let k := Nat.log2 m
      let i : Int := k + e
      if m = 2 ^ k then (.real (decide (i < 0)) i.natAbs 0 false, 0)
      else
        let v : Int := i * 2 ^ 160 + log2Bits 160 (m * 2 ^ 420 / 2 ^ k) 0
        if v < 0 then (.real true (v.natAbs - 1) (-160) true, 0) else (.real false v.toNat (-160) true, 0)

/-- Rounds the result of an operation; its own flags join those of the rounding. -/
def Fmt.finish (f : Fmt) (rm : Rm) (rbits : Nat) (o : Op) : Nat × Nat :=
  let (x, fl) := f.round rm rbits o.1
  (x, fl ||| o.2)

/-- A rounded sum of two encodings. -/
def Fmt.add (f : Fmt) (rm : Rm) (x y : Nat) : Nat × Nat := f.finish rm 0 (addV rm (f.val x) (f.val y))

/-! ### Order (R164, R168, R182) -/

/-- x compared with y, neither a NaN; −0 equals +0. -/
def Val.cmp (x y : Val) : Ordering :=
  match x, y with
  | .nan _, _ | _, .nan _ => .eq
  | .inf s, .inf s' => if s = s' then .eq else if s then .lt else .gt
  | .inf s, .num _ _ _ => if s then .lt else .gt
  | .num _ _ _, .inf s => if s then .gt else .lt
  | .num s m e, .num s' m' e' =>
    let q := min e e'
    let a : Int := (m * 2 ^ (e - q).toNat : Nat)
    let b : Int := (m' * 2 ^ (e' - q).toNat : Nat)
    compareOfLessAndEq (if s then -a else a) (if s' then -b else b)

/-- fmax or fmin of two encodings, with the invalid flag of a signalling operand (R164). -/
def Fmt.pick (f : Fmt) (isMax : Bool) (x y : Nat) : Nat × Nat :=
  let a := f.val x
  let b := f.val y
  (if a.isNan || b.isNan then f.nan
   else
    match a.cmp b with
    | .eq => if isMax then min x y else max x y
    | .lt => if isMax then y else x
    | .gt => if isMax then x else y,
   sigFlag [a, b])

/-- The condition of a floating-point compare, and its flag (R168). -/
def fcond (c : FCond) (a b : Val) : Bool × Nat :=
  let nan := a.isNan || b.isNan
  let sig := sigFlag [a, b]
  match c with
  | .eq => (!nan && a.cmp b == .eq, sig)
  | .lt => (!nan && a.cmp b == .lt, sig ||| flagIf nan Fl.invalid)
  | .le => (!nan && a.cmp b != .gt, sig ||| flagIf nan Fl.invalid)
  | .un => (nan, sig)

/-! ### Conversions (R172, R173) -/

/-- The value of an element of a type, and the flag its reading raises. -/
def tyVal (t : Ty) (x : Nat) : Val :=
  match tyFmt t with
  | some f => f.val x
  | none => match t with
    | .int => .ofInt (signed 32 x)
    | _ => .ofInt x

/-- An exact result to a type. -/
def tyRound (t : Ty) (rm : Rm) (rbits : Nat) (x : Exact) : Nat × Nat :=
  match tyFmt t with
  | some f => f.round rm rbits x
  | none => toInt32 (decide (t = .int)) rm rbits x

/-- One element converted from a type to another (R172). -/
def convert (sty dty : Ty) (rm : Rm) (rbits : Nat) (x : Nat) : Nat × Nat :=
  let v := tyVal sty x
  let (r, fl) := tyRound dty rm rbits v.exact
  (r, fl ||| sigFlag [v])

/-- VQSC of one element (R173). -/
def quantScale (sty dty : Ty) (rm : Rm) (rbits : Nat) (x y : Nat) : Nat × Nat :=
  let o := divV (tyVal sty x) (tyVal sty y)
  let (r, fl) := tyRound dty rm rbits o.1
  (r, fl ||| o.2)

/-! ### MX blocks (R87-R90) -/

/-- Element bits of an MX format. -/
def mxN : Mx → Nat
  | .mxint8 => 8
  | .mxint6 => 6
  | .mxint4 => 4

/-- Fractional bits of an MX format. -/
def mxF : Mx → Nat
  | .mxint8 => 6
  | .mxint6 => 4
  | .mxint4 => 2

/-- ⌊log2⌋ of a nonzero magnitude. -/
def expOf (m : Nat) (e : Int) : Int := (Nat.log2 m : Int) + e

/-- The scale of a block: 0xFF where a value is a NaN or infinite (R90). -/
def mxScale (xs : List Val) : Nat :=
  if xs.any fun x => match x with
      | .num _ _ _ => false
      | _ => true
  then 0xFF
  else
    xs.foldl (fun a x => match x with
      | .num _ m e => if m = 0 then a else max a (min (max (expOf m e + 127) 0) 0xFE).toNat
      | _ => a) 0

/-- One element of a block with scale X, and its flags (R90). -/
def mxElem (mx : Mx) (scale : Nat) (rm : Rm) (rbits : Nat) (x : Val) : Int × Nat :=
  match x with
  | .num s m e =>
    if scale = 0xFF ∨ m = 0 then (0, 0)
    else
      let (q, inx) := roundInt rm rbits s m (e + 127 - scale + mxF mx) false
      let r := max (satS (mxN mx) q) (-(2 ^ (mxN mx - 1) - 1))
      (r, flagIf inx Fl.inexact ||| flagIf (r != q) Fl.invalid)
  | _ => (0, 0)

/-- The value of an MX element; a NaN under the NaN scale (R88). -/
def mxVal (mx : Mx) (scale q : Nat) : Val :=
  if scale = 0xFF then .nan false
  else
    let i := signed (mxN mx) q
    .num (decide (i < 0)) i.natAbs ((scale : Int) - 127 - mxF mx)

/-! ### Fixed trees (R98) -/

/-- One level of the tree: pairs of neighbours, an absent element leaving the other. -/
def treeLevel (op : Nat → Nat → Nat × Nat) : List (Option Nat) → List (Option Nat) × Nat
  | a :: b :: r =>
    let (xs, fl) := treeLevel op r
    match a, b with
    | some x, some y => let (z, f) := op x y; (some z :: xs, f ||| fl)
    | some x, none => (some x :: xs, fl)
    | none, y => (y :: xs, fl)
  | xs => (xs, 0)

/-- The levels of the tree. -/
def treeSum (op : Nat → Nat → Nat × Nat) : Nat → List (Option Nat) → Option Nat × Nat
  | 0, xs => (xs.headD none, 0)
  | k + 1, xs =>
    let (ys, f) := treeLevel op xs
    let (r, f') := treeSum op k ys
    (r, f ||| f')

/-! ### Histograms (R100) and counter-based bits (R101) -/

/-- hbin(x, B). -/
def hbin (x : Val) (base : Int) : Nat :=
  match x with
  | .num _ m e =>
    if m = 0 then 0
    else
      let ex := expOf m e
      if ex < base then 1 else if base + 59 < ex then 62 else (ex - base + 2).toNat
  | _ => 63

/-- The rounds of H. -/
def hashRounds : Nat → BitVec 64 → BitVec 64 → BitVec 64
  | 0, _, x => x ^^^ (x >>> 32)
  | n + 1, k, x =>
    let k1 := k + 0x9E3779B97F4A7C15
    let x1 := (x ^^^ k1) * 0xF1357AEA2E62A9C5
    let x2 := x1 ^^^ (x1 >>> 29)
    hashRounds n k1 (x2 + ((k1 <<< 23) ||| (k1 >>> 41)))

/-- H(key, ctr) (R101). -/
def hash (key ctr : BitVec 64) : BitVec 64 := hashRounds 6 key ctr

/-- rbits of element e (R95). -/
def rbits (key ctr : BitVec 64) (e : Nat) : Nat := bits (hash key (ctr + BitVec.ofNat 64 e)) 31 0

end Sys2Proof.Machine
end

