-- ==== Sys2Proof/Machine/State.lean ====
section
/-! DEFINITION. The state of one package as plain data (INVENTORY.md, State), the reasons a step can stop, and the state
after reset. Fields that no rule names and that belong to the model alone say so. -/

namespace Sys2Proof.Machine

/-- Why the machine stands still. -/
inductive Fault where
  /-- Raised by the step after an access reached a device physical address at or above 1,536 × 10^9, which R427 says
  does not exist (Machine/Mem.lean). Safe: nothing is claimed of the run from there. -/
  | noMemory (pa : Nat)
  deriving DecidableEq, Repr

/-- Why a step has no outcome. -/
inductive Refusal where
  /-- Raised by Machine/Dispatch.lean for an instruction that has no meaning yet. Safe. -/
  | notModelled (mnemonic : String)
  /-- Raised by an event whose condition does not hold in the state (a completion that is not in flight, a chunk of no
  copy): such an event does not happen there. Safe. -/
  | notEnabled (event : String)
  /-- Raised by a stream word when no stream sequencer has the turn. Safe. -/
  | noSequencer
  deriving DecidableEq, Repr

/-- The state of a register (R28). -/
inductive RegState where
  | full
  | pending (tag : BitVec 32)
  | poisoned (value : BitVec 32)
  deriving DecidableEq, Repr

/-- What a thread does (R25, R36, R72). -/
inductive Status where | idle | ready | parked | waiting | exited
  deriving DecidableEq, Repr

/-- A place in storage: where the bytes of one access part lie (R57). -/
inductive Place where
  | dev (pa : Nat)
  /-- A byte of a core's pool, by its offset as addressed through a swizzle code (R60). -/
  | pool (core swz off : Nat)
  | host (pa : Nat)
  | remote (module pa : Nat)
  | ctl (off : Nat)
  deriving DecidableEq, Repr

/-- A registration of a thread with a phaser (R201, R282). -/
structure Registration where
  va : Word
  sig : Bool
  wait : Bool
  inc : BitVec 8
  /-- The phase of the last arrival; one below the phase for a new signaller, which has not arrived (R204, R360). -/
  arrived : BitVec 32
  deriving DecidableEq, Repr

/-- What an outside-domain store or atomic met at its target (R74). -/
inductive Fate where | done | dead | refused
  deriving DecidableEq, Repr

/-- A wait on a held page: since which NOW, for which address, log2 of the size of the page, and whether an invalidation that
covers the page has completed since its last walk, so that it walks again (R335). -/
structure Hold where
  since : Nat
  va : Word
  size : Nat
  again : Bool
  deriving DecidableEq, Repr

/-- One hardware thread (R10, R15). -/
structure Thread where
  status : Status
  /-- Woke from parking and has not issued since (R49). -/
  woke : Bool
  /-- NOW at which the thread parked (R49). -/
  parkedAt : Nat
  /-- The registers that the parked instruction reads or writes (R48). -/
  waitsOn : List Nat
  /-- It parked for a pending-table entry (R33, R48). -/
  waitsEntry : Bool
  /-- Its last instruction was a YIELD (R153). -/
  yielded : Bool
  pc : Word
  /-- R28: states of s0-s63 (0-63), v0-v63 (64-127), p0-p15 (128-143). -/
  st : Vector RegState 144
  s : Vector Word 64
  v : Vector Vec 64
  p : Vector Word 16
  fprm : BitVec 3
  fpflags : BitVec 5
  seqdesc : Word
  seqmode : Word
  seqkey : Word
  frbase : Word
  utvec : Word
  trapidx : BitVec 16
  packinfo : Word
  launchid : Word
  rcbaddr : Word
  dclass : Bool
  asid : BitVec 16
  count : BitVec 32
  deadlink : BitVec 16
  refused : BitVec 16
  nlaunch : BitVec 32
  regs : List Registration
  /-- The pack the thread belongs to (launch id × 2^24 + pack index). -/
  pack : Nat
  rank : Nat
  positioned : Bool
  halted : Bool
  /-- Outside-domain stores and atomics not yet acknowledged, oldest first (R69, R73). -/
  unacked : List Fate
  /-- The instruction at pc, or its fetch, waits on a held page (R335). -/
  hold : Option Hold
  /-- The cause of the trap that entered the handler, until its first instruction is fetched (R353). -/
  delivering : Nat
  /-- The instruction at pc waits for room in the trail and is counted in STALLS (R375). -/
  stalled : Bool
  deriving DecidableEq, Repr

/-- The issue tag of a binding (R34). -/
structure ITag where
  core : Nat
  cls : Nat
  slot : Nat
  epoch : Nat
  deriving DecidableEq, Repr

/-- Where a binding lies. -/
inductive Loc where
  /-- In register i of a thread. -/
  | reg (gtid i : Nat)
  /-- Its destination is a constant register: discarded when it arrives (R11). -/
  | sink (gtid : Nat)
  /-- Its destination is a constant register of a thread that is no longer on the core: discarded when it arrives, with the pack
  whose kill makes it stale (R11, R54). -/
  | orphan (pack : Nat)
  /-- In a kennel completion slot of a pack that is out (R51). -/
  | slot (pack rank n : Nat)
  /-- Detached by FDROP or EXIT (R44, R55). -/
  | dropped
  /-- Of a context that was killed or rewound: its completion counts in CPLSTALE (R54, R55). -/
  | stale
  deriving DecidableEq, Repr

/-- A binding: pending-table entry, place and active bytes (R33, R34, R39). -/
structure Bind where
  tag : ITag
  entryCore : Nat
  entry : Nat
  loc : Loc
  /-- Bytes of a vector destination that the completion writes. -/
  mask : BitVec 256
  deriving DecidableEq, Repr

/-- What a command keeps of its issuer. -/
structure Ctx where
  gtid : Nat
  asid : BitVec 16
  pc : Word
  w0 : BitVec 32
  w1 : BitVec 32
  /-- FRBASE at issue, for a record whose thread is gone when it is written (R351). -/
  frbase : Word
  pack : Nat
  rank : Nat
  /-- PBND0 and PBND2 of its core (R27). -/
  bounds : Nat × Nat
  deriving DecidableEq, Repr

/-- The value a completion carries (R32). -/
inductive Result where
  | full (v : Vec)
  | poison (code : Nat) (addr info : Word) (reason : Nat)
  /-- A poison value whose fault record has been written. -/
  | recorded (pv : BitVec 32)
  /-- The new geometry of a ring, which takes effect as its RING.RESET completes (R229, R298). -/
  | reset (ring : Nat) (base : Word) (log2n eb : Nat)
  deriving DecidableEq, Repr

/-- A completion on its way to its binding (R32, R52). -/
structure Flight where
  tag : ITag
  ctx : Ctx
  res : Result
  deriving DecidableEq, Repr

/-- One part of an access: element bytes [at, at + len) of the access, at virtual address va (R63). -/
structure Part where
  va : Word
  pos : Nat
  len : Nat
  deriving DecidableEq, Repr

/-- The TLBs (R336, R337): one for the cores and the dies together, and the stream TLB of each copy engine, stream sequencer and
collective walker. -/
inductive TlbId where
  | shared
  | copy (engine : Nat)
  | seqr (q : Nat)
  | walker (die : Nat)
  deriving DecidableEq, Repr

/-- A cached translation, and the TLB that holds it (R336, R337). -/
structure TlbEntry where
  asid : BitVec 16
  page : Nat
  size : Nat
  leaf : BitVec 64
  leafPa : Nat
  holder : TlbId
  deriving DecidableEq, Repr

/-- A copy of a 128-byte line of another module's memory in this package's L2: its bytes and NOW at which it was fetched; the
cores that an acquire at SYS has barred from it since (R70); and the threads, each as a pack and a rank, that have acquired at SYS
or read the line at its home since, so that they do not go back to the copy (R68). -/
structure FabCopy where
  module : Nat
  line : Nat
  bytes : List Byte
  since : Nat
  barred : List Nat
  homed : List (Nat × Nat)
  deriving DecidableEq, Repr

/-- A PH.WAIT whose future waits for a flip (R206). -/
structure PhWait where
  tag : ITag
  ctx : Ctx
  va : Word
  place : Place
  token : Nat
  deriving DecidableEq, Repr

/-- A granule with an uncorrectable soft error (R415). -/
inductive Mark where
  | hbm (granule : Nat)
  | l2 (granule : Nat)
  | pool (granule : Nat)
  | acc (tile n : Nat)
  /-- The pending-table entry of a binding, while the binding holds it. -/
  | pending (tag : ITag)
  /-- A granule of the context of a ring. -/
  | ring (key n : Nat)
  deriving DecidableEq, Repr

/-- One RCB's limits: cores, tiles, pool units; zero is no limit (R319, R320). -/
structure Limit where
  rcb : Nat
  cores : Nat
  tiles : Nat
  pool : Nat
  deriving DecidableEq, Repr

/-- The effective values of a region, kept while a launch of it is active (R320, R321). A region is the device physical
address of its RCB. -/
structure Region where
  rcb : Nat
  chain : List Nat
  prio : Nat
  dclass : Bool
  poison : Bool
  link : Bool
  fdom : Nat
  frbase : Word
  utvec : Word
  cemask : Nat
  limits : List Limit
  trail : Nat
  phwin : Bool
  owner : Nat
  trailBase : Word
  trailU : Nat
  /-- The ancestors of the owner that have a trail enabled, each with its TRAILU (R320). -/
  above : List (Nat × Nat)
  deriving DecidableEq, Repr

/-- A trail in use: its owner, its trail ASID, the bytes of its entry area, where its buffer lies as (offset, physical
address, length), whether another write has struck an entry since the last turn, whether it has become FAILED (R367), and the
wait of its writers for a held page (R335). -/
structure TrailUse where
  owner : Nat
  asid : BitVec 16
  area : Nat
  pages : List (Nat × Nat × Nat)
  spoiled : Bool
  failed : Bool
  hold : Option Hold
  deriving DecidableEq, Repr

/-- A semaphore of a launch (R318, R323). -/
structure Sem where
  addr : Word
  val : Word
  cond : SCond
  ok : Bool
  deriving DecidableEq, Repr

/-- Where a launch came from: a host queue, or a parent launch (R326). -/
inductive Source where | queue (q : Nat) | child (parent : Nat)
  deriving DecidableEq, Repr

/-- The issuer of a child launch (R238, R289). -/
structure Parent where
  lid : Nat
  pack : Nat
  rank : Nat
  call : Nat
  ordered : Bool
  deriving DecidableEq, Repr

/-- An accepted launch (R318, R322-R328). -/
structure Launch where
  id : Nat
  src : Source
  parent : Option Parent
  asid : BitVec 16
  rcbVa : Word
  region : Nat
  entry : Word
  arg : Word
  packs : Nat
  clmask : Nat
  tmask : Nat
  bus : Bool
  bmask : Nat
  tpc : Nat
  cores : Nat
  pb1 : Nat
  pb2 : Nat
  start : Option Nat
  sem0 : Option Sem
  sem1 : Option Sem
  crec : Option Word
  csig : Option Word
  endTag : Option (ITag × Ctx)
  /-- START has passed (R323, R324). -/
  timeOk : Bool
  ready : Bool
  /-- NOW from which w of R326 runs, and NOW at which the launch became ready. -/
  since : Nat
  readyAt : Nat
  /-- Packs still to dispatch or restore, in the order of R325 and R327. -/
  left : List Nat
  /-- Packs dispatched at least once (R289). -/
  begun : List Nat
  ended : Nat
  exited : Nat
  deadlink : Nat
  refused : Nat
  killed : Bool
  faulted : Bool
  semFail : Bool
  /-- It holds its clusters (R326). -/
  holds : Bool
  /-- The packs that were passed over as victims for it (R358). -/
  passed : List Nat
  /-- Its completion waits on a held page (R328, R335). -/
  hold : Option Hold
  /-- Its launch window waits for room in a trail and is counted in STALLS (R375). -/
  stalled : Bool
  deriving DecidableEq, Repr

/-- What a launch queue holds beside its registers (R316): the packets made visible, and a wait of the shepherd on a held
page (R335). -/
structure Queue where
  visible : BitVec 32
  hold : Option Hold
  deriving DecidableEq, Repr

/-- A LAUNCH on its way to the shepherd (R238): its packet, its call index, and its wait on a held page. -/
structure ChildReq where
  tag : ITag
  ctx : Ctx
  va : Word
  call : Nat
  rank : Nat
  ordered : Bool
  endd : Bool
  /-- Bytes of trail reserved for it (R375). -/
  reserved : Nat
  hold : Option Hold
  deriving DecidableEq, Repr

/-- An ended pack that a REWIND gives back, and the thread that it positions: its rank, and the window, the register and the
body of its checkpoint (R374). -/
structure Revival where
  key : Nat
  rank : Nat
  window : Nat
  dest : Nat
  body : List Byte
  deriving DecidableEq, Repr

/-- A watchpoint of a region (R378); neither read nor written, it hides the one that a region above has in the slot. -/
structure Watch where
  rcb : Nat
  slot : Nat
  addr : Nat
  len : Nat
  read : Bool
  write : Bool
  deriving DecidableEq, Repr

/-- The four copy operations (R217). -/
inductive CpOp where | copy | fill | cvt | stride
  deriving DecidableEq, Repr

/-- What a copy command does next: wait for its order or its ring entry, write chunks, then its histogram and BAR action, wait
for the flip that this causes, and complete (R218-R222, R227, R307). -/
inductive CpStage where | order | entry | chunks | bins | bar | flip
  deriving DecidableEq, Repr

/-- An accepted copy command (R215-R222). -/
structure Copy where
  id : Nat
  tag : ITag
  ctx : Ctx
  engine : Nat
  op : CpOp
  ord : Bool
  bar : Bool
  hist : Bool
  ring : Option Nat
  q : Nat
  dst : Word
  src : Word
  /-- Bytes of a row and rows: one row but for CP.STRIDE. -/
  rowBytes : Nat
  rows : Nat
  dpitch : Nat
  spitch : Int
  phaser : Word
  /-- The pack in whose pool a phaser of the local window lies, and the core in that pack (R364). -/
  barAt : Option (Nat × Nat)
  haddr : Word
  hbase : Int
  hty : Ty
  dty : Ty
  sty : Ty
  rm : Rm
  key : Word
  ctr : Word
  stage : CpStage
  /-- It is refused (R219), and waits for its place among the ORD commands or for its BAR action. -/
  refused : Bool
  /-- Destination bytes written. -/
  done : Nat
  /-- The poison value of a failure whose record has been written (R307). -/
  err : Option (BitVec 32)
  /-- Its fence entry has been written (R224). -/
  fenced : Bool
  flags : BitVec 5
  bins : List Nat
  /-- Bytes of trail reserved and not yet used (R214). -/
  reserved : Nat
  hold : Option Hold
  /-- The marks of a ring that was reset since are discarded (R229). -/
  stale : Bool
  deriving DecidableEq, Repr

/-- A ring context (R225, R359). Marks: 0 empty, 1 filled, 2 poisoned. -/
structure Ring where
  base : Word
  asid : BitVec 16
  log2n : Nat
  eb : Nat
  fill : BitVec 32
  free : BitVec 32
  marks : Table Nat
  reset : Bool
  deriving DecidableEq, Repr

/-- A flip that waits for room in a trail (R375): the phaser's address in an address space and its place, the region whose access
causes it, and its wait on a held page (R335). -/
structure HeldFlip where
  va : Word
  asid : BitVec 16
  place : Place
  region : Option Nat
  hold : Option Hold
  deriving DecidableEq, Repr

/-- A pending RING.WAIT (R228). -/
structure RingWait where
  tag : ITag
  ctx : Ctx
  ring : Nat
  free : Bool
  target : BitVec 32
  deriving DecidableEq, Repr

/-- A pending SEM.WAIT (R209). -/
structure SemWait where
  tag : ITag
  ctx : Ctx
  va : Word
  place : Place
  y : Word
  cond : SCond
  deriving DecidableEq, Repr

/-- What a held access does when its page is released (R203, R335); `mask` names the bytes that a vector load reads. -/
inductive HeldOp where
  | load (sz : LdSz)
  | vload (mask : BitVec 256)
  | atom (op : AOp) (aw : AWidth) (opd cmp : Word)
  | phWait (token : Nat)
  /-- A PH.WAIT that was pending when an invalidation covered its page: it has passed its checks (R206, R341). -/
  | phRewait (token : Nat)
  | semWait (c : SCond) (y : Word)
  | qseq (mode : Word) (key : Word) (dim : Nat) (idx : List Nat)
  | qtbl (first count : Nat)
  deriving DecidableEq, Repr

/-- A load, an atomic or a wait whose page is held (R335); `got` holds the parts that were read at issue. -/
structure Held where
  tag : ITag
  ctx : Ctx
  op : HeldOp
  va : Word
  got : List (Part × Option (List Byte))
  /-- Bytes of trail reserved for it (R375). -/
  reserved : Nat
  /-- It acquires at SYS (R70). -/
  acq : Bool
  hold : Hold
  deriving DecidableEq, Repr

/-- The direction words that a core's sequence unit caches for a launch: those of one block of 64 dimensions of the table at an
address, word k of dimension d under key 32d + k (R106, R279). -/
structure SeqCache where
  lid : Nat
  table : Word
  block : Nat
  words : Table Nat
  deriving DecidableEq, Repr

/-- A level of a collective record (R234). -/
structure CollLevel where
  bound : Nat
  pa : Nat
  pb : Nat
  sstride : Int
  dstride : Int
  deriving DecidableEq, Repr

/-- A collective record as a walker reads it (R234). -/
structure CollRec where
  group : Nat
  gen : Nat
  op : Nat
  ty : Nat
  p : Nat
  xfer : Nat
  rearm : Bool
  bar : Bool
  sbase : Word
  peertab : Word
  phaser : Word
  restride : Word
  doff : Word
  levels : List CollLevel
  runs : Word
  deriving DecidableEq, Repr

/-- The wait of a transfer for a notice: NOW since which, NOW of its last request, and whose notice (R292). -/
structure NoticeWait where
  since : Nat
  last : Nat
  module : Nat
  die : Nat
  deriving DecidableEq, Repr

/-- What a run does next: send its release notices, send transfers, write its reports back (R237, R292). -/
inductive RunStage where | notices | sending | finish
  deriving DecidableEq, Repr

/-- A run of an armed collective (R235, R237, R292). -/
structure CollRun where
  tag : ITag
  ctx : Ctx
  stage : RunStage
  number : Nat
  /-- Loop indices of the next transfer; none when every transfer has been sent. -/
  idx : Option (List Nat)
  xfers : Nat
  /-- The wait of the next transfer for its notice (R292). -/
  waiting : Option NoticeWait
  /-- Write-backs to make: offset in the record and bytes (R237). -/
  writes : List (Nat × List Byte)
  aborted : Bool
  hold : Option Hold
  deriving DecidableEq, Repr

/-- An armed handle of a walker (R236). -/
structure Armed where
  cr : CollRec
  addr : Word
  ctx : Ctx
  order : Nat
  resume : List Nat
  /-- The pack in whose pool its phaser of the local window lies, and the core in that pack (R364). -/
  barAt : Option (Nat × Nat)
  /-- Number of the latest run started since arming (R292). -/
  latest : Option Nat
  run : Option CollRun
  deriving DecidableEq, Repr

/-- A COLL.ARM under way: its record is not read yet, or its GROUP is in quarantine (R236). -/
structure Arming where
  tag : ITag
  ctx : Ctx
  addr : Word
  cr : Option CollRec
  hold : Option Hold
  deriving DecidableEq, Repr

/-- A COLL.ARM with DISARM that waits for the end of a run (R236). -/
structure Disarming where
  tag : ITag
  ctx : Ctx
  key : Nat
  deriving DecidableEq, Repr

/-- A transfer that was sent and is not acknowledged: whose, to which die's stacks, when, and the answer of this package's own
stack logic, if it was the receiver and has answered (R237, R395). -/
structure Sent where
  key : Nat
  run : Nat
  idx : List Nat
  die : Nat
  own : Bool
  answer : Option Bool
  since : Nat
  deriving DecidableEq, Repr

/-- The last transfer of a sender that was applied (R294). -/
structure Applied where
  die : Nat
  group : Nat
  gen : Nat
  module : Nat
  sdie : Nat
  run : Nat
  idx : List Nat
  deriving DecidableEq, Repr

/-- The addition of a transfer's bytes to a phaser on a held page, and the acknowledgement that waits for it (R283). -/
structure CollBar where
  ctx : Ctx
  phaser : Word
  barAt : Option (Nat × Nat)
  bytes : Nat
  pkt : XferPkt
  hold : Option Hold
  deriving DecidableEq, Repr

/-- A pending PROBE (R200, R343). -/
structure Probe where
  tag : ITag
  ctx : Ctx
  write : Bool
  /-- The address to check next and the end of the range. -/
  lo : Nat
  hi : Nat
  /-- Pages that passed, and those among them that needed a request. -/
  pages : Nat
  serviced : Nat
  /-- The page under lo has needed a request, and the RESOLVED answers after which its walk failed again (R343). -/
  asked : Bool
  tries : Nat
  hold : Option Hold
  deriving DecidableEq, Repr

/-- An outstanding residency request (R343, R344). -/
structure Request where
  id : Nat
  asid : BitVec 16
  /-- The 64 KiB page of the failing address. -/
  page : Nat
  write : Bool
  reason : Nat
  /-- RESOLVED answers after which the walk failed again. -/
  tries : Nat
  posted : Bool
  since : Nat
  deriving DecidableEq, Repr

/-- The stream parameter block (R244). -/
structure SParam where
  obase : Word
  ostep : Word
  opitch : Nat
  start : Nat
  lcinit : List Nat
  phaser : Word
  srkey : Word
  srctr : Word
  deriving DecidableEq, Repr

/-- The configuration words' state of a sequencer with its micro-PC and loop counters (R243). -/
structure SConf where
  upc : Nat
  lc : List Nat
  wd : Nat
  g : Nat
  fmt : Nat
  fmta : Nat
  scm : Nat
  scx : Nat
  mode : Bool
  acc : Nat
  deriving DecidableEq, Repr

/-- A frame on a bus: what its gap and its light carry (R249, R251); `bad` when the transmitter's entry held an
uncorrectable soft error (R426); `run` names the transmit RUN that sends it: its program's number times 2^32, plus its WINDEX. -/
structure Frame where
  number : BitVec 32
  run : Nat
  wd : Nat
  fmt : Nat
  scm : Nat
  scx : Nat
  bytes : List Byte
  bad : Bool
  deriving DecidableEq, Repr

/-- The window that a RUN started (R247, R252, R254): the state at the RUN (conf, optr), then, from admission, its bus, its ring
entry and the frame; the frame is none again while an alarmed window waits for its rerun (R264). A transmitter's window is a
`rerun` once its frame goes to the alarmed tiles alone. The free values of its analog codes are those of `key`; `cal` says that
the conditions of the accuracy model held at its latest admission (R258). -/
structure Window where
  conf : SConf
  optr : Word
  keep : Bool
  bus : Nat
  ring : Nat
  q : BitVec 32
  entry : List Byte
  frame : Option Frame
  lost : BitVec 64
  margin : Nat
  alarm : Bool
  rerun : Bool
  missed : Bool
  key : Nat
  cal : Bool
  deriving DecidableEq, Repr

/-- The fields of the completion word gathered so far (R273). -/
structure SDone where
  frames : Nat
  flags : BitVec 5
  degr : Bool
  sat : Bool
  promo : Bool
  flush : Bool
  nansc : Bool
  skew : Bool
  anyRun : Bool
  allRef : Bool
  drains : Nat
  /-- WINDEX of the first degraded window (R263). -/
  firstDeg : Option (BitVec 32)
  deriving DecidableEq, Repr

/-- A stream program in line for a sequencer (R239): its address, its argument, whether its parameter block has been
read (R244), and the number that it then takes, which no other program has. -/
structure SCmd where
  tag : ITag
  ctx : Ctx
  prog : Word
  arg : Word
  ref : Bool
  started : Bool
  number : Nat
  deriving DecidableEq, Repr

/-- A transmit RUN whose frame has been sent and some of whose listeners may still have to finish it: which RUN, its ring, and
whether K keeps its entry (R247, R253). -/
structure Unfreed where
  run : Nat
  ring : Nat
  keep : Bool
  deriving DecidableEq, Repr

/-- A registration on its way: its selector, NOW of its command, and its future; none for SELB (R240, R269). -/
structure Join where
  sel : Nat
  since : Nat
  fut : Option (ITag × Ctx)
  deriving DecidableEq, Repr

/-- A stream sequencer: receive 0-31, transmit 32-35 (R243, R244). -/
structure Seqr where
  cmd : Option SCmd
  line : List SCmd
  par : SParam
  conf : SConf
  inr : Option Nat
  inq : BitVec 32
  str : Option Nat
  stq : BitVec 32
  windex : BitVec 32
  optr : Word
  dcnt : BitVec 32
  sdone : SDone
  /-- NOW before which the next frame is not admitted (R253). -/
  wnow : Nat
  /-- The RUN that is executed: a receiver's until its frame is admitted, a transmitter's until every listener has finished
  (R252-R254). -/
  run : Option Window
  /-- The window whose frame was admitted and is not over, and the windows that wait for their accumulation, oldest first (R252,
  R254). -/
  busy : Option Window
  closed : List Window
  /-- The program's end, which waits for the accumulation of the windows before it (R261). -/
  ending : Option Result
  /-- A transmitter's frames that are sent and not finished by every listener, oldest first (R247, R253). -/
  unfreed : List Unfreed
  /-- The discarded frame was a rerun: only alarmed tiles take the next one (R264, R266). -/
  again : Bool
  /-- Registration of the tile: the bus selector (R240). -/
  sel : Option Nat
  join : Option Join
  /-- A deregistration that takes effect at the next frame boundary, and the futures of STRM.DEREG (R240). -/
  leaving : Bool
  leaves : List (ITag × Ctx)
  /-- Numbers of the import frames that arrived before a RUN met them, each with whether its drift raised the skew alarm (R267,
  R397). -/
  late : List (BitVec 32 × Bool)
  /-- The word of a DRAIN under way, its row, the rows that the program's earlier drains logged, and those that this one has
  logged (R270, R371). -/
  word : Nat
  row : Nat
  logged : List (Nat × Nat)
  logging : List (Nat × Nat)
  /-- The pack in whose pool its phaser of the local window lies, and the core in that pack (R364). -/
  barAt : Option (Nat × Nat)
  /-- A DRAIN has failed with a code, an address and a reason, and its FAULT setting is still to be made (R271). -/
  drainErr : Option (Nat × Word × Nat)
  /-- It waits for room in the trail and is counted in STALLS (R375). -/
  stalled : Bool
  /-- It stops at the next frame boundary for a save or a kill, or holds there for a HALT (R356, R363, R379). -/
  stop : Bool
  halt : Bool
  /-- It has reached that boundary. -/
  rests : Bool
  /-- It waits on a held page (R335). -/
  hold : Option Hold
  deriving DecidableEq, Repr

/-- A pack that is resident or out (R325, R358). -/
structure Pack where
  key : Nat
  cluster : Nat
  cores : List Nat
  tiles : List Nat
  buses : List Nat
  /-- Its kennel, as a unit of the arena, when it is out. -/
  out : Option Nat
  /-- The kennel reserved for it from its choice as a victim on, and its units (R357, R358). -/
  kennel : Option Nat
  units : Nat
  /-- While it is out: the ranks that have ended by EXIT, its sequencers' commands, and whether R311 or R366 binds it to the
  places that it left. -/
  gone : List Nat
  /-- Ranks that a REWIND left unpositioned while the pack is out (R380). -/
  astray : List Nat
  /-- Its threads' accesses that were not acknowledged at its save, by rank (R69, R73). -/
  unacked : List (Nat × List Fate)
  saved : List (Nat × Seqr)
  fixed : Bool
  /-- NOW that its kennel header holds (R365). -/
  savedAt : Nat
  /-- Order of dispatch: the most recent is the largest (R327). -/
  order : Nat
  /-- It waits for a save (R363) or for the end of a kill (R356). -/
  saving : Bool
  killing : Bool
  deriving DecidableEq, Repr

/-- A broadcast bus 0-3, or an import port 4-7 (R243, R251, R265, R396). -/
structure Bus where
  frame : BitVec 32
  /-- The frame in flight: admitted and not yet at its boundary. -/
  flight : Option Frame
  comb : Nat
  lost : Bool
  /-- OPTREQ = 0 has taken effect (R423). -/
  off : Bool
  /-- Its comb has failed since the last boundary; true when comb 4 serves it from there on (R265). -/
  fails : Option Bool
  deriving DecidableEq, Repr

/-- What an export port sends: the gap's source, number and stamp of NOW, and the frame that its light carries, if any (R251,
R396, R397). -/
structure Export where
  module : Nat
  bus : Nat
  number : BitVec 32
  stamp : Nat
  frame : Option Frame
  deriving DecidableEq, Repr

/-- The beacon that a port sends at the beginning of a slot (R394, R401). -/
structure Beacon where
  module : Nat
  port : Nat
  epoch : Nat
  now : Nat
  deriving DecidableEq, Repr

/-- One drop ring of a receiver column (R403, R409). -/
structure Heater where
  dead : Bool
  lock : Bool
  sat : Bool
  drop : Bool
  chan : Nat
  err : Int
  hc : Nat
  deriving DecidableEq, Repr

/-- An accepted invalidation (R340): its address space, all of them where none, and the virtual addresses [lo, hi). -/
structure Inval where
  asid : Option (BitVec 16)
  lo : Nat
  hi : Nat
  deriving DecidableEq, Repr

/-- A firmware image in a slot of the flash, and what the boot ROM finds there (R388, R389). -/
structure FwImage where
  bytes : List Byte
  verifies : Bool
  version : BitVec 32
  deriving DecidableEq, Repr

/-- The values of the timetable's active bank (R392). -/
structure Timetable where
  epoch : Nat
  slotNs : Nat
  nslot : Nat
  start : Nat
  deriving DecidableEq, Repr

/-- A move of a channel to another ring that settles (R405); `retire` when a RETIRE asked for it (R410). -/
structure Move where
  tile : Nat
  col : Nat
  old : Nat
  new : Nat
  chan : Nat
  hs : Int
  since : Nat
  retire : Bool
  deriving DecidableEq, Repr

/-- A REPLAY under way (R382): the thread, none until its pack is back; the instructions left; NOW since which the step
waits; whether an instruction was issued that has not finished, and whether a trap was taken. -/
structure Replay where
  rcb : Nat
  gtid : Option Nat
  pack : Nat
  rank : Nat
  left : Nat
  since : Nat
  issued : Bool
  trapped : Bool
  deriving DecidableEq, Repr

/-- What a CXL.mem access of the host, or an access from another module, is answered with (R71, R384, R415). -/
inductive Answer where
  | data (bs : List Byte)
  | poison (code : Nat)
  | done
  deriving DecidableEq, Repr

/-- An answer of the primary mailbox (R389). -/
inductive MboxReply where
  | success (body : List Byte)
  | unsupported
  deriving DecidableEq, Repr

/-- An answer of the SPDM responder (spec/22, Attestation). -/
inductive SpdmReply where
  | version
  | capabilities (body : List Byte)
  | algorithms
  | digests (slot0 : BitVec 256)
  | certificate (chain : List Byte)
  | challengeAuth (cert : BitVec 256) (nonce : Nat) (signature : BitVec 512)
  | measurements (blocks : List (Nat × BitVec 256)) (nonce : Nat) (signature : BitVec 512)
  | error (code : Nat)
  deriving DecidableEq, Repr

/-- Which agent moves next: the model's own order of the turns (DESIGN CHOICE, notes/assumptions/1.md). -/
inductive Turn where
  | thread (gtid : Nat)
  | stream (q : Nat)
  | event (e : Event)
  | clock (units : Nat)
  /-- The host reads a register of control space through BAR0 (R386). -/
  | hostRead (off : Nat) (wide : Bool)
  /-- The host writes its own memory, or another module its own: what lies there is not this package's to write (R57). -/
  | hostWrites (pa : Nat) (bytes : List Byte)
  | peerWrites (module pa : Nat) (bytes : List Byte)
  /-- The L2 takes a copy of a line of another module's memory (R68). -/
  | takeCopy (module line : Nat)
  /-- The other modules' timetables give these links: module K reaches module M in a slot (R392, R393). -/
  | peerTables (links : List (Nat × Nat × Nat))
  deriving DecidableEq, Repr

/-- Per-core state outside the pool (R19, R49, R54, R351). -/
structure Core where
  pack : Option Nat
  pb0 : Nat
  pb1 : Nat
  pb2 : Nat
  cpldrop : BitVec 48
  cplstale : BitVec 48
  frlost : BitVec 48
  rotCtl : Nat
  rotVec : Nat
  deriving DecidableEq, Repr

/-- The machine (one package). Fields from agenda to freeCtr belong to the model alone. -/
structure State where
  agenda : List Turn
  /-- The thread, the stream sequencer or the event whose turn it is. -/
  cur : Nat
  curq : Nat
  ev : Option Event
  /-- What the default choice serves next: a core and issue slot, or, at 2,048, another agent; plus 4,096 for each round (DESIGN
  CHOICE, notes/assumptions/1.md). -/
  coreTurn : Nat
  /-- The wait on a held page that the instruction whose turn it is was in. -/
  prior : Option Hold
  ir0 : BitVec 32
  ir1 : BitVec 32
  stuck : Option Fault
  freeCtr : Nat
  now : BitVec 64
  mem : List Host.Cell
  pool : List Host.Cell
  hostMem : List Host.Cell
  remoteMem : List Host.Cell
  /-- Copies of other modules' lines (R68). -/
  fabCopies : List FabCopy
  lines : Table (Nat × Nat)
  ltime : Nat
  /-- The last step would have taken a timestamp past the limit: a rebase comes first (R66). -/
  rebaseDue : Bool
  marks : List Mark
  tlb : List TlbEntry
  /-- Phasers that hold a registration (R282), and the packs whose threads hold one with each. -/
  phasers : List Place
  phOwners : List (Place × Nat)
  phWaits : List PhWait
  linkUp : Bool
  /-- Ports that are lost, and (port, slot) pairs whose beacon of this epoch has matched, and in quarantine (R394, R399). -/
  lostPorts : List Nat
  portSeen : List (Nat × Nat)
  portQuar : List (Nat × Nat)
  /-- NOW from which the claim of a spare port acts (R399). -/
  claimFrom : Table Nat
  /-- (K, slot, M): module K has that slot to module M, as the other modules' timetables say (R393). -/
  peerLinks : List (Nat × Nat × Nat)
  /-- The beacon that each port has sent last, by port (R394). -/
  beacons : Table Beacon
  /-- Notices and, where true, requests for other modules that wait for the beacon of a slot (R292, R393, R394). -/
  outNotices : List (Nat × Bool × NoticePkt)
  /-- What each export port sends (R396). -/
  exports : Table Export
  launches : List Launch
  packs : List Pack
  queues : Table Queue
  /-- The source served last (R326). -/
  served : Option Source
  childReqs : List ChildReq
  /-- Region kills that are not complete, each with the launches it applies to, and those whose KILLADDR lies on a held page
  (R335, R355). -/
  kills : List (List Nat)
  killWaits : List (BitVec 16 × Word × Hold)
  /-- Phasers whose flip waits for room in a trail (R375). -/
  flips : List HeldFlip
  regions : List Region
  trails : List TrailUse
  /-- The thread that wrote each checkpoint: trail owner, window, pack and rank (R374). -/
  ckpts : List (Nat × Nat × Nat × Nat)
  /-- Ended packs that a REWIND to a checkpoint gives back, to be dispatched with its thread in the checkpoint's state (R374). -/
  revived : List Revival
  copies : List Copy
  rings : Table Ring
  ringWaits : List RingWait
  semWaits : List SemWait
  held : List Held
  probes : List Probe
  requests : List Request
  seqrs : Table Seqr
  seqCaches : Table SeqCache
  /-- Handles, by 16 times the die plus the handle (R236), and what their walkers have under way. -/
  colls : Table Armed
  arming : List Arming
  disarming : List Disarming
  /-- GROUPs in quarantine, each with the NOW at which it ends (R236). -/
  quarantine : List (Nat × Nat)
  /-- Run numbers of the release notices that have arrived, by GROUP, GEN, module and die (R292). -/
  notices : List NoticePkt
  applied : List Applied
  sent : List Sent
  collBars : List CollBar
  /-- Packets from this package to itself that have not arrived. -/
  ownXfers : List XferPkt
  ownNotices : List NoticePkt
  ownRequests : List NoticePkt
  /-- Transfers that arrived before an earlier one of their sender was applied (R293). -/
  early : List XferPkt
  accs : Table (BitVec 32)
  /-- The window that a tile's check path has captured (R413). -/
  shadows : Table Window
  buses : Table Bus
  /-- Comb lines that are low, each with the NOW since which, and lines that failed for good (R400, R412). -/
  lowLines : List (Nat × Nat × Nat)
  deadLines : List (Nat × Nat)
  /-- The arrival delay of each import port in symbols, as last observed (R397). -/
  arrivals : Table Nat
  /-- Invalidations that are not complete, oldest first (R340). -/
  invs : List Inval
  /-- The flash's slots, the one that runs, and whether Activate FW has been asked for since the reset (R388, R389). -/
  flash : List FwImage
  fwRun : Option Nat
  fwAsked : Bool
  /-- Measurements 1 and 2. -/
  meas1 : BitVec 256
  meas2 : BitVec 256
  /-- The last answers of the primary mailbox and of the SPDM responder, and whether a requester was turned away. -/
  mbox : Option MboxReply
  spdm : Option SpdmReply
  spdmShut : Bool
  /-- The answer to the last access of the host or of another module. -/
  answer : Option Answer
  /-- Messages written for each vector, and the vectors that wait for the link (R385, R387). -/
  msix : Table Nat
  msixWait : List Nat
  /-- The active bank's values, and whether START was written since it was last reached (R392). -/
  tt : Timetable
  ttDue : Bool
  /-- What slewing has still to add to NOW (R401). -/
  slew : Int
  /-- The heaters have been locked since reset (R388), and have been off since, with their rings not tracked again (R423); since
  when skew calibration runs; tiles that a ring without a candidate keeps uncalibrated (R406, R407). -/
  warmed : Bool
  unlocked : Bool
  skewSince : Option Nat
  uncal : List Nat
  moves : List Move
  /-- The region of a HALT that is not complete, and a REPLAY under way (R379, R382). -/
  halting : Option Nat
  replay : Option Replay
  nextTicket : Nat
  nextRequest : Nat
  nextLaunch : Nat
  nextOrder : Nat
  /-- Regions under ATTACH, and those below one of them that a DETACH has let go; regions that a HALT has stopped, and regions
  below one of those that a RESUME has let go on (R378, R379). -/
  attached : List Nat
  detached : List Nat
  halted : List Nat
  resumed : List Nat
  /-- The chain of each region that a debug command has named, as it was read then (R378). -/
  named : List (Nat × List Nat)
  /-- A debug command that waits on a held page, with the address space that it waits in (R335). -/
  dbgWait : Option (Event × BitVec 16 × Hold)
  watches : List Watch
  threads : Table Thread
  cores : Table Core
  binds : List Bind
  epochs : Table Nat
  flying : List Flight
  ctl : Table (BitVec 64)
  heaters : Table Heater
  window : List Byte
  config : SignedConfig
  deriving DecidableEq, Repr

/-- The configuration record before one has been verified: module 0 alone in its domain, spares at their default ports
(R391; DESIGN CHOICE, notes/assumptions/6.md). -/
def defaultConfig : SignedConfig :=
  { moduleId := 0, domain := [0], spareA := 16, spareB := 17, portDom := [], combDom := [], fr := [] }

/-- The machine right after reset: boot stage ROM, no launch, no thread; registers of control space at the reset column of their
tables (Machine/Ctl.lean). Values that the spec does not give are those of notes/assumptions/, each with its mark there. -/
def State.reset : State where
  agenda := []
  cur := 0
  curq := 0
  ev := none
  coreTurn := 0
  prior := none
  ir0 := 0
  ir1 := 0
  stuck := none
  freeCtr := 0
  now := 0
  mem := []
  pool := []
  hostMem := []
  remoteMem := []
  fabCopies := []
  lines := []
  ltime := 0
  rebaseDue := false
  marks := []
  tlb := []
  phasers := []
  phOwners := []
  phWaits := []
  linkUp := true
  lostPorts := []
  portSeen := []
  portQuar := []
  claimFrom := []
  peerLinks := []
  beacons := []
  outNotices := []
  exports := []
  launches := []
  packs := []
  queues := []
  served := none
  childReqs := []
  kills := []
  killWaits := []
  flips := []
  revived := []
  regions := []
  trails := []
  ckpts := []
  copies := []
  rings := []
  ringWaits := []
  semWaits := []
  held := []
  probes := []
  requests := []
  seqrs := []
  seqCaches := []
  colls := []
  arming := []
  disarming := []
  quarantine := []
  notices := []
  applied := []
  sent := []
  collBars := []
  ownXfers := []
  ownNotices := []
  ownRequests := []
  early := []
  accs := []
  shadows := []
  buses := []
  lowLines := []
  deadLines := []
  arrivals := []
  invs := []
  flash := [{ bytes := [], verifies := true, version := 0 }, { bytes := [], verifies := false, version := 0 }]
  fwRun := none
  fwAsked := false
  meas1 := 0
  meas2 := 0
  mbox := none
  spdm := none
  spdmShut := false
  answer := none
  msix := []
  msixWait := []
  tt := { epoch := 0, slotNs := 0, nslot := 0, start := 0 }
  ttDue := false
  slew := 0
  warmed := false
  unlocked := false
  skewSince := none
  uncal := []
  moves := []
  halting := none
  replay := none
  nextTicket := 0
  nextRequest := 0
  nextLaunch := 1
  nextOrder := 0
  attached := []
  detached := []
  halted := []
  resumed := []
  named := []
  dbgWait := none
  watches := []
  threads := []
  cores := []
  binds := []
  epochs := []
  flying := []
  ctl := []
  heaters := []
  window := []
  config := defaultConfig

end Sys2Proof.Machine
end

