-- ==== Sys2Proof/Machine/Regs.lean ====
section
/-! DEFINITION. Threads, cores and registers: every read and write of a register goes through here, with the constant
registers s0, p0 and p1 (spec/01 R10-R12, spec/02 R28). -/

namespace Sys2Proof.Machine

/-- A thread slot that holds no thread (R25). The registers hold the values of R13. -/
def idleThread : Thread where
  status := .idle
  woke := false
  parkedAt := 0
  waitsOn := []
  waitsEntry := false
  yielded := false
  pc := 0
  st := Vector.replicate 144 .full
  s := Vector.replicate 64 0
  v := Vector.replicate 64 0
  p := (Vector.replicate 16 0).set 0 (BitVec.allOnes 64)
  fprm := 0
  fpflags := 0
  seqdesc := 0
  seqmode := 0
  seqkey := 0
  frbase := 0
  utvec := 0
  trapidx := 0xFFFF
  packinfo := 0
  launchid := 0
  rcbaddr := 0
  dclass := false
  asid := 0
  count := 0
  deadlink := 0
  refused := 0
  nlaunch := 0
  regs := []
  pack := 0
  rank := 0
  positioned := true
  halted := false
  unacked := []
  hold := none
  delivering := 0
  stalled := false

/-- A core that holds no pack. -/
def idleCore : Core where
  pack := none
  pb0 := 0
  pb1 := 0
  pb2 := 0
  cpldrop := 0
  cplstale := 0
  frlost := 0
  rotCtl := 0
  rotVec := 0

/-- The thread with global thread id g. -/
def State.thread (s : State) (g : Nat) : Thread := tget idleThread s.threads g

/-- Replaces thread g. -/
def State.setThread (s : State) (g : Nat) (t : Thread) : State := { s with threads := tset s.threads g t }

/-- The thread whose turn it is. -/
def State.thr (s : State) : Thread := s.thread s.cur

/-- Replaces the thread whose turn it is. -/
def State.setThr (s : State) (t : Thread) : State := s.setThread s.cur t

/-- Applies f to the thread whose turn it is. -/
def State.onThr (s : State) (f : Thread → Thread) : State := s.setThr (f s.thr)

/-- Core c of the package, 0-1,023. -/
def State.core (s : State) (c : Nat) : Core := tget idleCore s.cores c

/-- Replaces core c. -/
def State.setCore (s : State) (c : Nat) (k : Core) : State := { s with cores := tset s.cores c k }

/-- The core of a global thread id (R9). -/
def coreOf (gtid : Nat) : Nat := gtid / 8

/-- The cluster of a core (R8). -/
def clusterOf (core : Nat) : Nat := core / 128

/-- The die of a core (R8). -/
def dieOf (core : Nat) : Nat := core / 256

/-- Register numbers of R353: s 0-63, v 64-127, p 128-143. -/
def rs (r : Reg6) : Nat := r.toNat
/-- The register number of a vector register. -/
def rv (r : Reg6) : Nat := 64 + r.toNat
/-- The register number of a predicate register. -/
def rp (r : PReg) : Nat := 128 + r.toNat

/-- The constant registers s0, p0 and p1 (R11). -/
def isConst (i : Nat) : Bool := i == 0 || i == 128 || i == 129

/-- The state of register i; the constant registers are always full (R11). -/
def Thread.rstate (t : Thread) (i : Nat) : RegState :=
  if isConst i then .full else if h : i < 144 then t.st[i] else .full

/-- Sets the state of register i; a constant register never changes. -/
def Thread.setState (t : Thread) (i : Nat) (r : RegState) : Thread :=
  if isConst i then t else { t with st := t.st.setIfInBounds i r }

/-- The value of s[r]; s0 reads zero (R10). -/
def Thread.sreg (t : Thread) (r : Reg6) : Word := if r = 0 then 0 else t.s[r.toNat]'r.isLt

/-- The value of v[r]. -/
def Thread.vreg (t : Thread) (r : Reg6) : Vec := t.v[r.toNat]'r.isLt

/-- The value of p[r]; p0 reads all ones and p1 zero (R10). -/
def Thread.preg (t : Thread) (r : PReg) : Word :=
  if r = 0 then BitVec.allOnes 64 else if r = 1 then 0 else t.p[r.toNat]'r.isLt

/-- Writes s[r] full; a write to s0 is discarded (R11, R38). -/
def Thread.setS (t : Thread) (r : Reg6) (x : Word) : Thread :=
  if r = 0 then t else { t with s := t.s.set r.toNat x r.isLt, st := t.st.setIfInBounds (rs r) .full }

/-- Writes v[r] full (R38). -/
def Thread.setV (t : Thread) (r : Reg6) (x : Vec) : Thread :=
  { t with v := t.v.set r.toNat x r.isLt, st := t.st.setIfInBounds (rv r) .full }

/-- Writes p[r] full; a write to p0 or p1 is discarded (R11, R38). -/
def Thread.setP (t : Thread) (r : PReg) (x : Word) : Thread :=
  if r = 0 ∨ r = 1 then t else { t with p := t.p.set r.toNat x r.isLt, st := t.st.setIfInBounds (rp r) .full }

/-- The value of register number i as a whole vector's bits. -/
def Thread.value (t : Thread) (i : Nat) : Vec :=
  if i < 64 then (t.sreg (BitVec.ofNat 6 i)).setWidth 2048
  else if i < 128 then t.vreg (BitVec.ofNat 6 (i - 64))
  else (t.preg (BitVec.ofNat 4 (i - 128))).setWidth 2048

/-- Writes register number i full with the low bits of x. -/
def Thread.setValue (t : Thread) (i : Nat) (x : Vec) : Thread :=
  if i < 64 then t.setS (BitVec.ofNat 6 i) (x.setWidth 64)
  else if i < 128 then t.setV (BitVec.ofNat 6 (i - 64)) x
  else t.setP (BitVec.ofNat 4 (i - 128)) (x.setWidth 64)

/-- The old value of vector register i with the bytes of mask replaced by those of x (R39). -/
def mergeBytes (mask : BitVec 256) (old x : Vec) : Vec :=
  let m : Vec := (List.range 256).foldl
    (fun a k => if mask.getLsbD k then a ||| (BitVec.ofNat 2048 (255 * 2 ^ (8 * k))) else a) 0
  (x &&& m) ||| (old &&& ~~~m)

/-- A poison value: record index and code (R28). -/
def poisonValue (idx code : Nat) : BitVec 32 := BitVec.ofNat 32 (idx % 65536 * 65536 + code % 65536)

/-- The pc moved past an instruction of n bytes. -/
def Thread.advance (t : Thread) (n : Nat) : Thread := { t with pc := t.pc + BitVec.ofNat 64 n }

/-- The current thread's pc moved past an instruction of n bytes. -/
def State.advance (s : State) (n : Nat) : State := s.onThr (·.advance n)

/-- A write of the non-reserved fields of a control register (R150, R102, R349). -/
def Thread.cwrite (t : Thread) (x : Nat) (v : Word) : Thread :=
  match x with
  | 0x00 => { t with fprm := v.setWidth 3 }
  | 0x01 => { t with fpflags := v.setWidth 5 }
  | 0x28 => { t with seqdesc := v &&& 0x000FFFFFFFFFFF80 }
  | 0x29 => { t with seqmode := v &&& 0x0000FFFF00000003 }
  | 0x2A => { t with seqkey := v }
  | 0x30 => { t with frbase := v &&& 0x000FFFFFFFFFFFC0 }
  | 0x38 => { t with utvec := v &&& 0x000FFFFFFFFFFFFC }
  | _ => t

end Sys2Proof.Machine
end

