-- ==== Sys2Proof/Machine/Ctl.lean ====
section
/-! DEFINITION. Control space (spec/22 R386): every register with its fields and access codes (spec/00 R4), reads, and
writes. A write that starts an action puts the event of the table that performs it at the head of the agenda. -/

namespace Sys2Proof.Machine

/-- Access codes (R4). -/
inductive Access where | ro | rw | wo | w1c
  deriving DecidableEq, Repr

/-- A field [hi:lo] of a register. -/
structure CtlField where
  hi : Nat
  lo : Nat
  acc : Access
  deriving DecidableEq, Repr

/-- The fields of the register at an offset from SHBASE, an offset divisible by 8; reserved fields are not listed.
None where no block defines the offset. -/
def ctlFields (off : Nat) : Option (List CtlField) :=
  if off = 0x10 then some [⟨63, 32, .ro⟩, ⟨15, 8, .ro⟩, ⟨7, 0, .ro⟩]
  else if off = 0x20 then some [⟨33, 32, .ro⟩, ⟨0, 0, .rw⟩]
  else if 0x1000 ≤ off ∧ off < 0x2000 then
    match off % 0x40 with
    | 0x00 => some [⟨47, 12, .rw⟩]
    | 0x08 => some [⟨63, 48, .rw⟩, ⟨7, 4, .rw⟩, ⟨0, 0, .rw⟩]
    | 0x10 => some [⟨51, 8, .rw⟩]
    | 0x18 => some [⟨31, 0, .ro⟩]
    | 0x20 => some [⟨31, 0, .rw⟩]
    | 0x28 => some [⟨63, 32, .ro⟩, ⟨31, 16, .ro⟩, ⟨7, 0, .ro⟩]
    | _ => none
  else if off = 0x2000 ∨ off = 0x2008 then some [⟨47, 12, .rw⟩]
  else if off = 0x2010 then some [⟨63, 32, .rw⟩, ⟨7, 4, .rw⟩, ⟨0, 0, .rw⟩]
  else if off = 0x2018 then some [⟨31, 0, .ro⟩]
  else if off = 0x2020 then some [⟨31, 0, .rw⟩]
  else if off = 0x2028 then some [⟨63, 32, .wo⟩, ⟨0, 0, .wo⟩]
  else if off = 0x2030 then some [⟨51, 16, .rw⟩]
  else if off = 0x2038 then some [⟨63, 48, .wo⟩, ⟨39, 8, .wo⟩, ⟨1, 0, .wo⟩]
  else if off = 0x2040 then some [⟨63, 32, .ro⟩, ⟨1, 1, .w1c⟩, ⟨0, 0, .w1c⟩]
  else if off = 0x2048 then some [⟨31, 0, .ro⟩]
  else if off = 0x2050 then some [⟨47, 3, .rw⟩, ⟨0, 0, .rw⟩]
  else if off = 0x3000 then some [⟨47, 21, .rw⟩]
  else if off = 0x3008 then some [⟨31, 0, .rw⟩]
  else if off = 0x3010 then some [⟨31, 0, .ro⟩]
  else if off = 0x3018 then some [⟨63, 32, .ro⟩, ⟨31, 0, .ro⟩]
  else if off = 0x3020 then some [⟨51, 8, .rw⟩]
  else if off = 0x3028 then some [⟨63, 48, .wo⟩, ⟨0, 0, .wo⟩]
  else if off = 0x3030 then some [⟨63, 32, .ro⟩, ⟨31, 0, .ro⟩]
  else if off = 0x4000 then
    some [⟨5, 5, .w1c⟩, ⟨4, 4, .w1c⟩, ⟨3, 3, .w1c⟩, ⟨2, 2, .w1c⟩, ⟨1, 1, .w1c⟩, ⟨0, 0, .w1c⟩]
  else if off = 0x4008 then some [⟨5, 0, .rw⟩]
  else if off = 0x5000 then some [⟨51, 8, .rw⟩]
  else if off = 0x5008 ∨ off = 0x5010 then some [⟨63, 0, .rw⟩]
  else if off = 0x5018 then some [⟨63, 48, .wo⟩, ⟨8, 8, .wo⟩, ⟨7, 0, .wo⟩]
  else if off = 0x5020 then some [⟨63, 32, .ro⟩, ⟨15, 8, .ro⟩, ⟨1, 1, .ro⟩, ⟨0, 0, .ro⟩]
  else if off = 0x5028 then some [⟨47, 0, .ro⟩]
  else if off = 0x5030 then some [⟨51, 0, .ro⟩]
  else if off = 0x6000 then some [⟨63, 56, .rw⟩, ⟨55, 48, .rw⟩, ⟨15, 0, .rw⟩]
  else if off = 0x6008 then some [⟨1, 1, .ro⟩, ⟨0, 0, .ro⟩]
  else if 0x8000 ≤ off ∧ off < 0x8800 then
    match off % 0x40 with
    | 0x00 => some [⟨63, 48, .ro⟩, ⟨47, 32, .ro⟩, ⟨31, 16, .ro⟩, ⟨1, 1, .ro⟩, ⟨0, 0, .ro⟩]
    | 0x08 => some [⟨47, 32, .ro⟩, ⟨31, 16, .rw⟩, ⟨15, 0, .ro⟩]
    | 0x10 => some [⟨63, 32, .ro⟩, ⟨31, 0, .ro⟩]
    | 0x18 => some [⟨4, 0, .rw⟩]
    | _ => some []
  else if off = 0x8800 then some [⟨4, 0, .rw⟩]
  else if off = 0x8808 then some [⟨31, 24, .wo⟩, ⟨14, 8, .wo⟩, ⟨6, 0, .wo⟩]
  else if off = 0x8810 then some [⟨1, 1, .w1c⟩, ⟨0, 0, .ro⟩]
  else if 0x8880 ≤ off ∧ off < 0x88A8 then some [⟨63, 0, .ro⟩]
  else if 0x88A8 ≤ off ∧ off < 0x88D0 then some [⟨63, 32, .ro⟩, ⟨1, 0, .ro⟩]
  else if off = 0x8900 then some [⟨47, 5, .rw⟩]
  else if off = 0x8908 then some [⟨7, 4, .rw⟩, ⟨0, 0, .rw⟩]
  else if off = 0x8910 then some [⟨63, 32, .ro⟩, ⟨31, 0, .ro⟩]
  else if off = 0x8918 then some [⟨31, 0, .rw⟩]
  else if 0x8A00 ≤ off ∧ off < 0x8A48 then some [⟨63, 0, .rw⟩]
  else if off = 0x9000 then some [⟨47, 32, .ro⟩, ⟨3, 0, .ro⟩]
  else if off = 0x9008 then some [⟨63, 32, .rw⟩, ⟨31, 16, .rw⟩, ⟨8, 8, .ro⟩, ⟨6, 0, .rw⟩]
  else if off = 0x9010 then some [⟨63, 0, .rw⟩]
  else if off = 0x9020 then some [⟨63, 62, .ro⟩, ⟨31, 0, .ro⟩]
  else if off = 0x9028 then some [⟨8, 8, .rw⟩, ⟨7, 0, .rw⟩]
  else if off = 0x9040 ∨ off = 0x9048 ∨ off = 0x9050 then
    some [⟨63, 63, .rw⟩, ⟨62, 62, .rw⟩, ⟨61, 61, .ro⟩, ⟨60, 60, .w1c⟩, ⟨23, 16, .ro⟩, ⟨15, 8, .ro⟩, ⟨7, 0, .rw⟩]
  else if 0x9080 ≤ off ∧ off < 0x90A0 then some [⟨63, 63, .rw⟩]
  else if 0x90A0 ≤ off ∧ off < 0x90C0 then
    some [⟨63, 63, .rw⟩, ⟨62, 62, .ro⟩, ⟨49, 48, .rw⟩, ⟨47, 32, .rw⟩, ⟨27, 16, .ro⟩, ⟨11, 0, .ro⟩]
  else if 0x9100 ≤ off ∧ off < 0x9900 then some [⟨63, 63, .rw⟩, ⟨47, 32, .rw⟩]
  else if 0xA000 ≤ off ∧ off < 0xE000 then
    if off % 0x80 < 72 then
      some [⟨63, 63, .rw⟩, ⟨52, 48, .rw⟩, ⟨47, 32, .rw⟩, ⟨31, 31, .rw⟩, ⟨20, 16, .rw⟩, ⟨15, 0, .rw⟩]
    else none
  else if 0xE000 ≤ off ∧ off < 0xE000 + 0x220 * 128 then some [⟨63, 0, .ro⟩]
  else if 0x100000 ≤ off ∧ off < 0x110000 then some [⟨63, 0, .ro⟩]
  else none

/-- The reset value of a register: the reset column of its table, zero where the column is zero. -/
def ctlReset (off : Nat) : BitVec 64 :=
  if off = 0x10 then 0x01
  else if off = 0x20 then 1
  else if off = 0x2010 then BitVec.ofNat 64 (100000 * 2 ^ 32)
  else if off = 0x4008 then 0x3F
  else if 0x8000 ≤ off ∧ off < 0x8800 ∧ off % 0x40 = 0x08 then 0xFFFF0000
  else if 0x8000 ≤ off ∧ off < 0x8800 ∧ off % 0x40 = 0x18 then 10
  else if off = 0x9000 then 1
  else if off = 0x9040 then BitVec.ofNat 64 (16 * 2 ^ 16)
  else if off = 0x9048 then BitVec.ofNat 64 (17 * 2 ^ 16)
  else if off = 0x9050 then BitVec.ofNat 64 (4 * 2 ^ 16)
  else 0

/-- The stored value of a register. -/
def State.creg (s : State) (off : Nat) : BitVec 64 := tget (ctlReset off) s.ctl off

/-- Stores a register. -/
def State.setCreg (s : State) (off : Nat) (v : BitVec 64) : State := { s with ctl := tset s.ctl off v }

/-- A field of a register. -/
def State.cfield (s : State) (off hi lo : Nat) : Nat := bits (s.creg off) hi lo

/-- Stores a field of a register. -/
def State.setCfield (s : State) (off hi lo v : Nat) : State := s.setCreg off (putBits (s.creg off) hi lo v)

/-- The key of ring r of column j of a tile. -/
def heaterKey (tile col ring : Nat) : Nat := (tile * 128 + col) * 68 + ring

/-- The heater of a ring before it is ever driven. -/
def coldHeater : Heater :=
  { dead := false, lock := false, sat := false, drop := false, chan := 0, err := 0, hc := 0 }


/-- Replaces a ring. -/
def State.setHeater (s : State) (tile col ring : Nat) (h : Heater) : State :=
  { s with heaters := tset s.heaters (heaterKey tile col ring) h }

/-- The free offset of a ring: the signed configuration record gives it (R403). -/
def State.freeOffset (s : State) (tile col ring : Nat) : Int := tget 0 s.config.fr (heaterKey tile col ring)

/-- A ring as the boot stage OPTIC leaves it: a regular ring locked on its anchor channel, at a drift of zero (R388, R403). -/
def lockedHeater (fr : Int) (ring : Nat) : Heater :=
  if ring < 64 then
    let hc : Int := max 0 (min 4095 fr)
    { dead := false, lock := decide ((fr - hc).natAbs ≤ 4), sat := decide (fr < 192 ∨ 3903 < fr), drop := true, chan := ring,
      err := fr - hc, hc := hc.toNat }
  else coldHeater

/-- A ring of a tile that the tracker has not adjusted since the heaters came on (R423). -/
def State.firstHeater (s : State) (tile col ring : Nat) : Heater :=
  if s.warmed then
    let h := lockedHeater (s.freeOffset tile col ring) ring
    { h with lock := h.lock && !s.unlocked }
  else coldHeater

/-- A ring of a tile. -/
def State.heater (s : State) (tile col ring : Nat) : Heater :=
  tget (s.firstHeater tile col ring) s.heaters (heaterKey tile col ring)

/-- The heaters go off: no ring is locked until it is tracked again (R422, R423). -/
def State.heatersOff (s : State) : State :=
  { s with unlocked := true, heaters := s.heaters.map fun x => (x.1, { x.2 with lock := false }) }

/-- The tracker has not serviced a ring since the heaters were locked. -/
def State.unserviced (s : State) (tile col ring : Nat) : Bool := !s.heaters.any fun x => x.1 == heaterKey tile col ring

/-- HRING of a ring (R409). -/
def State.hring (s : State) (tile col ring : Nat) : BitVec 64 :=
  let h := s.heater tile col ring
  BitVec.ofNat 64 ((s.freeOffset tile col ring % 4096).toNat * 2 ^ 40 + boolNat h.dead * 2 ^ 35
    + boolNat h.lock * 2 ^ 34 + boolNat h.sat * 2 ^ 33 + boolNat h.drop * 2 ^ 32 + (if h.drop then h.chan else 0) * 2 ^ 24
    + ((max (-2047) (min 2047 h.err)) % 4096).toNat * 2 ^ 12 + h.hc % 4096)

/-- What a read of a register returns; WO fields read zero (R4). -/
def State.ctlRead (s : State) (off : Nat) : BitVec 64 :=
  if 0xE000 ≤ off ∧ off < 0xE000 + 0x220 * 128 then
    let r := (off - 0xE000) % 0x220 / 8
    s.hring (s.cfield 0x8800 4 0) ((off - 0xE000) / 0x220) r
  else if 0x100000 ≤ off ∧ off < 0x110000 then BitVec.ofNat 64 (fieldAt s.window (off - 0x100000) 8)
  else s.creg off

/-- A read of n = 4 or 8 bytes at an offset; none where it is refused (R191). -/
def State.ctlLoad (s : State) (off n : Nat) : Option Nat :=
  if n = 8 ∧ off % 8 = 0 then (ctlFields off).map fun _ => (s.ctlRead off).toNat
  else if n = 4 ∧ off % 4 = 0 then
    (ctlFields (off - off % 8)).map fun _ => nbits (s.ctlRead (off - off % 8)).toNat (8 * (off % 8) + 31) (8 * (off % 8))
  else none

/-- Whether field f lies wholly within the written half (none: the whole register). -/
def inHalf (half : Option Bool) (f : CtlField) : Bool :=
  match half with
  | none => true
  | some false => f.hi < 32
  | some true => 32 ≤ f.lo

/-- A plain write: RW fields take the written bits and W1C bits written 1 are cleared; every other bit is kept (R4,
R191). -/
def plainWrite (fields : List CtlField) (half : Option Bool) (old v : BitVec 64) : BitVec 64 :=
  fields.foldl (fun a f =>
    if inHalf half f then
      match f.acc with
      | .rw => putBits a f.hi f.lo (bits v f.hi f.lo)
      | .w1c => if bits v f.hi f.lo = 0 then a else putBits a f.hi f.lo 0
      | _ => a
    else a) old

/-- Registers whose write starts an action whatever value is written: they take only 64-bit stores (R191). -/
def isAction (off : Nat) : Bool :=
  (decide (0x1000 ≤ off ∧ off < 0x2000) && off % 0x40 == 0x20) || off == 0x2028 || off == 0x2038 || off == 0x3028
    || off == 0x5018 || off == 0x6000 || off == 0x8808

/-- Package counter k advances, saturating at 2^48 − 1 (R417). -/
def State.count (s : State) (k : Nat) : State :=
  s.setCreg (0x8A00 + 8 * k) (BitVec.ofNat 64 (min (2 ^ 48 - 1) ((s.creg (0x8A00 + 8 * k)).toNat + 1)))

/-- Puts an event at the head of the agenda: it happens next. -/
def State.soon (s : State) (e : Event) : State := { s with agenda := .event e :: s.agenda }

/-- The command of a DBGCMD write (R377, R378). -/
def debugEvent (cmd : Nat) (c : DbgCmd) : Option Event :=
  match cmd with
  | 1 => some (.attach c)
  | 2 => some (.detach c)
  | 3 => some (.halt c)
  | 4 => some (.resume c)
  | 5 => some (.rewind c)
  | 6 => some (.replay c)
  | 7 => some (.trim c)
  | 8 => some (.watch c)
  | _ => none

/-- A debug command ends with a result and a window, and with no obstacle (R377). -/
def State.dbgEnd (s : State) (code window : Nat) : State :=
  ((((s.setCfield 0x5020 15 8 code).setCfield 0x5020 63 32 window).setCfield 0x5020 0 0 0).setCfield 0x5028 47 0 0).setCfield
    0x5030 51 0 0

/-- A plain write of a register, with the conditions that R315 and R357 put on it and R392 on the timetable. -/
def State.ctlPlain (s : State) (off : Nat) (half : Option Bool) (v : BitVec 64) : State :=
  match ctlFields off with
  | none => s
  | some fs =>
    let blocked :=
      if 0x1000 ≤ off ∧ off < 0x2000 then
        (off % 0x40 == 0 || off % 0x40 == 0x10) && s.cfield (off - off % 0x40 + 8) 0 0 == 1
      else if off = 0x3000 ∨ off = 0x3008 then s.cfield 0x3010 31 0 != 0
      else if 0xA000 ≤ off ∧ off < 0xE000 then (off - 0xA000) / 0x2000 == s.cfield 0x9008 8 8
      else false
    if blocked then s else s.setCreg off (plainWrite fs half (s.creg off) v)

/-- A write that a register accepts. The fields whose write has an effect of its own become the event of the table. -/
def State.ctlWrite (s : State) (off : Nat) (half : Option Bool) (v : BitVec 64) : State :=
  let low := half != some true
  let high := half != some false
  if 0x1000 ≤ off ∧ off < 0x2000 ∧ off % 0x40 = 0x20 then s.soon (.doorbell ((off - 0x1000) / 0x40) (v.setWidth 32))
  else if 0x1000 ≤ off ∧ off < 0x2000 ∧ off % 0x40 = 0x08 then
    let old := s.creg off
    let w := match half with
      | none => v
      | some false => BitVec.ofNat 64 (nbits old.toNat 63 32 * 2 ^ 32 + nbits v.toNat 31 0)
      | some true => BitVec.ofNat 64 (nbits v.toNat 63 32 * 2 ^ 32 + nbits old.toNat 31 0)
    s.soon (.qctl ((off - 0x1000) / 0x40) w)
  else if off = 0x20 then
    if low then s.soon (if bits v 0 0 = 0 then .optreqClear else .optreqSet) else s
  else if off = 0x2028 then
    let id : BitVec 32 := BitVec.ofNat 32 (bits v 63 32)
    s.soon (if bits v 0 0 = 0 then .resolved id else .invalid id)
  else if off = 0x2038 then
    let asid : BitVec 16 := BitVec.ofNat 16 (bits v 63 48)
    let n : BitVec 32 := BitVec.ofNat 32 (bits v 39 8)
    match bits v 1 0 with
    | 0 => s.soon .invAll
    | 1 => s.soon (.invAsid asid)
    | 2 => s.soon (.invRange asid n)
    | _ => s.setCfield 0x2040 1 1 1
  else if off = 0x3028 then
    if bits v 0 0 = 1 then s.soon (.regionKill (BitVec.ofNat 16 (bits v 63 48)) (s.creg 0x3020)) else s
  else if off = 0x5018 then
    if s.cfield 0x5020 0 0 = 1 then s
    else
      let c : DbgCmd := { rcb := s.creg 0x5000, asid := BitVec.ofNat 16 (bits v 63 48), arg0 := s.creg 0x5008,
                          arg1 := s.creg 0x5010, force := bits v 8 8 == 1 }
      match debugEvent (bits v 7 0) c with
      | some e => s.soon e
      | none => s.dbgEnd 8 0
  else if off = 0x6000 then s.soon (.rbsel v)
  else if off = 0x8808 then s.soon (.retire v)
  else if 0x8000 ≤ off ∧ off < 0x8800 ∧ off % 0x40 = 0x08 then
    if low then s.soon (.minm ((off - 0x8000) / 0x40)) else s
  else if 0x8A00 ≤ off ∧ off < 0x8A48 then s.soon (.counterClear ((off - 0x8A00) / 8))
  else if off = 0x9040 ∨ off = 0x9048 ∨ off = 0x9050 then
    let k := (off - 0x9040) / 8
    let s1 := if high && bits v 60 60 == 1 then s.setCfield off 60 60 0 else s
    let target : BitVec 8 := BitVec.ofNat 8 (if low then bits v 7 0 else s1.cfield off 7 0)
    if !high then s1.setCfield off 7 0 target.toNat
    else
      let s2 := if bits v 63 63 = 1 then s1.soon (.commit k) else s1.setCfield off 63 63 0
      if bits v 62 62 = 1 then s2.soon (.resv k target)
      else ((s2.setCfield off 62 62 0).setCfield off 63 63 0).setCfield off 7 0 target.toNat
  else if off = 0x9010 ∧ half.isNone then { s.ctlPlain off half v with ttDue := true }
  else s.ctlPlain off half v

/-- A store of n = 4 or 8 bytes at an offset; none where it is refused (R191, R386). -/
def State.ctlStore (s : State) (off n v : Nat) : Option State :=
  if n = 8 ∧ off % 8 = 0 then
    if (ctlFields off).isSome then some (s.ctlWrite off none (BitVec.ofNat 64 v)) else none
  else if n = 4 ∧ off % 4 = 0 then
    let base := off - off % 8
    if (ctlFields base).isSome && !isAction base then
      some (if off % 8 = 0 then s.ctlWrite base (some false) (BitVec.ofNat 64 (v % 2 ^ 32))
        else s.ctlWrite base (some true) (BitVec.ofNat 64 (v % 2 ^ 32 * 2 ^ 32)))
    else none
  else none

/-- The message of a vector is written, or waits while the link is down (R385, R387). -/
def State.fire (s : State) (v : Nat) : State :=
  if s.linkUp then { s with msix := tset s.msix v (tget 0 s.msix v + 1) } else { s with msixWait := s.msixWait ++ [v] }

/-- Raises bit v of HSTAT to the host: its vector fires when the bit was 0 and HMASK leaves it (R387). -/
def State.signal (s : State) (v : Nat) : State :=
  let s1 := s.setCfield 0x4000 v v 1
  if s.cfield 0x4000 v v = 0 ∧ s.cfield 0x4008 v v = 0 then s1.fire v else s1

end Sys2Proof.Machine
end

