-- ==== Sys2Proof/Machine/Mem.lean ====
section
/-! DEFINITION. Storage: the pool's swizzle (spec/03 R60), page walks and cached translations (spec/19), the parts of an
access (R63), soft-error marks (spec/24 R415), logical time (R65), and reads and writes of one part. -/

namespace Sys2Proof.Machine

/-! ### Places -/

/-- The physical byte of a pool offset addressed through a swizzle code (R60). -/
def swizzle (z o : Nat) : Nat :=
  let lb := o / 4 % 32
  let bank := if z = 0 then lb else
    let lg := z + 3
    Nat.xor lb (o / 2 ^ (max 7 lg) % (min 32 (2 ^ (lg - 2))))
  o / 128 * 128 + bank * 4 + o % 4

/-- The key of a physical byte of a core's pool. -/
def poolKey (core z o : Nat) : Nat := core * 2 ^ 21 + swizzle z o

/-- The key of a byte of another module's memory. -/
def remoteKey (module pa : Nat) : Nat := module * 2 ^ 48 + pa

/-- The place n bytes further on. -/
def Place.add : Place → Nat → Place
  | .dev pa, n => .dev (pa + n)
  | .pool c z o, n => .pool c z (o + n)
  | .host pa, n => .host (pa + n)
  | .remote m pa, n => .remote m (pa + n)
  | .ctl o, n => .ctl (o + n)

/-- The offset after a place's start of memory, in bytes. -/
def Place.off : Place → Nat
  | .dev pa => pa
  | .pool _ _ o => o
  | .host pa => pa
  | .remote _ pa => pa
  | .ctl o => o

/-- Whether a place lies in the SC domain (R57). -/
def Place.sc : Place → Bool
  | .dev _ | .pool _ _ _ => true
  | _ => false

/-- The key under which the timestamps of a place's line or row are held (R65). -/
def Place.line : Place → Nat
  | .dev pa => pa / 128
  | .pool c _ o => 2 ^ 42 + c * 2 ^ 14 + o / 128
  | _ => 2 ^ 44

/-- The keys of the lines or rows that n bytes of a place touch. -/
def Place.lines (p : Place) (n : Nat) : List Nat :=
  if n = 0 then [] else (List.range ((p.off + n - 1) / 128 - p.off / 128 + 1)).map (p.line + ·)

/-- One byte of a place. -/
def State.peek (s : State) : Place → Byte
  | .dev pa => mget s.mem pa
  | .pool c z o => mget s.pool (poolKey c z o)
  | .host pa => mget s.hostMem pa
  | .remote m pa => mget s.remoteMem (remoteKey m pa)
  | .ctl o => BitVec.ofNat 8 (nbits (s.ctlRead (o - o % 8)).toNat (8 * (o % 8) + 7) (8 * (o % 8)))

/-- Writes one byte of a place; control space is written through its registers only. -/
def State.poke (s : State) (p : Place) (b : Byte) : State :=
  match p with
  | .dev pa => { s with mem := mset s.mem pa b }
  | .pool c z o => { s with pool := mset s.pool (poolKey c z o) b }
  | .host pa => { s with hostMem := mset s.hostMem pa b }
  | .remote m pa => { s with remoteMem := mset s.remoteMem (remoteKey m pa) b }
  | .ctl _ => s

/-- The n bytes of a place. -/
def State.peekN (s : State) (p : Place) : Nat → List Byte
  | 0 => []
  | n + 1 => s.peek p :: s.peekN (p.add 1) n

/-- Writes the bytes of a place. -/
def State.pokeN (s : State) (p : Place) : List Byte → State
  | [] => s
  | b :: bs => (s.poke p b).pokeN (p.add 1) bs

/-- A number of n bytes at a place. -/
def State.peekNat (s : State) (p : Place) (n : Nat) : Nat := leNat (s.peekN p n)

/-! ### Soft-error marks (R414, R415) -/

/-- Whether the byte of a place lies in a marked granule. -/
def State.marked (s : State) : Place → Bool
  | .dev pa => s.marks.contains (.hbm (pa / 32)) || s.marks.contains (.l2 (pa / 8))
  | .pool c z o => s.marks.contains (.pool (poolKey c z o / 8))
  | _ => false

/-- The first of n bytes of a place that is marked, as an offset from lo. -/
def State.firstMark (s : State) (p : Place) (lo : Nat) : Nat → Option Nat
  | 0 => none
  | n + 1 => if s.marked p then some lo else s.firstMark (p.add 1) (lo + 1) n

/-- The granules of which a write of n bytes at a place, those of them that `on` names, writes every byte. -/
def coveredWhere (on : Nat → Bool) (p : Place) (n : Nat) (m : Mark) : Bool :=
  match m, p with
  | .hbm g, .dev pa => (List.range 32).all fun k => decide (pa ≤ 32 * g + k) && decide (32 * g + k < pa + n) && on (32 * g + k - pa)
  | .l2 g, .dev pa => (List.range 8).all fun k => decide (pa ≤ 8 * g + k) && decide (8 * g + k < pa + n) && on (8 * g + k - pa)
  | .pool g, .pool c z o =>
    (List.range 8).all fun k => (List.range n).any fun i => on i && poolKey c z (o + i) == 8 * g + k
  | _, _ => false

/-- The granules of which a write of n bytes at a place writes every byte. -/
def coveredBy (p : Place) (n : Nat) (m : Mark) : Bool :=
  match m, p with
  | .hbm g, .dev pa => decide (pa ≤ 32 * g) && decide (32 * g + 32 ≤ pa + n)
  | .l2 g, .dev pa => decide (pa ≤ 8 * g) && decide (8 * g + 8 ≤ pa + n)
  | .pool g, .pool c z o =>
    (List.range 8).all fun k => (List.range n).any fun i => poolKey c z (o + i) == 8 * g + k
  | _, _ => false

/-- The marks that are left after a write. -/
def State.unmark (s : State) (p : Place) (n : Nat) : State :=
  if s.marks = [] then s else { s with marks := s.marks.filter fun m => !coveredBy p n m }

/-! ### Logical time (R65) -/

/-- Write timestamp and read lease of a line. -/
def State.stamps (s : State) (line : Nat) : Nat × Nat := tget (0, 0) s.lines line

/-- A load of n bytes extends the lease of each line that it touches to its own logical time. -/
def State.lease (s : State) (p : Place) (n : Nat) : State :=
  if p.sc then
    { s with lines := (p.lines n).foldl (fun ls l => tset ls l ((tget (0, 0) ls l).1, max (tget (0, 0) ls l).2 s.ltime)) s.lines }
  else s

/-- A write of n bytes takes the timestamp t on the lines it touches. -/
def State.stamp (s : State) (p : Place) (n t : Nat) : State :=
  if p.sc then { s with lines := (p.lines n).foldl (fun ls l => tset ls l (t, (tget (0, 0) ls l).2)) s.lines } else s

/-- The timestamp that a write of n bytes takes: later than the timestamps and the leases of its lines, and no earlier than the
package's logical time, which advances only where a write must follow one of them (R65, R66). -/
def State.writeTime (s : State) (p : Place) (n : Nat) : Nat :=
  (p.lines n).foldl (fun t l => max t (max (s.stamps l).1 (s.stamps l).2 + 1)) s.ltime

/-! ### Phasers that hold a registration (R208, R282) -/

/-- Whether the byte of a place lies in the phaser at ph. -/
def inPhaser (ph p : Place) : Bool :=
  match ph, p with
  | .dev a, .dev b => decide (a ≤ b) && decide (b < a + 32)
  | .pool c z o, .pool c' z' o' =>
    c == c' && (List.range 32).any fun i => swizzle z (o + i) == swizzle z' o'
  | _, _ => false

/-- Whether two places are the same byte. -/
def samePlace (p q : Place) : Bool :=
  match p, q with
  | .pool c z o, .pool c' z' o' => c == c' && swizzle z o == swizzle z' o'
  | _, _ => p == q

/-- A completion sets out for its binding (R32). -/
def State.fly (s : State) (tag : ITag) (ctx : Ctx) (r : Result) : State :=
  { s with flying := s.flying ++ [{ tag := tag, ctx := ctx, res := r }] }

/-- Every pending PH.WAIT of a phaser is poisoned with a code (R206, R208). -/
def State.poisonWaits (s : State) (ph : Place) (code : Nat) : State :=
  let hit := s.phWaits.filter fun w => samePlace w.place ph
  let s1 := { s with phWaits := s.phWaits.filter fun w => !samePlace w.place ph }
  hit.foldl (fun a w => a.fly w.tag w.ctx (.poison code 0 0 0)) s1

/-- The phaser at a place becomes BROKEN: it keeps its other values, and its waits are poisoned with 0x0031 (R208). -/
def State.breakPhaser (s : State) (ph : Place) : State :=
  let s1 := s.poke (ph.add 0x0A) (s.peek (ph.add 0x0A) ||| 2)
  let s2 := { s1 with phasers := s1.phasers.filter fun q => !samePlace q ph }
  s2.poisonWaits ph 0x31

/-- Writes bytes one by one, leaving out those that lie in a phaser of the list. -/
def State.pokeBeside (s : State) (phs : List Place) (p : Place) : List Byte → State
  | [] => s
  | b :: bs =>
    (if phs.any fun ph => inPhaser ph p then s else s.poke p b).pokeBeside phs (p.add 1) bs

/-- Whether n bytes at a physical address strike an entry that a trail holds (R367, R368). -/
def State.strikes (s : State) (u : TrailUse) (pa n : Nat) : Bool :=
  match u.pages.head? with
  | none => false
  | some (_, hdr, _) =>
    let head := s.peekNat (.dev (hdr + 8)) 8
    let tail := s.peekNat (.dev (hdr + 16)) 8
    u.pages.any fun p =>
      let lo := max pa p.2.1
      let hi := min (pa + n) (p.2.1 + p.2.2)
      (List.range (hi - lo)).any fun i =>
        let off := p.1 + (lo + i - p.2.1)
        decide (4096 ≤ off) && decide ((off - 4096 + u.area - head % u.area) % u.area < tail - head)

/-- Writes the bytes that are marked true one by one, leaving out those that lie in a phaser of the list. -/
def State.pokeMask (s : State) (phs : List Place) (p : Place) : List (Byte × Bool) → State
  | [] => s
  | b :: bs =>
    (if !b.2 || phs.any fun ph => inPhaser ph p then s else s.poke p b.1).pokeMask phs (p.add 1) bs

/-- Marks the trails of which a write strikes an entry (R367). -/
def State.spoil (s : State) (p : Place) (n : Nat) : State :=
  match p with
  | .dev pa =>
    if s.trails = [] then s
    else { s with trails := s.trails.map fun u => if s.strikes u pa n then { u with spoiled := true } else u }
  | _ => s

/-- Drops the copies of another module's lines that a write of n bytes reaches: a thread reads what it wrote (R68). -/
def State.dropCopies (s : State) (p : Place) (n : Nat) : State :=
  match p with
  | .remote m pa =>
    { s with fabCopies := s.fabCopies.filter fun c => !(c.module == m && decide (pa / 128 ≤ c.line)
      && decide (c.line ≤ (pa + n - 1) / 128)) }
  | _ => s

/-- A write of one part in the package order with a given timestamp: its bytes, the marks it clears, the trail entries that it
strikes, and the phasers with a registration that it breaks (R65, R208, R367, R415). -/
def State.putT (s : State) (p : Place) (bs : List Byte) (t : Nat) : State :=
  let n := bs.length
  let hit := s.phasers.filter fun ph => (List.range n).any fun i => inPhaser ph (p.add i)
  let s0 := (s.spoil p n).dropCopies p n
  let s1 := if hit = [] then s0.pokeN p bs else s0.pokeBeside hit p bs
  let s2 := ((s1.unmark p n).stamp p n t)
  let s3 := if p.sc then { s2 with ltime := max s2.ltime t } else s2
  hit.foldl (fun a ph => a.breakPhaser ph) s3

/-- A write of those bytes of one part that `act` names, as one access: what lies between them stays, and so does a phaser that
any of them strikes (R65, R208, R367, R415). -/
def State.putMask (s : State) (p : Place) (bs : List Byte) (act : List Bool) (t : Nat) : State :=
  let n := bs.length
  let on := fun (i : Nat) => act.getD i false
  let hit := s.phasers.filter fun ph => (List.range n).any fun i => on i && inPhaser ph (p.add i)
  let s0 := (List.range n).foldl (fun (a : State) i => if on i then a.spoil (p.add i) 1 else a) s
  let s1 := s0.pokeMask hit p (bs.zip act)
  let s2 := { s1 with marks := s1.marks.filter fun m => !coveredWhere on p n m }.stamp p n t
  let s3 := if p.sc then { s2 with ltime := max s2.ltime t } else s2
  hit.foldl (fun a ph => a.breakPhaser ph) s3

/-- A write of one part in the package order, at the time that its lines give it (R65). -/
def State.put (s : State) (p : Place) (bs : List Byte) : State := s.putT p bs (s.writeTime p bs.length)

/-! ### Page walks (R330-R333) -/

/-- The permissions an access needs (R333). -/
structure Need where
  r : Bool
  w : Bool
  x : Bool
  deriving DecidableEq, Repr

/-- Needs of a load, a store, an atomic, a fetch. -/
def Need.load : Need := ⟨true, false, false⟩
/-- A store, a scatter and an engine destination write need W. -/
def Need.store : Need := ⟨false, true, false⟩
/-- An atomic and PROBE.W need R and W. -/
def Need.rmw : Need := ⟨true, true, false⟩
/-- No permission: what a wait asks of its page. -/
def Need.any : Need := ⟨false, false, false⟩
/-- A fetch needs X. -/
def Need.fetch : Need := ⟨false, false, true⟩

/-- Walk reasons of R332 and the record reasons of R352. -/
def Reason.range : Nat := 1
/-- V = 0 in the address-space table or in the tree. -/
def Reason.notMapped : Nat := 2
/-- The leaf lacks a permission. -/
def Reason.perm : Nat := 3
/-- An entry breaks R330 or R331. -/
def Reason.malformed : Nat := 4
/-- HOLD lasted beyond TIMEOUT. -/
def Reason.held : Nat := 5
/-- A residency request unanswered. -/
def Reason.timeout : Nat := 6
/-- The runtime declared the page invalid. -/
def Reason.invalid : Nat := 7
/-- Unmapped after three requests. -/
def Reason.notResident : Nat := 8
/-- A table read with an uncorrectable soft error. -/
def Reason.walkErr : Nat := 9
/-- REFUSED of R352. -/
def Reason.refused : Nat := 10
/-- CORRUPT of R352. -/
def Reason.corrupt : Nat := 11

/-- What a walk finds. -/
inductive Walk where
  | leaf (e : TlbEntry)
  | fail (code reason : Nat)
  deriving DecidableEq, Repr

/-- Bits of a VA that index a level, and log2 of what an entry maps (R330). -/
def levelIndex (lvl va : Nat) : Nat :=
  match lvl with
  | 4 => nbits va 51 39
  | 3 => nbits va 38 30
  | 2 => nbits va 29 21
  | _ => nbits va 20 16

/-- log2 of the page that a leaf at a level maps (R330). -/
def levelSize (lvl : Nat) : Nat :=
  match lvl with
  | 4 => 39
  | 3 => 30
  | 2 => 21
  | _ => 16

/-- log2 of the alignment of the table below a level (R330). -/
def tableAlign (lvl : Nat) : Nat :=
  match lvl with
  | 4 => 12
  | 3 => 12
  | _ => 8

/-- Whether an entry at a level breaks R331. In a pointer, bits [7:2] have no meaning (DEDUCED, notes/assumptions/23.md). -/
def malformed (lvl : Nat) (e : BitVec 64) : Bool :=
  let leaf := bits e 1 1 == 1
  let kind := bits e 62 60
  bits e 63 63 != 0 || bits e 58 56 != 0 || (lvl == 4 && leaf) || (lvl == 1 && !leaf)
    || (if leaf then
          decide (3 < kind) || (bits e 59 59 == 1 && kind != 0) || (bits e 55 48 != 0 && kind != 2)
            || bits e 47 8 * 256 % 2 ^ levelSize lvl != 0
        else
          kind != 0 || bits e 59 59 != 0 || bits e 55 48 != 0 || bits e 47 8 * 256 % 2 ^ tableAlign lvl != 0)

/-- Whether a leaf lacks a needed permission; a page of any kind but device may not be fetched from (R333). -/
def lacks (e : BitVec 64) (n : Need) : Bool :=
  (n.r && bits e 2 2 == 0) || (n.w && bits e 3 3 == 0) || (n.x && (bits e 4 4 == 0 || bits e 62 60 != 0))

/-- The u64 of a table, none with a soft error. A table that an entry or ASTBASE places at or above 1,536 × 10^9 reads as zero:
NOTMAPPED (DESIGN CHOICE, notes/assumptions/42.md). -/
def State.tableWord (s : State) (pa : Nat) : Option (BitVec 64) :=
  if (s.firstMark (.dev pa) 0 8).isSome then none else some (BitVec.ofNat 64 (s.peekNat (.dev pa) 8))

/-- The levels of a walk from lvl down, the table at t. -/
def State.walkFrom (s : State) (asid : BitVec 16) (va : Nat) (need : Need) (t : Nat) : Nat → Walk
  | 0 => .fail 0x10 Reason.malformed
  | lvl + 1 =>
    let pa := t + 8 * levelIndex (lvl + 1) va
    match s.tableWord pa with
    | none => .fail 0x50 Reason.walkErr
    | some e =>
      if bits e 0 0 = 0 then .fail 0x10 Reason.notMapped
      else if malformed (lvl + 1) e then .fail 0x10 Reason.malformed
      else if bits e 1 1 = 1 then
        if lacks e need then .fail 0x10 Reason.perm
        else
          let k := levelSize (lvl + 1)
          .leaf { asid := asid, page := va / 2 ^ k, size := k, leaf := e, leafPa := pa, holder := .shared }
      else s.walkFrom asid va need (bits e 47 8 * 256) lvl

/-- walk(asid, va, need) of R332. -/
def State.walk (s : State) (asid : BitVec 16) (va : Nat) (need : Need) : Walk :=
  if 2 ^ 52 ≤ va ∨ nbits va 51 40 = 0xFFF then .fail 0x10 Reason.range
  else
    match s.tableWord (s.cfield 0x2000 47 12 * 4096 + 8 * asid.toNat) with
    | none => .fail 0x50 Reason.walkErr
    | some a =>
      if bits a 0 0 = 0 then .fail 0x10 Reason.notMapped
      else if bits a 63 48 ≠ 0 ∨ bits a 15 1 ≠ 0 then .fail 0x10 Reason.malformed
      else s.walkFrom asid va need (bits a 47 16 * 65536) 4

/-! ### Reachability of another module (R391-R394) -/

/-- The active bank's entry for a slot and a port (R392). -/
def State.ttEntry (s : State) (slot port : Nat) : Nat :=
  let off := 0xA000 + 0x2000 * s.cfield 0x9008 8 8 + 0x80 * slot + 4 * port
  nbits (s.creg (off - off % 8)).toNat (8 * (off % 8) + 31) (8 * (off % 8))

/-- The slot that covers NOW (R392). -/
def State.slotNow (s : State) : Nat :=
  (s.now.toNat - s.tt.start) / (s.tt.slotNs * Config.ns) % s.tt.nslot

/-- Whether the claim of SPCLMk is in effect: from the slot after a failover on (R399), from the bank swap of a planned move
(R398). -/
def State.claimActs (s : State) (k : Nat) : Bool :=
  s.cfield (0x9040 + 8 * k) 61 61 == 1 && decide (tget 0 s.claimFrom k ≤ s.now.toNat)

/-- The spare port whose claim for a port is in effect, if any (R399). -/
def State.spareFor (s : State) (port : Nat) : Option Nat :=
  if s.claimActs 0 && s.cfield 0x9040 15 8 == port then some (s.cfield 0x9040 23 16)
  else if s.claimActs 1 && s.cfield 0x9048 15 8 == port then some (s.cfield 0x9048 23 16)
  else none

/-- The port that carries the timetable entries of a port, none where it is lost; a spare that is lost may have a spare of its
own (R399). -/
def State.carrierIn (s : State) : Nat → Nat → Option Nat
  | 0, _ => none
  | fuel + 1, port =>
    match s.spareFor port with
    | some q => s.carrierIn fuel q
    | none => if s.lostPorts.contains port then none else some port

/-- The port that carries the timetable entries of a port: there are two spares. -/
def State.carrier (s : State) (port : Nat) : Option Nat := s.carrierIn 3 port

/-- Whether port q carries data in a slot: its beacon of this epoch has been checked, and it is not in quarantine (R394). -/
def State.checkedIn (s : State) (slot q : Nat) : Bool := s.portSeen.contains (q, slot) && !s.portQuar.contains (q, slot)

/-- Whether the timetable entries of a port carry traffic in a slot (R394, R399). -/
def State.portLive (s : State) (slot port : Nat) : Bool := (s.carrier port).any (s.checkedIn slot)

/-- Whether the timetable entries of a port may carry traffic in a slot once its beacon is checked (R394). -/
def State.portHopes (s : State) (slot port : Nat) : Bool := (s.carrier port).any fun q => !s.portQuar.contains (q, slot)

/-- Whether a port is connected to module m in a slot (R392). -/
def State.connects (s : State) (slot port m : Nat) : Bool :=
  let e := s.ttEntry slot port
  nbits e 31 31 == 1 && nbits e 15 0 == m

/-- The slots, counted from the present one, after which the next slot that reaches module m from here begins; `live` says which
ports carry traffic (R393). -/
def State.hop (s : State) (live : Nat → Nat → Bool) (m : Nat) : Option Nat :=
  (List.range s.tt.nslot).find? fun d =>
    let slot := (s.slotNow + d) % s.tt.nslot
    (List.range 18).any fun port => s.connects slot port m && live slot port

/-- A port of this module is connected to module m in some slot (R392, R393). -/
def State.direct (s : State) (m : Nat) : Bool := (s.hop s.portLive m).isSome

/-- Slots until the earliest path of two hops to module m delivers: to K in K's slot, then from K in its next slot to M, within
one timetable cycle (R393; DEDUCED, notes/assumptions/40.md). -/
def State.twoHop (s : State) (live : Nat → Nat → Bool) (m : Nat) : Option Nat :=
  let n := s.tt.nslot
  s.peerLinks.foldl (fun best l =>
    if l.2.2 = m then
      match s.hop live l.1 with
      | none => best
      | some d =>
        let wait := (l.2.1 + n - (s.slotNow + d) % n) % n
        let total := d + if wait = 0 then n else wait
        if total ≤ n ∧ (best.all fun b => decide (total < b)) then some total else best
    else best) none

/-- Some path of R393 of at most two hops reaches module m. -/
def State.reaches (s : State) (m : Nat) : Bool := s.direct m || (s.twoHop s.portLive m).isSome

/-- A path to module m has a slot whose beacon is still to be checked in this epoch: the packet waits for it (R394). -/
def State.hopes (s : State) (m : Nat) : Bool := (s.hop s.portHopes m).isSome || (s.twoHop s.portHopes m).isSome

/-! ### Translation of one part -/

/-- The agent of an access: its core and launch for the local window, its address space (R329, R58). -/
structure Agent where
  core : Nat
  lid : Nat
  /-- The pack on whose core the agent has a local window; the shepherd has none. -/
  pack : Option Nat
  asid : BitVec 16
  /-- PBND0 and PBND2 of the issuer's core, captured at issue: for a command that outlives its pack (R27). -/
  bounds : Nat × Nat := (0, 0)
  /-- The TLB that serves the agent (R336, R337). -/
  tlb : TlbId := .shared
  deriving DecidableEq, Repr

/-- What translation of one part comes to (R184). A refusal and a dead link carry the subkind of the fence entry of a
store there (R376): 1 host, 2 another module, 3 control space; 0 is a refusal in the SC domain (R59). -/
inductive Xlat where
  | ok (p : Place) (e : Option TlbEntry)
  | held
  /-- The path to the other module waits for the beacon of its slot (R394). -/
  | away
  | fail (code reason : Nat)
  | refused (sub : Nat)
  | dead (sub : Nat)
  | hole (pa : Nat)
  deriving DecidableEq, Repr

/-- PBND0 and PBND2 of an agent's own-core window: those of the core that holds its pack, or, for a command whose pack has ended
by EXIT, those captured at its issue, whoever holds the core now (R27, R58). -/
def State.ownBounds (s : State) (ag : Agent) : Option (Nat × Nat) :=
  match ag.pack with
  | none => none
  | some key =>
    let k := s.core ag.core
    if k.pack = some key then some (k.pb0, k.pb2)
    else if s.packs.any fun p => p.key == key then none
    else some ag.bounds

/-- A local-window address (R58, R59). -/
def State.localWindow (s : State) (ag : Agent) (va : Nat) : Xlat :=
  let cl := nbits va 39 39
  let core := if cl = 1 then clusterOf ag.core * 128 + nbits va 27 21 else ag.core
  let swz := nbits va 34 32
  let o := nbits va 20 0
  let k := s.core core
  let bounds := if cl = 0 then s.ownBounds ag
    else if k.pack.map (· / 2 ^ 24) = some ag.lid then some (k.pb0, k.pb2) else none
  if nbits va 38 35 ≠ 0 ∨ nbits va 31 28 ≠ 0 ∨ (cl = 0 ∧ nbits va 27 21 ≠ 0) ∨ swz = 7 then .fail 0x10 Reason.range
  else
    match bounds with
    | none => .refused 0
    | some b => if o < b.1 * 4096 ∨ b.2 * 4096 ≤ o then .fail 0x10 Reason.range else .ok (.pool core swz o) none

/-- The place that a leaf gives an address (R57, R331, R391). -/
def State.leafPlace (s : State) (e : TlbEntry) (va : Nat) : Xlat :=
  let pa := bits e.leaf 47 8 * 256 / 2 ^ e.size * 2 ^ e.size + va % 2 ^ e.size
  match bits e.leaf 62 60 with
  | 0 => if Config.deviceBytes ≤ pa then .hole pa else .ok (.dev pa) (some e)
  | 1 => if s.linkUp then .ok (.host pa) (some e) else .dead 1
  | 2 =>
    let peer := s.creg (0x9100 + 8 * bits e.leaf 55 48)
    if bits peer 63 63 = 0 then .refused 2
    else if s.reaches (bits peer 47 32) then .ok (.remote (bits peer 47 32) pa) (some e)
    else if s.hopes (bits peer 47 32) then .away
    else .dead 2
  | _ =>
    if Config.shbase ≤ pa ∧ pa < Config.shbase + 0x200000 then .ok (.ctl (pa - Config.shbase)) (some e)
    else .refused 3

/-- Whether a cached translation covers an address. -/
def TlbEntry.covers (e : TlbEntry) (asid : BitVec 16) (va : Nat) : Bool :=
  e.asid == asid && va / 2 ^ e.size == e.page

/-- The leaf in memory still has V set with the same ADDR as the cached one (R334). -/
def State.sameLeaf (s : State) (e : TlbEntry) : Bool :=
  match s.tableWord e.leafPa with
  | none => false
  | some w => bits w 0 0 == 1 && bits w 47 8 == bits e.leaf 47 8

/-- The permissions that an access through a leaf needs are all set, A and D where it needs them too. -/
def TlbEntry.marked (e : TlbEntry) (write : Bool) : Bool := bits e.leaf 5 5 == 1 && (!write || bits e.leaf 6 6 == 1)

/-- A cached translation that may serve an access: it has the permissions, and no A or D update that it would need is
stopped by a changed entry (R334, R336). -/
def State.tlbHit (s : State) (ag : Agent) (va : Nat) (need : Need) : Option TlbEntry :=
  (s.tlb.find? fun e => e.holder == ag.tlb && e.covers ag.asid va).filter fun e =>
    !lacks e.leaf need && (e.marked need.w || s.sameLeaf e)

/-- Translates the address of one part (R57, R58, R183, R332, R335, R336). -/
def State.locate (s : State) (ag : Agent) (va : Word) (need : Need) : Xlat :=
  let a := va.toNat
  if 2 ^ 52 ≤ a then .fail 0x10 Reason.range
  else if nbits a 51 40 = 0xFFF then
    if need.x then .fail 0x10 Reason.range else s.localWindow ag a
  else
    match s.tlbHit ag a need with
    | some e => s.leafPlace e a
    | none =>
      match s.walk ag.asid a need with
      | .fail c r => .fail c r
      | .leaf e => if bits e.leaf 7 7 = 1 then .held else s.leafPlace { e with holder := ag.tlb } a

/-- What an access to an address on a held page would reach, were the page not held; none for any other address. -/
def State.beyondHold (s : State) (ag : Agent) (va : Word) (need : Need) : Option Xlat :=
  match s.locate ag va need with
  | .held =>
    match s.walk ag.asid va.toNat need with
    | .leaf e => some (s.leafPlace e va.toNat)
    | .fail _ _ => none
  | _ => none

/-- TWOHOP advances with each use of a two-hop path to a module, where that is the first in time (R393). -/
def State.travel (s : State) (m : Nat) : State :=
  match s.hop s.portLive m, s.twoHop s.portLive m with
  | none, _ => s.count 3
  | some d, some t => if t < d then s.count 3 else s
  | some _, none => s

/-- The entries that a TLB with a holder keeps beside the newest: a stream TLB holds 4 in all (R337). -/
def keepEntries (h : TlbId) (n : Nat) : List TlbEntry → List TlbEntry
  | [] => []
  | e :: r =>
    if e.holder = h then (if n = 0 then keepEntries h 0 r else e :: keepEntries h (n - 1) r) else e :: keepEntries h n r

/-- A TLB takes a translation (R336, R337). -/
def State.cache (s : State) (e : TlbEntry) : State :=
  let rest := s.tlb.filter fun x => !(x.holder == e.holder && x.asid == e.asid && x.page == e.page && x.size == e.size)
  { s with tlb := e :: (if e.holder = .shared then rest else keepEntries e.holder 3 rest) }

/-- While an engine works on one page it walks the next page of its command; what fails is not cached, and neither A nor D is set
(R334, R337). -/
def State.prefetch (s : State) (ag : Agent) (va : Word) (need : Need) : State :=
  if nbits va.toNat 51 40 = 0xFFF ∨ (s.tlbHit ag va.toNat need).isSome then s
  else
    match s.walk ag.asid va.toNat need with
    | .fail _ _ => s
    | .leaf e => if bits e.leaf 7 7 = 1 then s else s.cache { e with holder := ag.tlb }

/-- The path of an access through a leaf of remote kind (R391, R393). -/
def State.route (s : State) (leaf : BitVec 64) : State :=
  if bits leaf 62 60 = 2 then s.travel (bits (s.creg (0x9100 + 8 * bits leaf 55 48)) 47 32) else s

/-- A and D are set in a leaf where it lacks them, and the translation is cached (R334, R336). -/
def State.useLeaf (s : State) (e : Option TlbEntry) (write : Bool) : State :=
  match e with
  | none => s
  | some e =>
    let add : BitVec 64 := if write then 0x60 else 0x20
    let leaf' := e.leaf ||| add
    let s1 := if leaf' = e.leaf then s else
      if s.sameLeaf e then
        s.put (.dev e.leafPa) (natLe 8 ((BitVec.ofNat 64 (s.peekNat (.dev e.leafPa) 8)) ||| add).toNat)
      else s
    if leaf' = e.leaf ∧ s1.tlb.contains e then s1 else s1.cache { e with leaf := leaf' }

/-- Before the access: it takes its path, and its leaf and the TLB follow (R334, R336, R393). -/
def State.touch (s : State) (e : Option TlbEntry) (write : Bool) : State :=
  match e with
  | none => s
  | some l => (s.route l.leaf).useLeaf e write

/-- A failure of an access (R184). -/
structure Fail where
  code : Nat
  reason : Nat
  addr : Word
  sc : Bool
  hole : Option Nat
  deriving DecidableEq, Repr

/-- The machine stands still after an access to a place that does not exist. -/
def State.stick (s : State) (h : Option Nat) : State :=
  match h with
  | none => s
  | some pa => { s with stuck := some (.noMemory pa) }

/-- The failure that a translation other than ok or held stands for. -/
def Xlat.failure (x : Xlat) (va : Word) : Option Fail :=
  match x with
  | .ok _ _ | .held | .away => none
  | .fail c r => some ⟨c, r, va, true, none⟩
  | .refused sub => some ⟨0x11, Reason.refused, va, sub == 0, none⟩
  | .dead _ => some ⟨0x12, 0, va, false, none⟩
  | .hole pa => some ⟨0x11, Reason.refused, va, true, some pa⟩

/-! ### Parts (R63) -/

/-- The parts of a contiguous access: one for each 128-byte line or row, in ascending order. -/
def splitParts (va : Word) (pos : Nat) : Nat → Nat → List Part
  | 0, _ => []
  | _, 0 => []
  | fuel + 1, n + 1 =>
    let k := min (n + 1) (128 - va.toNat % 128)
    { va := va, pos := pos, len := k } :: splitParts (va + BitVec.ofNat 64 k) (pos + k) fuel (n + 1 - k)

/-- The parts of n bytes at va. -/
def partsOf (va : Word) (n : Nat) : List Part := splitParts va 0 (n / 128 + 2) n

/-- A part with its translation. -/
abbrev Located := Part × Xlat

/-- Translates every part. -/
def State.locateAll (s : State) (ag : Agent) (need : Need) (ps : List Part) : List Located :=
  ps.map fun p => (p, s.locate ag p.va need)

/-- Reads the bytes of one part: its bytes, or the failure of its read (R191, R415). -/
def State.readPart (s : State) (p : Part) (pl : Place) : Except Fail (List Byte) :=
  match pl with
  | .ctl off =>
    match s.ctlLoad off p.len with
    | some v => .ok (natLe p.len v)
    | none => .error ⟨0x11, Reason.refused, p.va, false, none⟩
  | _ =>
    match s.firstMark pl 0 p.len with
    | some k => .error ⟨0x50, 0, p.va + BitVec.ofNat 64 k, true, none⟩
    | none => .ok (s.peekN pl p.len)

/-! ### Waits on held pages (R335) -/

/-- Microseconds of NOW. -/
def micros (units : Nat) : Nat := units / (Config.ns * 1000)

/-- Whether a hold that began at NOW `since` has outlasted TIMEOUT (R335, R339). -/
def State.outlasted (s : State) (since : Nat) : Bool :=
  let limit := s.cfield 0x2010 63 32
  limit != 0 && decide (limit < micros (s.now.toNat - since))

/-- Whether a wait on a held page tries again: an invalidation covered the page, or TIMEOUT has passed (R335). -/
def State.retries (s : State) (h : Option Hold) : Bool :=
  match h with
  | none => true
  | some x => x.again || s.outlasted x.since

/-- The wait of an agent for an address on a held page that begins now (R335). -/
def State.newHold (s : State) (ag : Agent) (va : Word) : Hold :=
  { since := s.now.toNat, va := va, again := false
    size := match s.walk ag.asid va.toNat Need.any with
      | .leaf e => e.size
      | .fail _ _ => 16 }

/-- A wait of an engine on a held page goes on; none once the hold has outlasted TIMEOUT (R335). -/
def State.keepHold (s : State) (ag : Agent) (h : Option Hold) (va : Word) : Option Hold :=
  match h.filter fun x => x.va == va with
  | none => some (s.newHold ag va)
  | some x => if s.outlasted x.since then none else some { s.newHold ag va with since := x.since }

/-- The wait of an agent for a link whose slot has not been checked yet: it is tried again at every turn (R394). -/
def State.awayHold (s : State) (ag : Agent) (va : Word) : Hold := { s.newHold ag va with again := true }

/-- The failure of a hold that outlasts TIMEOUT. -/
def heldFail (va : Word) : Fail := ⟨0x10, Reason.held, va, true, none⟩

/-- The address space and core of a thread. -/
def State.agentOf (s : State) (g : Nat) : Agent :=
  let t := s.thread g
  { core := coreOf g, lid := t.pack / 2 ^ 24, pack := some t.pack, asid := t.asid }

/-- The agent of a command: its issuer's core, launch and captured address space (R329). -/
def Ctx.agent (c : Ctx) : Agent :=
  { core := coreOf c.gtid, lid := c.pack / 2 ^ 24, pack := some c.pack, asid := c.asid, bounds := c.bounds }

end Sys2Proof.Machine
end

