-- ==== Sys2Proof/Machine/Trail.lean ====
section
/-! DEFINITION. The trail (spec/21): the buffer and its header, entries, windows, and what happens when it is full. The
header's counts are read from and written to the buffer itself. -/

namespace Sys2Proof.Machine

/-- The launch with an id. -/
def State.launch? (s : State) (lid : Nat) : Option Launch := s.launches.find? fun l => l.id == lid

/-- Replaces the launch with l's id. -/
def State.setLaunch (s : State) (l : Launch) : State :=
  { s with launches := s.launches.map fun x => if x.id = l.id then l else x }

/-- The pack with a key. -/
def State.pack? (s : State) (key : Nat) : Option Pack := s.packs.find? fun p => p.key == key

/-- Replaces the pack with p's key. -/
def State.setPack (s : State) (p : Pack) : State :=
  { s with packs := s.packs.map fun x => if x.key = p.key then p else x }

/-- The region, at a device physical address, whose values are kept (R321). -/
def State.region? (s : State) (rcb : Nat) : Option Region := s.regions.find? fun r => r.rcb == rcb

/-- The region of a pack. -/
def State.regionOf (s : State) (pack : Nat) : Option Region :=
  (s.launch? (pack / 2 ^ 24)).bind fun l => s.region? l.region

/-- The region of a pack when its trail is enabled (R367). -/
def State.trailOf (s : State) (pack : Nat) : Option Region := (s.regionOf pack).filter fun r => r.trail != 0

/-- The trail in use of an owner. -/
def State.trailUse (s : State) (owner : Nat) : TrailUse :=
  (s.trails.find? fun u => u.owner == owner).getD
    { owner := owner, asid := 0, area := 0, pages := [], spoiled := false, failed := false, hold := none }

/-- Replaces the trail in use with u's owner. -/
def State.setTrailUse (s : State) (u : TrailUse) : State :=
  { s with trails := s.trails.map fun x => if x.owner = u.owner then u else x }

/-- The bytes that commands in flight have reserved in an owner's trail (R214, R375). -/
def State.reservedFor (s : State) (owner : Nat) : Nat :=
  let mine := fun (c : Ctx) => (s.trailOf c.pack).any fun r => r.owner == owner
  ((s.copies.filter fun c => mine c.ctx).map (·.reserved)).foldl (· + ·) 0
    + ((s.held.filter fun h => mine h.ctx).map (·.reserved)).foldl (· + ·) 0
    + ((s.childReqs.filter fun c => mine c.ctx).map (·.reserved)).foldl (· + ·) 0

/-! ### The buffer -/

/-- Bytes of the entry area (R368). -/
def Region.area (r : Region) : Nat := r.trailU * 0x200000 - 4096

/-- The agent of accesses to an owner's buffer (R367). -/
def State.trailAgent (s : State) (r : Region) : Agent := { core := 0, lid := 0, pack := none, asid := (s.trailUse r.owner).asid }

/-- The place of an offset of the buffer, with its leaf. -/
def State.trailAt (s : State) (r : Region) (off : Nat) : Option (Place × Option TlbEntry) :=
  match s.locate (s.trailAgent r) (r.trailBase + BitVec.ofNat 64 off) .store with
  | .ok (.dev pa) e => some (.dev pa, e)
  | _ => none

/-- The place of an offset of the buffer. -/
def State.trailPlace (s : State) (r : Region) (off : Nat) : Option Place := (s.trailAt r off).map (·.1)

/-- A number in the header. -/
def State.trailHdr (s : State) (r : Region) (off n : Nat) : Nat :=
  match s.trailPlace r off with
  | some p => s.peekNat p n
  | none => 0

/-- The D4's own writes to a trail buffer: A and D are set first, and each takes its own write timestamp (R65, R334). -/
def State.putTrail (s : State) (p : Place × Option TlbEntry) (bs : List Byte) : State :=
  let s1 := s.touch p.2 true
  let n := bs.length
  let t := s1.writeTime p.1 n
  { ((s1.pokeN p.1 bs).unmark p.1 n).stamp p.1 n t with ltime := t }

/-- The trail becomes FAILED: its flag in the header, where that can be written, and for good (R367). -/
def State.failTrail (s : State) (r : Region) : State :=
  let s1 := s.setTrailUse { s.trailUse r.owner with failed := true }
  match s1.trailAt r 4 with
  | some p => s1.putTrail p (natLe 4 1)
  | none => s1

/-- Writes a number in the header; a write that fails makes the trail FAILED (R367). -/
def State.setTrailHdr (s : State) (r : Region) (off n v : Nat) : State :=
  match s.trailAt r off with
  | some p => s.putTrail p (natLe n v)
  | none => s.failTrail r

/-- MAGIC of the header (R368). -/
def trailMagic : Nat := 0x54520004

/-- FAILED (R367, R368). -/
def State.trailFailed (s : State) (r : Region) : Bool := (s.trailUse r.owner).failed || s.trailHdr r 0x04 4 % 2 == 1

/-- HEAD, TAIL, WNEXT, WOLD. -/
def State.trailHead (s : State) (r : Region) : Nat := s.trailHdr r 0x08 8
/-- Byte count at which the next entry starts. -/
def State.trailTail (s : State) (r : Region) : Nat := s.trailHdr r 0x10 8
/-- Number of the next window to open. -/
def State.trailNext (s : State) (r : Region) : Nat := s.trailHdr r 0x18 4
/-- Oldest window held in full. -/
def State.trailOld (s : State) (r : Region) : Nat := s.trailHdr r 0x1C 4

/-- The n bytes of the entry area from byte count c on (R368). -/
def State.trailBytes (s : State) (r : Region) (c : Nat) : Nat → List Byte
  | 0 => []
  | n + 1 =>
    (match s.trailPlace r (4096 + c % r.area) with
      | some p => s.peek p
      | none => 0) :: s.trailBytes r (c + 1) n

/-- Kinds of R370. -/
def Kind.store : Nat := 0x01
/-- ATOM. -/
def Kind.atom : Nat := 0x02
/-- COPY. -/
def Kind.copy : Nat := 0x03
/-- DRAIN. -/
def Kind.drain : Nat := 0x04
/-- PHASER. -/
def Kind.phaser : Nat := 0x05
/-- FENCE. -/
def Kind.fence : Nat := 0x08
/-- LWIN. -/
def Kind.lwin : Nat := 0x10
/-- CKPT. -/
def Kind.ckpt : Nat := 0x11
/-- FWIN. -/
def Kind.fwin : Nat := 0x12
/-- REWOUND. -/
def Kind.rewound : Nat := 0x14

/-- The length of an entry, from KIND and SIZE alone (R369, R370). -/
def entryLen (kind size : Nat) : Nat :=
  match kind with
  | 0x01 => if size < 8 then 64 else 288
  | 0x03 => 288
  | 0x04 => 288
  | 0x05 => 288
  | 0x11 => 17952
  | _ => 64

/-- An entry (R369). -/
structure Entry where
  addr : Nat
  ts : Nat
  prev0 : Nat
  prev1 : Nat
  gtid : Nat
  kind : Nat
  size : Nat
  body : List Byte
  deriving DecidableEq, Repr

/-- The bytes of an entry. -/
def Entry.bytes (e : Entry) : List Byte :=
  slice (natLe 8 e.addr ++ natLe 6 e.ts ++ natLe 6 e.prev0 ++ natLe 6 e.prev1 ++ natLe 2 e.gtid
    ++ natLe 1 e.kind ++ natLe 1 e.size ++ natLe 2 0 ++ e.body) 0 (entryLen e.kind e.size)

/-- Reads the entry at byte count c. -/
def State.entryAt (s : State) (r : Region) (c : Nat) : Entry :=
  let h := s.trailBytes r c 32
  let kind := fieldAt h 0x1C 1
  let size := fieldAt h 0x1D 1
  { addr := fieldAt h 0 8, ts := fieldAt h 8 6, prev0 := fieldAt h 0x0E 6, prev1 := fieldAt h 0x14 6,
    gtid := fieldAt h 0x1A 2, kind := kind, size := size, body := s.trailBytes r (c + 32) (entryLen kind size - 32) }

/-- The entries from byte count c up to the tail, each with its byte count, oldest first. -/
def State.entriesFrom (s : State) (r : Region) (c : Nat) : Nat → List (Nat × Entry)
  | 0 => []
  | n + 1 =>
    if s.trailTail r ≤ c then []
    else
      let e := s.entryAt r c
      (c, e) :: s.entriesFrom r (c + entryLen e.kind e.size) n

/-- Every entry held. -/
def State.entries (s : State) (r : Region) : List (Nat × Entry) :=
  s.entriesFrom r (s.trailHead r) ((s.trailTail r - s.trailHead r) / 64 + 1)

/-- Whether an entry opens a window, and its number (R370, R372). -/
def Entry.window (e : Entry) : Option Nat :=
  match e.kind with
  | 0x10 => some (e.addr % 2 ^ 32)
  | 0x11 => some (e.addr % 2 ^ 32)
  | 0x12 => some (fieldAt e.body 0 4)
  | _ => none

/-- The byte count and entry that open window n. -/
def State.windowEntry (s : State) (r : Region) (n : Nat) : Option (Nat × Entry) :=
  (s.entries r).find? fun x => x.2.window == some n

/-- Writes bytes into the entry area, one line at a time; none when a write fails (R367). -/
def State.trailPut (s : State) (r : Region) (c : Nat) (bs : List Byte) : Nat → Option State
  | 0 => some s
  | fuel + 1 =>
    if bs = [] then some s
    else
      let off := c % r.area
      let k := min bs.length (min (r.area - off) (128 - off % 128))
      match s.trailAt r (4096 + off) with
      | none => none
      | some p => (s.putTrail p (bs.take k)).trailPut r (c + k) (bs.drop k) fuel

/-- Appends an entry (R368, R369); a write that fails makes the trail FAILED, and a FAILED trail takes no entry (R367). -/
def State.appendEntry (s : State) (r : Region) (e : Entry) : State :=
  if s.trailFailed r then s
  else
    let tail := s.trailTail r
    let bs := e.bytes
    match s.trailPut r tail bs (bs.length / 64 + 4) with
    | some s1 => s1.setTrailHdr r 0x10 8 (tail + bs.length)
    | none => s.failTrail r

/-- A memory entry for a write of n bytes at a place (R369): the old bytes and the timestamps of its lines. The write
itself then takes the same timestamp. -/
def State.logWrite (s : State) (r : Region) (kind : Nat) (va : Word) (p : Place) (n gtid : Nat) : State :=
  let l0 := p.line
  let l1 := (p.add (n - 1)).line
  s.appendEntry r
    { addr := va.toNat, ts := s.writeTime p n, prev0 := (s.stamps l0).1, prev1 := if l1 = l0 then 0 else (s.stamps l1).1,
      gtid := gtid, kind := kind, size := n - 1, body := s.peekN p n }

/-- A write with its trail entry, if a trail is given: the entry and the write take one timestamp (R186, R224, R369). -/
def State.putLogged (s : State) (tr : Option Region) (kind : Nat) (va : Word) (p : Place) (bs : List Byte) (gtid : Nat) : State :=
  match tr with
  | none => s.put p bs
  | some r => (s.logWrite r kind va p bs.length gtid).putT p bs (s.writeTime p bs.length)

/-- A fence entry with a subkind of R376. -/
def State.logFence (s : State) (r : Region) (sub : Nat) (va : Word) (gtid : Nat) : State :=
  s.appendEntry r { addr := va.toNat, ts := s.ltime, prev0 := 0, prev1 := 0, gtid := gtid, kind := Kind.fence,
                    size := sub, body := [] }

/-! ### A full buffer (R375) -/

/-- Whether n more bytes fit. -/
def State.trailFits (s : State) (r : Region) (n : Nat) : Bool :=
  decide (s.trailTail r - s.trailHead r + s.reservedFor r.owner + n ≤ r.area)

/-- Advances HEAD to the start of the oldest window above WOLD; with only the newest window left, past one entry, and once that
entry is the one that opens the newest window, every window counts as recycled. -/
def State.recycleOnce (s : State) (r : Region) : State :=
  let old := s.trailOld r
  match (s.entries r).find? fun x => match x.2.window with
      | some w => decide (old < w)
      | none => false with
  | some (c, e) =>
    let s1 := s.setTrailHdr r 0x08 8 c
    let s2 := s1.setTrailHdr r 0x1C 4 (e.window.getD 0)
    s2.setTrailHdr r 0x20 8 (min (2 ^ 64 - 1) (s2.trailHdr r 0x20 8 + 1))
  | none =>
    let c := s.trailHead r
    let e := s.entryAt r c
    let s1 := s.setTrailHdr r 0x08 8 (c + entryLen e.kind e.size)
    if e.window.isSome then
      let s2 := if old < s.trailNext r then
          s1.setTrailHdr r 0x20 8 (min (2 ^ 64 - 1) (s1.trailHdr r 0x20 8 + 1)) else s1
      s2.setTrailHdr r 0x1C 4 (s.trailNext r)
    else s1

/-- Recycles until n bytes fit. -/
def State.recycle (s : State) (r : Region) (n : Nat) : Nat → State
  | 0 => s
  | fuel + 1 =>
    if s.trailFits r n ∨ s.trailTail r ≤ s.trailHead r then s else (s.recycleOnce r).recycle r n fuel

/-- What the policy decides about n bytes of entries at step 6 of R124. -/
inductive Admit where
  | go (s : State)
  | stall (s : State)
  /-- The buffer lies on a held page. -/
  | hold (s : State)
  | trap
  deriving DecidableEq, Repr

/-- The first address at which n bytes of entries, or the header, lie on a held page (R335). -/
def State.trailHeld (s : State) (r : Region) (n : Nat) : Option Word :=
  let at' := fun (off : Nat) =>
    let va := r.trailBase + BitVec.ofNat 64 off
    if s.locate (s.trailAgent r) va .store = .held then some va else none
  ((0 :: (List.range (n / 65536 + 2)).map fun k => 4096 + (s.trailTail r + min n (65536 * k)) % r.area).findSome? at')

/-- A wait for a held page of the buffer, or none where there is none to wait for any more: a hold that outlasts TIMEOUT fails
the write (R335, R367). -/
def State.awaitTrail (s : State) (r : Region) (n : Nat) : Option State :=
  let u := s.trailUse r.owner
  if s.retries u.hold then
    match s.trailHeld r n with
    | none => none
    | some va => (s.keepHold (s.trailAgent r) u.hold va).map fun h => s.setTrailUse { u with hold := some h }
  else some s

/-- Whether an event that writes n bytes of entries waits for a held page of the buffer (R335). -/
def State.trailWaits (s : State) (r : Region) (n : Nat) : Bool :=
  match s.trailHeld r n with
  | none => false
  | some va => !(s.trailUse r.owner).hold.any fun h => h.va == va && s.outlasted h.since

/-- Admits n bytes of entries (R186, R375). -/
def State.admitEntry (s : State) (tr : Option Region) (n : Nat) : Admit :=
  match tr with
  | none => .go s
  | some r =>
    if n = 0 ∨ s.trailFailed r then .go s
    else
      match s.awaitTrail r n with
      | some s' => .hold s'
      | none =>
        if s.trailFits r n then .go s
        else
          match r.trail with
          | 1 => .stall (s.setTrailHdr r 0x28 8 (min (2 ^ 64 - 1) (s.trailHdr r 0x28 8 + 1)))
          | 2 => .go (s.recycle r n (s.trailTail r / 64 + 2))
          | _ => .trap

/-- Opens the next window with an entry of a kind (R372): the event takes the next logical time, and every later write
takes a later one. -/
def State.openWindow (s : State) (r : Region) (kind addr size gtid : Nat) (body : Nat → List Byte) : State :=
  let n := s.trailNext r
  let s1 := s.appendEntry r { addr := addr, ts := s.ltime + 1, prev0 := 0, prev1 := 0, gtid := gtid, kind := kind,
                              size := size, body := body n }
  let s2 := s1.setTrailHdr r 0x18 4 (n + 1)
  { s2 with ltime := s2.ltime + 2 }

end Sys2Proof.Machine
end

