-- ==== Sys2Proof/Machine/Futures.lean ====
section
/-! DEFINITION. The pending table, bindings and completions (spec/02 R30-R34, R48, R52-R55), and fault records (spec/20
R350-R353). -/

namespace Sys2Proof.Machine

/-! ### Poison codes (R40) -/

/-- MOVED. -/
def Poison.moved : Nat := 0x0001
/-- DROPPED. -/
def Poison.dropped : Nat := 0x0002
/-- Translation fault. -/
def Poison.fault : Nat := 0x0010
/-- Refused. -/
def Poison.refused : Nat := 0x0011
/-- Dead link. -/
def Poison.dead : Nat := 0x0012
/-- Bus or laser lost. -/
def Poison.laser : Nat := 0x0020
/-- Tile fault. -/
def Poison.tile : Nat := 0x0021
/-- Input ring poisoned. -/
def Poison.ring : Nat := 0x0022
/-- PHASER_FAULT. -/
def Poison.phaser : Nat := 0x0030
/-- Phaser broken. -/
def Poison.broken : Nat := 0x0031
/-- Collective aborted. -/
def Poison.coll : Nat := 0x0040
/-- Uncorrectable soft error. -/
def Poison.soft : Nat := 0x0050
/-- BAD_STREAM_OP. -/
def Poison.stream : Nat := 0x0060

/-! ### Producer classes (R31) -/

/-- Load/store unit. -/
def Cls.lsu : Nat := 0
/-- Stack logic. -/
def Cls.stack : Nat := 1
/-- Copy engine. -/
def Cls.copy : Nat := 2
/-- Sequence unit. -/
def Cls.seq : Nat := 3
/-- Receive stream sequencer. -/
def Cls.rx : Nat := 4
/-- Transmit stream sequencer. -/
def Cls.tx : Nat := 5
/-- Collective walker. -/
def Cls.coll : Nat := 6
/-- Shepherd. -/
def Cls.shepherd : Nat := 7
/-- Phaser and semaphore unit. -/
def Cls.phaser : Nat := 8
/-- Translation unit. -/
def Cls.xlat : Nat := 9
/-- Fabric link. -/
def Cls.link : Nat := 10

/-! ### Fault records (R350-R353) -/

/-- What a record holds beside SEQ and NOW (R352). -/
structure Rec where
  kind : Nat
  cause : Nat
  code : Nat
  pc : Word
  addr : Word
  info : Word
  w0 : BitVec 32
  w1 : BitVec 32
  gtid : Nat
  cls : Nat
  reason : Nat
  lid : Nat
  deriving DecidableEq, Repr

/-- The 64 bytes of a record (R352). -/
def Rec.bytes (r : Rec) (n now : Nat) : List Byte :=
  slice (natLe 4 n ++ natLe 1 r.kind ++ natLe 1 r.cause ++ natLe 2 r.code ++ natLe 8 r.pc.toNat ++ natLe 8 r.addr.toNat
    ++ natLe 8 r.info.toNat ++ natLe 4 r.w0.toNat ++ natLe 4 r.w1.toNat ++ natLe 2 r.gtid ++ natLe 1 r.cls
    ++ natLe 1 r.reason ++ natLe 4 r.lid ++ natLe 8 now) 0 64

/-- FRLOST of a core advances (R351). -/
def State.lost (s : State) (core : Nat) : State :=
  let k := s.core core
  s.setCore core { k with frlost := k.frlost + 1 }

/-- The place of n bytes that an SC-domain access of an agent reaches without waiting; none where it fails, is held, or
lies outside the SC domain. -/
def State.reach (s : State) (ag : Agent) (va : Word) (need : Need) : Option (Place × Option TlbEntry) :=
  match s.locate ag va need with
  | .ok p e => if p.sc then some (p, e) else none
  | _ => none

/-- Allocates and writes a record in the ring at frbase; the slot, or 0xFFFF (R351). -/
def State.writeRecord (s : State) (ag : Agent) (frbase : Word) (r : Rec) : State × Nat :=
  if frbase = 0 then (s.lost ag.core, 0xFFFF)
  else
    match s.reach ag frbase .rmw with
    | none => (s.lost ag.core, 0xFFFF)
    | some (h, e) =>
      let log2n := s.peekNat (h.add 8) 1
      if (s.firstMark h 0 64).isSome ∨ log2n < 4 ∨ 12 < log2n then (s.lost ag.core, 0xFFFF)
      else
        let s1 := s.touch e true
        let prod := s1.peekNat h 4
        let cons := s1.peekNat (h.add 4) 4
        let n := 2 ^ log2n
        if n ≤ (prod + 2 ^ 32 - cons) % 2 ^ 32 then
          let ovf := s1.peekNat (h.add 0x10) 4
          (s1.put (h.add 0x10) (natLe 4 (min 0xFFFFFFFF (ovf + 1))), 0xFFFF)
        else
          match s1.reach ag (frbase + 64 + BitVec.ofNat 64 (64 * (prod % n))) .store with
          | none => (s1.lost ag.core, 0xFFFF)
          | some (p, e') =>
            let s2 := (s1.put h (natLe 4 (prod + 1))).touch e' true
            (s2.put p (r.bytes prod s.now.toNat), prod % n)

/-! ### The pending table (R33, R34) -/

/-- Whether a binding holds an entry of a core's pending table, and for which thread: a binding that was detached or discarded
holds none. -/
def Bind.holder (b : Bind) : Option Nat :=
  match b.loc with
  | .reg g _ => some g
  | .sink g => some g
  | _ => none

/-- Entries that a thread holds. -/
def State.heldBy (s : State) (g : Nat) : Nat := (s.binds.filter fun b => b.holder == some g).length

/-- Free entries of a core. -/
def State.freeEntries (s : State) (core : Nat) : Nat :=
  Config.pendingEntries - (s.binds.filter fun b => b.holder.isSome && b.entryCore == core).length

/-- Whether thread g of a core is resident and has not exited: a thread that has exited issues nothing more and keeps no reserve
(DESIGN CHOICE, notes/assumptions/37.md). -/
def State.lives (s : State) (g : Nat) : Bool :=
  match (s.thread g).status with
  | .idle | .exited => false
  | _ => true

/-- The unused reserves of the other threads of g's core (R33). -/
def State.otherReserves (s : State) (g : Nat) : Nat :=
  ((List.range 8).map fun i =>
    let h := coreOf g * 8 + i
    if h = g ∨ !s.lives h then 0 else Config.reserve - s.heldBy h).foldl (· + ·) 0

/-- The epoch of an entry. -/
def State.epoch (s : State) (core slot : Nat) : Nat := tget 0 s.epochs (core * 512 + slot)

/-- Whether an issue tag with a core, a slot and an epoch may still come back with a completion (R34). -/
def State.tagLives (s : State) (core slot epoch : Nat) : Bool :=
  let hit := fun (t : ITag) => t.core == core && t.slot == slot && t.epoch == epoch
  (s.binds.any fun b => hit b.tag) || s.flying.any fun f => hit f.tag

/-- The entry that a producer takes, if any: the lowest free one whose next issue tag no completion may still carry (R34). -/
def State.freeSlot (s : State) (core : Nat) : Option Nat :=
  findFrom (fun i => !(s.binds.any fun b => b.holder.isSome && b.entryCore == core && b.entry == i)
    && !s.tagLives core i ((s.epoch core i + 1) % 256)) 0 512

/-- Whether a producer of thread g finds an entry (R33), and one of the free ones may be used again (R34). -/
def State.mayBind (s : State) (g : Nat) : Bool :=
  (decide (s.heldBy g < Config.reserve) || decide (s.otherReserves g < s.freeEntries (coreOf g)))
    && (s.freeSlot (coreOf g)).isSome

/-- The 32-bit tag of a binding in the pending table (R30). -/
def tagBits (epoch cls slot : Nat) : BitVec 32 := BitVec.ofNat 32 (epoch * 2 ^ 24 + cls * 2 ^ 20 + slot)

/-- Binds register i of thread g to a producer of a class (R32, R33); a producer issues only where mayBind holds, so that there
is an entry. -/
def State.bind (s : State) (g i cls : Nat) (mask : BitVec 256) : State × ITag :=
  let core := coreOf g
  let slot := (s.freeSlot core).getD 0
  let ep := (s.epoch core slot + 1) % 256
  let tag : ITag := ⟨core, cls, slot, ep⟩
  let loc := if isConst i then Loc.sink g else Loc.reg g i
  let b : Bind := { tag := tag, entryCore := core, entry := slot, loc := loc, mask := mask }
  let s1 : State := { s with epochs := tset s.epochs (core * 512 + slot) ep, binds := s.binds ++ [b] }
  (s1.setThread g ((s1.thread g).setState i (.pending (tagBits ep cls slot))), tag)

/-- What the current thread's command keeps of it. -/
def State.ctx (s : State) : Ctx :=
  let t := s.thr
  let k := s.core (coreOf s.cur)
  { gtid := s.cur, asid := t.asid, pc := t.pc, w0 := s.ir0, w1 := s.ir1, frbase := t.frbase, pack := t.pack, rank := t.rank,
    bounds := (k.pb0, k.pb2) }

/-! ### Waking (R48) -/

/-- Whether register i of a thread is pending. -/
def Thread.isPending (t : Thread) (i : Nat) : Bool :=
  match t.rstate i with
  | .pending _ => true
  | _ => false

/-- A parked thread of a core wakes when nothing it names is pending, or when an entry has freed for it. -/
def State.wake (s : State) (freed : Bool) (g : Nat) : State :=
  let t := s.thread g
  if t.status = .parked then
    if t.waitsEntry then
      if freed && s.mayBind g then s.setThread g { t with status := .ready, woke := true, waitsEntry := false } else s
    else if t.waitsOn.any fun i => t.isPending i then s
    else s.setThread g { t with status := .ready, woke := true }
  else s

/-- The wakes of one core. -/
def State.wakeCore (s : State) (core : Nat) (freed : Bool) : State :=
  (List.range 8).foldl (fun a i => a.wake freed (core * 8 + i)) s

/-! ### Completions (R32, R34, R52, R54) -/

/-- Bytes of a core block (R358). -/
def coreBlockBytes (tpc pb2 : Nat) : Nat := 0x5000 + (pb2 - 4 * tpc) * 4096 + tpc * 0xF000

/-- The device physical address of a pack's kennel (R357, R358). -/
def State.kennelPa (s : State) (unit : Nat) : Nat := (s.cfield 0x3000 47 21 + unit) * 2 ^ 21

/-- The device physical address of a thread block of a pack that is out (R358-R360). -/
def State.threadBlockPa (s : State) (key rank : Nat) : Option Nat :=
  match s.pack? key, s.launch? (key / 2 ^ 24) with
  | some p, some l =>
    p.out.map fun u =>
      s.kennelPa u + 4096 + rank / l.tpc * coreBlockBytes l.tpc l.pb2 + 0x5000 + (l.pb2 - 4 * l.tpc) * 4096
        + rank % l.tpc * 0xF000
  | _, _ => none

/-- The binding with an issue tag. -/
def State.bound? (s : State) (tag : ITag) : Option Bind := s.binds.find? fun b => b.tag == tag

/-- Removes the binding with an issue tag. -/
def State.unbind (s : State) (tag : ITag) : State := { s with binds := s.binds.filter fun b => b.tag ≠ tag }

/-- CPLDROP of a core advances. -/
def State.cpldrop (s : State) (core : Nat) : State :=
  let k := s.core core
  s.setCore core { k with cpldrop := k.cpldrop + 1 }

/-- CPLSTALE of a core advances. -/
def State.cplstale (s : State) (core : Nat) : State :=
  let k := s.core core
  s.setCore core { k with cplstale := k.cplstale + 1 }

/-- The bytes of a vector, least significant first. -/
def vecBytes (v : Vec) : List Byte := natLe 256 v.toNat

/-- A completion slot takes its result (R52, R361). -/
def State.landSlot (s : State) (pa : Nat) (mask : BitVec 256) (r : Sum Vec (BitVec 32)) : State :=
  match r with
  | .inl v =>
    let reg := s.peekNat (.dev (pa + 5)) 1
    let old := BitVec.ofNat 2048 (s.peekNat (.dev (pa + 0x20)) 256)
    let new := if 64 ≤ reg ∧ reg < 128 then mergeBytes mask old v else (v.setWidth 64).setWidth 2048
    (s.put (.dev (pa + 0x20)) (vecBytes new)).put (.dev (pa + 4)) [1]
  | .inr pv => (s.put (.dev (pa + 0x20)) (natLe 4 pv.toNat)).put (.dev (pa + 4)) [2]

/-- The completion of a command ends without a register to write: one that was detached counts in CPLDROP, and any other in
CPLSTALE, at the core that issued it (R44, R54, R55; DESIGN CHOICE, notes/assumptions/37.md: the core that issued the command). -/
def State.discard (s : State) (tag : ITag) : State :=
  let s1 := (s.unbind tag).wakeCore tag.core true
  if s.binds.any fun b => b.tag == tag && b.loc == .dropped then s1.cpldrop tag.core else s1.cplstale tag.core

/-- A completion is over: its binding goes, and with it the entry that it held on a core, and its issue tag may be used again on
the core that issued the command; threads of both cores that wait for an entry wake (R33, R34, R48). -/
def State.landed (s : State) (tag : ITag) (core : Nat) : State :=
  let s1 := (s.unbind tag).wakeCore core true
  if tag.core = core then s1 else s1.wakeCore tag.core true

/-- A result reaches its binding: the register, the kennel slot, or nothing (R11, R34, R52, R54). -/
def State.deliver (s : State) (tag : ITag) (r : Sum Vec (BitVec 32)) : State :=
  match s.bound? tag with
  | none => (s.cplstale tag.core).landed tag tag.core
  | some b =>
    match b.loc with
    | .dropped | .stale => s.discard tag
    | .sink _ | .orphan _ => s.landed tag b.entryCore
    | .reg g i =>
      let t := s.thread g
      let t1 := match r with
        | .inl v => t.setValue i (if 64 ≤ i ∧ i < 128 then mergeBytes b.mask (t.value i) v else v)
        | .inr pv => t.setState i (.poisoned pv)
      (s.setThread g t1).landed tag (coreOf g)
    | .slot pack rank n =>
      let s1 := s.landed tag tag.core
      match s1.threadBlockPa pack rank with
      | none => s1.cplstale tag.core
      | some pa => s1.landSlot (pa + 0x4600 + 288 * n) b.mask r

/-- FRBASE of a command's thread now, resident or in its kennel; of a thread that is gone, FRBASE at its issue (R151). -/
def State.recordRing (s : State) (ctx : Ctx) : Word :=
  let t := s.thread ctx.gtid
  if t.status ≠ .idle ∧ t.pack = ctx.pack ∧ t.rank = ctx.rank then t.frbase
  else
    match s.threadBlockPa ctx.pack ctx.rank with
    | some pa => BitVec.ofNat 64 (s.peekNat (.dev (pa + 0x38)) 8) &&& 0x000FFFFFFFFFFFC0
    | none => ctx.frbase

/-- The record of a poisoned completion and its poison value (R41, R351-R353). -/
def State.poisonRecord (s : State) (ctx : Ctx) (cls code : Nat) (addr info : Word) (reason : Nat) :
    State × BitVec 32 :=
  let (s1, idx) := s.writeRecord ctx.agent (s.recordRing ctx)
    { kind := 1, cause := 0, code := code, pc := ctx.pc, addr := addr, info := info, w0 := ctx.w0, w1 := ctx.w1,
      gtid := ctx.gtid, cls := cls, reason := reason, lid := ctx.pack / 2 ^ 24 }
  (s1, poisonValue idx code)

/-- A completion finds its pending-table entry with an uncorrectable soft error: what it delivers is poison 0x0050, and the
entry is written anew as it comes free (R415). -/
def State.spoiledEntry (s : State) (f : Flight) : State × Result :=
  if s.marks.contains (.pending f.tag) then
    ({ s with marks := s.marks.filter fun m => m != .pending f.tag }, .poison Poison.soft 0 0 0)
  else (s, f.res)

/-- A completion arrives (R32, R41, R415). -/
def State.complete (s0 : State) (f : Flight) : State :=
  let (s, res) := s0.spoiledEntry f
  match res with
  | .full v => s.deliver f.tag (.inl v)
  | .poison code addr info reason =>
    let (s1, pv) := s.poisonRecord f.ctx f.tag.cls code addr info reason
    s1.deliver f.tag (.inr pv)
  | .recorded pv => s.deliver f.tag (.inr pv)
  | .reset _ _ _ _ => s.deliver f.tag (.inl 0)

/-- The records of poisoned results that set out in this step, in order: a producer writes its record before it poisons
(R41). -/
def State.writeRecords (s : State) : State :=
  s.flying.foldl (fun a f =>
    match f.res with
    | .poison code addr info reason =>
      let (b, pv) := a.poisonRecord f.ctx f.tag.cls code addr info reason
      { b with flying := b.flying.map fun x => if x.tag = f.tag then { x with res := .recorded pv } else x }
    | _ => a) s

/-- Completions of the phaser and semaphore unit reach their bindings in the step in which they set out: a flip completes every
wait of a core at once (R50, R202). -/
def State.landWaits (s : State) : State :=
  let (now, later) := s.flying.partition fun f => f.tag.cls == Cls.phaser
  if now = [] then s else now.foldl State.complete { s with flying := later }

/-! ### Detaching (R44, R55, R356) -/

/-- Detaches the binding that lies in register i of thread g. -/
def State.detach (s : State) (g i : Nat) : State :=
  { s with binds := s.binds.map fun b => if b.loc = .reg g i then { b with loc := .dropped } else b }

/-- The issue tag of the binding in register i of thread g. -/
def State.tagOf (s : State) (g i : Nat) : Option ITag :=
  (s.binds.find? fun b => b.loc == .reg g i).map (·.tag)

end Sys2Proof.Machine
end

