-- ==== Sys2Proof/Machine/Phaser.lean ====
section
/-! DEFINITION. Phasers (spec/08 R201-R208, spec/13 R281-R287): the 32 bytes, the flip, arrivals, roles, counted bytes
and the settlement of a thread that ends. -/

namespace Sys2Proof.Machine

/-- The fields of a phaser (R281). -/
structure Ph where
  phase : BitVec 32
  nsig : BitVec 16
  nwait : BitVec 16
  narr : BitVec 16
  tolerant : Bool
  broken : Bool
  fault : Bool
  lfault : Bool
  inc : BitVec 8
  expb : Nat
  arrb : Nat
  deriving DecidableEq, Repr

/-- The phaser that 32 bytes hold. -/
def Ph.ofBytes (bs : List Byte) : Ph where
  phase := BitVec.ofNat 32 (fieldAt bs 0 4)
  nsig := BitVec.ofNat 16 (fieldAt bs 4 2)
  nwait := BitVec.ofNat 16 (fieldAt bs 6 2)
  narr := BitVec.ofNat 16 (fieldAt bs 8 2)
  tolerant := nbits (fieldAt bs 0x0A 1) 0 0 == 1
  broken := nbits (fieldAt bs 0x0A 1) 1 1 == 1
  fault := nbits (fieldAt bs 0x0A 1) 2 2 == 1
  lfault := nbits (fieldAt bs 0x0A 1) 3 3 == 1
  inc := BitVec.ofNat 8 (fieldAt bs 0x0B 1)
  expb := fieldAt bs 0x10 5
  arrb := fieldAt bs 0x18 5

/-- The 32 bytes of a phaser; reserved bytes are zero. -/
def Ph.bytes (p : Ph) : List Byte :=
  natLe 4 p.phase.toNat ++ natLe 2 p.nsig.toNat ++ natLe 2 p.nwait.toNat ++ natLe 2 p.narr.toNat
    ++ natLe 1 (boolNat p.tolerant + 2 * boolNat p.broken + 4 * boolNat p.fault + 8 * boolNat p.lfault)
    ++ natLe 1 p.inc.toNat ++ natLe 4 0 ++ natLe 5 p.expb ++ natLe 3 0 ++ natLe 5 p.arrb ++ natLe 3 0

/-- The phaser at a place. -/
def State.ph (s : State) (p : Place) : Ph := Ph.ofBytes (s.peekN p 32)

/-- Whether it holds a registration (R282). -/
def Ph.live (p : Ph) : Bool := !p.broken && decide (0 < p.nsig.toNat + p.nwait.toNat)

/-- Writes a phaser as one access with a given timestamp (R65, R202). -/
def State.setPhT (s : State) (p : Place) (x : Ph) (t : Nat) : State :=
  let s1 := ((s.pokeN p x.bytes).stamp p 32 t).spoil p 32
  let others := s1.phasers.filter fun q => !samePlace q p
  { s1 with ltime := max s1.ltime t, phasers := if x.live then p :: others else others }

/-- Writes a phaser as one access, at the time that its line gives it (R202). -/
def State.setPh (s : State) (p : Place) (x : Ph) : State := s.setPhT p x (s.writeTime p 32)

/-- Whether a byte lies in the staging of its core (R20), whose changes no PHASER entry holds (R370). -/
def State.staged (s : State) (p : Place) : Bool :=
  match p with
  | .pool c _ o => decide ((s.core c).pb1 * 4096 ≤ o)
  | _ => false

/-- The PHASER entry of a change (R186, R224, R370): the phaser's old 32 bytes, but for one that lies in STG. -/
def State.logPh (s : State) (tr : Option Region) (va : Word) (p : Place) (gtid : Nat) : State :=
  match tr with
  | some r => if p.sc && !s.staged p then s.logWrite r Kind.phaser va p 32 gtid else s
  | none => s

/-- A change of a phaser and its entry take one timestamp (R369). -/
def State.writePh (s : State) (tr : Option Region) (va : Word) (p : Place) (gtid : Nat) (x : Ph) : State :=
  (s.logPh tr va p gtid).setPhT p x (s.writeTime p 32)

/-- A change of a phaser with its entry (R186, R202): a change that leaves every field as it was writes nothing. -/
def State.changePh (s : State) (tr : Option Region) (va : Word) (p : Place) (gtid : Nat) (x : Ph) : State :=
  if x = s.ph p then s else s.writePh tr va p gtid x

/-- PH.WAIT's completion word (R206). -/
def waitWord (phase token : Nat) : Vec :=
  BitVec.ofNat 2048 ((phase + 2 ^ 32 - token) % 2 ^ 32 * 2 ^ 32 + phase % 2 ^ 32)

/-- The trails, with PHWIN set, of the regions that hold a registration with the phaser at p (R372). -/
def State.flipTrails (s : State) (p : Place) : List Region :=
  ((s.phOwners.filter fun o => samePlace o.1 p).filterMap fun o =>
    (s.trailOf o.2).filter fun r => r.phwin).foldl
      (fun acc r => if acc.any fun q => q.owner == r.owner then acc else acc ++ [r]) []

/-- Whether n bytes of an event's entries can be recorded in a trail now: they fit, or RECYCLE makes them fit (R375). Under TRAP,
where no instruction could trap, the event waits as under STALL (DEDUCED, notes/assumptions/12.md). A buffer on a held page is
waited for (R335). -/
def State.eventFits (s : State) (r : Region) (n : Nat) : Bool :=
  s.trailFailed r || (!s.trailWaits r n && (r.trail == 2 || s.trailFits r n))

/-- Whether a window event can be recorded in a trail now. -/
def State.windowFits (s : State) (r : Region) : Bool := s.eventFits r 64

/-- Makes room for n bytes of an event's entries under RECYCLE. -/
def State.makeRoom (s : State) (r : Region) (n : Nat) : State :=
  if r.trail = 2 ∧ s.trailFailed r = false then s.recycle r n (s.trailTail r / 64 + 2) else s

/-- An event waits for room for n bytes: STALLS advances (R375), or a held page of the buffer is waited for (R335). -/
def State.countStall (s : State) (r : Region) (n : Nat) : State :=
  match s.awaitTrail r n with
  | some s' => s'
  | none => if r.trail = 1 then s.setTrailHdr r 0x28 8 (min (2 ^ 64 - 1) (s.trailHdr r 0x28 8 + 1)) else s

/-- A flip that cannot be recorded waits (R375). -/
def State.deferFlip (s : State) (tr : Option Region) (asid : BitVec 16) (va : Word) (p : Place) (full : List (Region × Nat)) : State :=
  if s.flips.any fun x => samePlace x.place p then s
  else
    let s1 := full.foldl (fun a r => a.countStall r.1 r.2) s
    { s1 with flips := s1.flips ++ [{ va := va, asid := asid, place := p, region := tr.map (·.rcb), hold := none }] }

/-- The condition of R202. -/
def Ph.flips (x : Ph) : Bool :=
  !x.broken && (decide (0 < x.nsig.toNat) || decide (0 < x.expb)) && decide (x.nsig.toNat ≤ x.narr.toNat)
    && (decide (x.expb ≤ x.arrb) || x.fault)

/-- The trails that a flip writes to, each with the bytes of its entries: 64 for a window, and 288 for the PHASER entry in the
trail of the access that causes it (R370, R372; DEDUCED, notes/assumptions/12.md). -/
def flipRooms (windows : List Region) (tr : Option Region) : List (Region × Nat) :=
  let ws := windows.map fun r => (r, if tr.any (fun q => q.owner == r.owner) then 352 else 64)
  match tr with
  | some r => if windows.any fun q => q.owner == r.owner then ws else ws ++ [(r, 288)]
  | none => ws

/-- Evaluates the flip condition of R202 once and completes the waits of a flip (R206); `tr` and `asid` are the trail and the
address space of the access that causes it. -/
def State.flip (s : State) (tr : Option Region) (asid : BitVec 16) (va : Word) (p : Place) : State :=
  let x := s.ph p
  let trails := s.flipTrails p
  let rooms := flipRooms trails (if s.staged p then none else tr)
  let full := rooms.filter fun r => !s.eventFits r.1 r.2
  if !x.flips then s
  else if full ≠ [] then s.deferFlip tr asid va p full
  else
    let room := rooms.foldl (fun a r => a.makeRoom r.1 r.2)
      { s with flips := s.flips.filter fun f => !samePlace f.place p }
    let s0 := trails.foldl (fun a r => a.openWindow r Kind.fwin va.toNat 0 0xFFFF fun n => natLe 4 n) room
    let y := { x with phase := x.phase + 1, lfault := x.fault, fault := false, narr := 0, arrb := 0 }
    let s1 := s0.writePh tr va p 0xFFFF y
    let hit := s1.phWaits.filter fun w => samePlace w.place p
    let s2 := { s1 with phWaits := s1.phWaits.filter fun w => !samePlace w.place p }
    hit.foldl (fun a w =>
      a.fly w.tag w.ctx (if y.lfault then .poison Poison.phaser 0 0 0 else .full (waitWord y.phase.toNat w.token))) s2

/-- A flip that waits finds its phaser again where the page of its last walk was held or is covered by an invalidation (R341): it
goes on at its place, waits on, or ends with an address that fails. -/
def State.refind (s : State) (f : HeldFlip) : Option HeldFlip :=
  match f.hold with
  | none => some f
  | some _ =>
    let ag : Agent := { core := 0, lid := 0, pack := none, asid := f.asid }
    match s.locate ag f.va .rmw with
    | .ok p _ => if p.sc then some { f with place := p, hold := none } else none
    | .held => (s.keepHold ag f.hold f.va).map fun h => { f with hold := some h }
    | _ => none

/-- One flip that waits tries again (R341, R375). -/
def State.retryFlip (s : State) (f : HeldFlip) : State :=
  let s1 := { s with flips := s.flips.filter fun x => x ≠ f }
  match s.refind f with
  | none => s1
  | some f' =>
    if f'.hold.isSome then { s with flips := s.flips.map fun x => if x = f then f' else x }
    else if (s.ph f'.place).flips then
      let s2 := { s with flips := s.flips.map fun x => if x = f then f' else x }
      s2.flip ((f.region.bind s.region?).filter fun r => r.trail != 0) f.asid f.va f'.place
    else s1

/-- The flips that wait for room, or for a held page, try again (R335, R375). -/
def State.retryFlips (s : State) : State := s.flips.foldl (fun a f => if a.retries f.hold then a.retryFlip f else a) s

/-- Whether the flip of a phaser waits for room in a trail, so that what follows the flip waits too (R307, R375). -/
def State.flipWaits (s : State) (p : Place) : Bool := s.flips.any fun f => samePlace f.place p

/-- Adds counted bytes to a phaser that is not BROKEN (R221, R283). -/
def State.phAdd (s : State) (tr : Option Region) (asid : BitVec 16) (va : Word) (p : Place) (n : Nat) : State :=
  let x := s.ph p
  if x.broken then s
  else
    (s.changePh tr va p 0xFFFF { x with arrb := min (2 ^ 40 - 1) (x.arrb + n) }).flip tr asid va p

/-- Sets FAULT of a phaser that is not BROKEN (R80, R221). -/
def State.phFault (s : State) (tr : Option Region) (asid : BitVec 16) (va : Word) (p : Place) : State :=
  let x := s.ph p
  if x.broken then s
  else
    (s.changePh tr va p 0xFFFF { x with fault := true }).flip tr asid va p

/-! ### A thread's registrations -/

/-- The registration of a thread with the phaser at an address. -/
def Thread.reg? (t : Thread) (va : Word) : Option Registration := t.regs.find? fun r => r.va == va

/-- Frees the registration with an address. -/
def Thread.freeReg (t : Thread) (va : Word) : Thread := { t with regs := t.regs.filter fun r => r.va ≠ va }

/-- Replaces the registration with r's address. -/
def Thread.putReg (t : Thread) (r : Registration) : Thread :=
  { t with regs := t.regs.map fun q => if q.va = r.va then r else q }

/-- The registration that is not stale (R282). -/
def Thread.liveReg (t : Thread) (va : Word) (x : Ph) : Option Registration :=
  (t.reg? va).filter fun r => r.inc == x.inc

/-- Frees the registration of thread g with the phaser at va, place p. A stale one was no registration of the phaser as it is
(R282). -/
def State.freeReg (s : State) (g : Nat) (va : Word) (p : Place) : State :=
  let t := s.thread g
  let own := (p, t.pack)
  let s1 := s.setThread g (t.freeReg va)
  if (t.liveReg va (s.ph p)).isSome then { s1 with phOwners := s1.phOwners.erase own } else s1

/-- Changes the counts of a phaser and thread g's registration from role r to the role (sig, wait): R204. -/
def changeRole (x : Ph) (r : Registration) (sig wait : Bool) : Ph × Registration :=
  let x1 := if sig && !r.sig then { x with nsig := x.nsig + 1 }
    else if !sig && r.sig then
      { x with nsig := x.nsig - 1, narr := if r.arrived = x.phase then x.narr - 1 else x.narr }
    else x
  let x2 := if wait && !r.wait then { x1 with nwait := x1.nwait + 1 }
    else if !wait && r.wait then { x1 with nwait := x1.nwait - 1 }
    else x1
  (x2, { r with sig := sig, wait := wait, arrived := if sig && !r.sig then x.phase - 1 else r.arrived })

/-- PH.ROLE with a role other than 0b00 through a registration r (R204). -/
def State.phSetRole (s : State) (g : Nat) (tr : Option Region) (va : Word) (p : Place) (r : Registration)
    (sig wait : Bool) : State :=
  let (x, r') := changeRole (s.ph p) r sig wait
  let s1 := s.changePh tr va p g x
  (s1.setThread g ((s1.thread g).putReg r')).flip tr (s.thread g).asid va p

/-- PH.DEREG through a registration r (R204). -/
def State.phDrop (s : State) (g : Nat) (tr : Option Region) (va : Word) (p : Place) (r : Registration) : State :=
  let (x, _) := changeRole (s.ph p) r false false
  ((s.changePh tr va p g x).freeReg g va p).flip tr (s.thread g).asid va p

/-- PH.DEREG (R204): through a stale registration, and on a BROKEN phaser, only the registration is freed. -/
def State.phDereg (s : State) (g : Nat) (tr : Option Region) (va : Word) (p : Place) : State :=
  let x := s.ph p
  match (s.thread g).reg? va with
  | none => s
  | some r => if x.broken || r.inc != x.inc then s.freeReg g va p else s.phDrop g tr va p r

/-- PH.ROLE (R204). -/
def State.phRole (s : State) (g : Nat) (tr : Option Region) (va : Word) (p : Place) (role : Nat) : State :=
  if role = 0 then s.phDereg g tr va p
  else
    let x := s.ph p
    match (s.thread g).reg? va with
    | none => s
    | some r =>
      if x.broken || r.inc != x.inc then s.freeReg g va p
      else s.phSetRole g tr va p r (role % 2 == 1) (role / 2 == 1)

/-- A new registration (R204): a new signaller has not arrived. -/
def State.phNew (s : State) (g : Nat) (tr : Option Region) (va : Word) (p : Place) (role : Nat) : State :=
  let x := s.ph p
  let blank : Registration := { va := va, sig := false, wait := false, inc := x.inc, arrived := x.phase - 1 }
  let (x', r) := changeRole x blank (role % 2 == 1) (role / 2 == 1)
  let s1 := s.changePh tr va p g x'
  let t := s1.thread g
  let s2 := s1.setThread g { t with regs := t.regs ++ [r] }
  let s3 : State := { s2 with phOwners := s2.phOwners ++ [(p, t.pack)] }
  s3.flip tr t.asid va p

/-- PH.REG with a role other than 0b00 (R204). -/
def State.phReg (s : State) (g : Nat) (tr : Option Region) (va : Word) (p : Place) (role : Nat) : State :=
  let x := s.ph p
  match (s.thread g).reg? va with
  | some r =>
    if x.broken then s.freeReg g va p
    else if r.inc = x.inc then s.phSetRole g tr va p r (role % 2 == 1) (role / 2 == 1)
    else
      let s0 := s.freeReg g va p
      s0.phNew g tr va p role
  | none => if x.broken then s else s.phNew g tr va p role

/-- Arrival through a signaller registration r that has not arrived for the phase (R205). -/
def State.phArrive (s : State) (g : Nat) (tr : Option Region) (va : Word) (p : Place) (r : Registration) : State :=
  let x := s.ph p
  let s1 := s.changePh tr va p g { x with narr := x.narr + 1 }
  (s1.setThread g ((s1.thread g).putReg { r with arrived := x.phase })).flip tr (s.thread g).asid va p

/-- PH.INIT (R208). -/
def State.phInit (s : State) (g : Nat) (tr : Option Region) (va : Word) (p : Place) (expb : Nat) (tol : Bool) : State :=
  let x := s.ph p
  if x.live then (s.changePh tr va p g { x with broken := true }).poisonWaits p Poison.broken
  else
    let s1 := s.changePh tr va p g
      { phase := 0, nsig := 0, nwait := 0, narr := 0, tolerant := tol, broken := false, fault := false,
        lfault := false, inc := x.inc + 1, expb := expb, arrb := 0 }
    -- Registrations of the incarnation before are stale from here on: no region holds one of this one (R282, R372).
    { s1 with phOwners := s1.phOwners.filter fun o => !samePlace o.1 p }

/-! ### Threads that end (R154, R285) -/

/-- Where the settlement of a registration finds its phaser: a failing, refused or marked access settles nothing, nor
does a kill at a held page (R285). -/
def State.settlePlace (s : State) (ag : Agent) (va : Word) : Option (Place × Option TlbEntry) :=
  (s.reach ag va .rmw).filter fun x => (s.firstMark x.1 0 32).isNone

/-- EXIT's arrival through one registration: that of a signaller that has not arrived (R154, R285). -/
def State.exitArrive (s : State) (g : Nat) (tr : Option Region) (r : Registration) : State :=
  match s.settlePlace (s.agentOf g) r.va with
  | none => s
  | some (p, e) =>
    let x := s.ph p
    if !x.broken && r.inc == x.inc && r.sig && r.arrived != x.phase then (s.touch e true).phArrive g tr r.va p r
    else s.touch e false

/-- EXIT's deregistration of one registration (R154, R285). -/
def State.exitDereg (s : State) (g : Nat) (tr : Option Region) (r : Registration) : State :=
  match s.settlePlace (s.agentOf g) r.va with
  | none =>
    let t := s.thread g
    s.setThread g (t.freeReg r.va)
  | some (p, e) =>
    let x := s.ph p
    if x.broken || r.inc != x.inc then (s.touch e false).freeReg g r.va p else (s.touch e true).phDereg g tr r.va p

/-- A kill settles one registration of a thread, at an agent (R285): one with both roles by its signaller column alone. The
registration is freed by the caller. -/
def State.killReg (s : State) (ag : Agent) (pack : Nat) (r : Registration) : State :=
  match s.settlePlace ag r.va with
  | none => s
  | some (p, e) =>
    let x := s.ph p
    let s1 := { s with phOwners := if r.inc = x.inc then s.phOwners.erase (p, pack) else s.phOwners }
    if x.broken || r.inc != x.inc then s1.touch e false
    else
      let s2 := s1.touch e true
      if r.sig ∧ !x.tolerant then (s2.setPh p { x with broken := true }).poisonWaits p Poison.broken
      else
        let x1 := if r.sig then
            { x with nsig := x.nsig - 1, narr := if r.arrived = x.phase then x.narr - 1 else x.narr }
          else if r.wait then { x with nwait := x.nwait - 1 }
          else x
        (s2.setPh p x1).flip (s2.trailOf pack) ag.asid r.va p

end Sys2Proof.Machine
end

