-- ==== Sys2Proof/Machine/Kill.lean ====
section
/-! DEFINITION. How packs and launches end: the completion of a launch (spec/18 R328), the kill of a pack (spec/20 R356),
the settlement of its registrations (spec/13 R285), and the resources that come free. -/

namespace Sys2Proof.Machine

/-- A stream parameter block of zeros. -/
def zeroParam : SParam :=
  { obase := 0, ostep := 0, opitch := 0, start := 0, lcinit := [0, 0, 0, 0], phaser := 0, srkey := 0, srctr := 0 }

/-- The start values of R243. -/
def startConf (lcinit : List Nat) (ref : Bool) : SConf :=
  { upc := 0, lc := lcinit, wd := 8, g := 16, fmt := 0, fmta := 3, scm := 0, scx := 0x7F, mode := ref, acc := 0 }

/-- Nothing gathered yet (R273). -/
def startDone : SDone :=
  { frames := 0, flags := 0, degr := false, sat := false, promo := false, flush := false, nansc := false,
    skew := false, anyRun := false, allRef := true, drains := 0, firstDeg := none }

/-- A sequencer that runs no program. -/
def idleSeqr : Seqr :=
  { cmd := none, line := [], par := zeroParam, conf := startConf [0, 0, 0, 0] false, inr := none, inq := 0, str := none,
    stq := 0, windex := 0, optr := 0, dcnt := 0, sdone := startDone, wnow := 0, run := none, busy := none, closed := [],
    ending := none, unfreed := [], again := false, sel := none, join := none, leaving := false, leaves := [], late := [],
    word := 0, row := 0, logged := [], logging := [], barAt := none, drainErr := none, stalled := false, stop := false,
    halt := false, rests := false, hold := none }

/-- Sequencer q. -/
def State.seqr (s : State) (q : Nat) : Seqr := tget idleSeqr s.seqrs q

/-- Replaces sequencer q. -/
def State.setSeqr (s : State) (q : Nat) (x : Seqr) : State := { s with seqrs := tset s.seqrs q x }

/-- A bus before its first frame; comb d feeds bus d (R8). -/
def idleBus (b : Nat) : Bus := 
  { frame := 0, flight := none, comb := b, lost := false, off := false, fails := none }

/-- Bus b. -/
def State.bus (s : State) (b : Nat) : Bus := tget (idleBus b) s.buses b

/-- Replaces bus b. -/
def State.setBus (s : State) (b : Nat) (x : Bus) : State := { s with buses := tset s.buses b x }

/-- The sequencers that a pack holds: its tiles and its buses' transmitters. -/
def Pack.seqrs (p : Pack) : List Nat := p.tiles ++ p.buses.map (32 + ·)

/-- The threads of a resident pack. -/
def State.threadsOf (s : State) (p : Pack) : List Nat :=
  (p.cores.flatMap fun c => tabulate 8 fun i => c * 8 + i).filter fun g =>
    (s.thread g).status != .idle && (s.thread g).pack == p.key

/-! ### Writes of the shepherd and other engines -/

/-- What a write of an engine comes to: done, waiting on a held page, or failed with a code. -/
inductive Wrote where
  | done (s : State)
  | held
  /-- A link waits for a beacon (R394). -/
  | away
  | fail (f : Fail)
  deriving DecidableEq, Repr

/-- Writes bytes that lie in one line, in an agent's address space. -/
def State.engineWrite (s : State) (ag : Agent) (va : Word) (bs : List Byte) : Wrote :=
  match s.locate ag va .store with
  | .ok (.ctl _) _ => .fail ⟨0x11, Reason.refused, va, false, none⟩
  | .ok p e => .done ((s.touch e true).put p bs)
  | .held => .held
  | .away => .away
  | x =>
    match x.failure va with
    | some f => .fail f
    | none => .held

/-- Adds 1 to the u64 at an address as one access (R328). -/
def State.engineIncr (s : State) (ag : Agent) (va : Word) : Wrote :=
  match s.locate ag va .rmw with
  | .ok (.ctl _) _ => .fail ⟨0x11, Reason.refused, va, false, none⟩
  | .ok p e =>
    let s1 := s.touch e true
    .done (s1.put p (natLe 8 (s1.peekNat p 8 + 1)))
  | .held => .held
  | .away => .away
  | x =>
    match x.failure va with
    | some f => .fail f
    | none => .held

/-! ### The end of a launch (R328) -/

/-- The completion record (R328). -/
def completionRecord (status lid endNow deadlink refused packsRun : Nat) : List Byte :=
  natLe 4 status ++ natLe 4 lid ++ natLe 8 endNow ++ natLe 4 (min deadlink 0xFFFFFFFF) ++ natLe 4 (min refused 0xFFFFFFFF)
    ++ natLe 4 packsRun ++ natLe 4 0

/-- The status of a launch at its end (R328). -/
def Launch.status (l : Launch) : Nat :=
  if l.semFail then 0x06 else if l.killed then 0x10 else if l.faulted then 0x11 else 0x00

/-- The agent of the shepherd's accesses for a launch (R329). -/
def Launch.agent (l : Launch) : Agent := { core := 0, lid := l.id, pack := none, asid := l.asid }

/-- A region and a trail whose last active launch has ended are no longer kept (R321, R367). -/
def State.retire (s : State) (rcb : Nat) : State :=
  if s.launches.any fun l => l.region == rcb then s
  else
    let rs := s.regions.filter fun r => r.rcb ≠ rcb
    { s with regions := rs, trails := s.trails.filter fun u => rs.any fun r => r.trail != 0 && r.owner == u.owner }

/-- One step of a completion (R328): an address that fails is skipped, and a held page delays the step until TIMEOUT. The
new state, or the hold to wait for. -/
def State.reported (s : State) (ag : Agent) (h : Option Hold) (va : Word) (w : Wrote) : Except Hold State :=
  match w with
  | .done x => .ok x
  | .fail _ => .ok s
  | .away => .error (s.awayHold ag va)
  | .held =>
    match s.keepHold ag h va with
    | none => .ok s
    | some h' => .error h'

/-- Step 1 of R328. -/
def State.endRecord (s : State) (l : Launch) : Except Hold State :=
  match l.crec with
  | none => .ok s
  | some a =>
    s.reported l.agent l.hold a (s.engineWrite l.agent a (completionRecord l.status l.id s.now.toNat l.deadlink l.refused l.exited))

/-- Step 2 of R328. -/
def State.endSignal (s : State) (l : Launch) : Except Hold State :=
  match l.csig with
  | none => .ok s
  | some a => s.reported l.agent l.hold a (s.engineIncr l.agent a)

/-- Record, then signal, then the future of LAUNCH.END (R328). A held page delays the completion (R335). -/
def State.endLaunch (s : State) (l : Launch) : State :=
  match s.endRecord l with
  | .error h => s.setLaunch { l with hold := some h }
  | .ok s1 =>
    match s1.endSignal l with
    | .error h => s1.setLaunch { l with crec := none, hold := some h }
    | .ok s2 =>
      let s3 := match l.endTag with
        | none => s2
        | some (tag, ctx) => s2.fly tag ctx (.full (BitVec.ofNat 2048 (l.id * 2 ^ 32 + l.status)))
      { s3 with launches := s3.launches.filter fun x => x.id ≠ l.id }.retire l.region

/-- Whether a launch has nothing left to run (R328). -/
def State.finished (s : State) (l : Launch) : Bool :=
  (l.left.isEmpty || l.killed || l.semFail) && !(s.packs.any fun p => p.key / 2 ^ 24 == l.id)

/-- Completes a launch that has finished. -/
def State.tryEnd (s : State) (lid : Nat) : State :=
  match s.launch? lid with
  | none => s
  | some l => if s.finished l && s.retries l.hold then s.endLaunch l else s

/-! ### Freeing a pack -/

/-- The sums of the outside-domain failures of a pack's threads, read from its kennel when it is out (R154, R328, R356). -/
def State.failures (s : State) (p : Pack) : Nat × Nat :=
  match p.out, s.launch? (p.key / 2 ^ 24) with
  | some _, some l =>
    (List.range (l.cores * l.tpc)).foldl (fun a r =>
      match s.threadBlockPa p.key r with
      | some pa => (a.1 + s.peekNat (.dev (pa + 0x4A)) 2, a.2 + s.peekNat (.dev (pa + 0x48)) 2)
      | none => a) (0, 0)
  | _, _ =>
    (s.threadsOf p).foldl (fun a g =>
      let t := s.thread g
      (a.1 + t.deadlink.toNat, a.2 + t.refused.toNat)) (0, 0)

/-- The bindings of constant registers of a pack's threads give up their entries as the pack leaves its cores; their completions
are still discarded as they arrive (R11, R53; DESIGN CHOICE, notes/assumptions/37.md). -/
def State.orphanBinds (s : State) (p : Pack) : State :=
  { s with binds := s.binds.map fun b =>
      match b.loc with
      | .sink g => if p.cores.contains (coreOf g) then { b with loc := .orphan p.key } else b
      | _ => b }

/-- The cores of a pack hold no pack, and its threads no thread; their sequence units hold no words of it (R279). -/
def State.emptyCores (s : State) (p : Pack) : State :=
  p.cores.foldl (fun a c =>
    let a1 := a.setCore c { a.core c with pack := none }
    (List.range 8).foldl (fun b i => b.setThread (c * 8 + i) idleThread) a1)
    { s.orphanBinds p with seqCaches := s.seqCaches.filter fun x => !p.cores.contains x.1 }

/-- The kennel units of a pack come free (R357, R365). -/
def State.freeUnits (s : State) (p : Pack) : State :=
  if p.kennel.isSome then s.setCfield 0x3010 31 0 (s.cfield 0x3010 31 0 - p.units) else s

/-- The number under which the core of a pack that has left it is known. -/
def Pack.away (p : Pack) (core : Nat) : Nat := core + 2 ^ 13 * (p.order + 1)

/-- The rings of a pack that ends stay for the commands that still name them, under numbers of their own: the cores' next pack has
new ones (R27). -/
def State.keepRings (s : State) (p : Pack) : State :=
  let f := fun (k : Nat) => if p.cores.contains (k / 16) then p.away (k / 16) * 16 + k % 16 else k
  { s with
    rings := s.rings.foldl (fun t x => if p.cores.contains (x.1 / 16) then tset t (f x.1) x.2 else t) s.rings
    copies := s.copies.map fun c => { c with ring := c.ring.map f }
    ringWaits := s.ringWaits.map fun w => { w with ring := f w.ring }
    marks := s.marks.map fun m => match m with
      | .ring k n => .ring (f k) n
      | m => m
    seqrs := s.seqrs.map fun x =>
      (x.1, { x.2 with inr := x.2.inr.map f, str := x.2.str.map f, unfreed := x.2.unfreed.map fun u => { u with ring := f u.ring } }) }

/-- The pack leaves the machine; `exited` when all its threads ended by EXIT (R328). -/
def State.freePack (s : State) (p : Pack) (exited : Bool) : State :=
  let f := s.failures p
  let s1 := s.freeUnits p
  let s2 := if p.out.isSome then s1 else (s1.keepRings p).emptyCores p
  let s3 := if exited || p.out.isSome then s2 else p.seqrs.foldl (fun a q => a.setSeqr q idleSeqr) s2
  let s4 := { s3 with packs := s3.packs.filter fun x => x.key ≠ p.key }
  match s4.launch? (p.key / 2 ^ 24) with
  | none => s4
  | some l =>
    let l' := { l with left := l.left.filter (· != p.key % 2 ^ 24), ended := l.ended + 1, exited := l.exited + boolNat exited,
                       deadlink := l.deadlink + f.1, refused := l.refused + f.2 }
    (s4.setLaunch l').tryEnd l.id

/-- Whether an address is a local-window address (R58). -/
def isLocal (va : Word) : Bool := bits va 51 40 == 0xFFF

/-- The core whose pool a local-window address of a command reaches (R58). -/
def windowCore (c : Ctx) (va : Word) : Nat :=
  if bits va 39 39 = 1 then clusterOf (coreOf c.gtid) * 128 + bits va 27 21 else coreOf c.gtid

/-- Whether n bytes that a command addresses lie in the pool of one of the cores. -/
def intoPool (cores : List Nat) (c : Ctx) (va : Word) (n : Nat) : Bool :=
  isLocal va && cores.any fun k =>
    decide (windowCore c va ≤ k) && decide (k ≤ windowCore c (va + BitVec.ofNat 64 (if bits va 39 39 = 1 then n - 1 else 0)))

/-- Bytes that the rows of a copy command span. -/
def spanBytes (rowBytes rows pitch : Nat) : Nat := (rows - 1) * pitch + rowBytes

/-- The pack in whose pool a local-window address of a command lies, and the core in that pack (R364): the issuer's own pack,
out or not, where it has that core. -/
def State.poolOwner (s : State) (c : Ctx) (va : Word) : Option (Nat × Nat) :=
  let w := windowCore c va
  let own := (s.pack? c.pack).filter fun p => p.cores.contains w
  if isLocal va then
    (own.or ((s.core w).pack.bind s.pack?)).map fun p => (p.key, p.cores.idxOf w)
  else none

/-- Whether a pack is out (R359). -/
def State.packOut (s : State) (key : Nat) : Bool := (s.pack? key).any fun p => p.out.isSome

/-- A ring of a core that its pack has left is known under a number from here on (R27, R364). -/
def awayRing : Nat := 2 ^ 17

/-- Whether a ring is in the kennel of a pack that is out: what needs it waits (R363). A ring that a pack left behind as it
ended is still there (R27). -/
def State.ringAway (s : State) (k : Nat) : Bool := decide (awayRing ≤ k) && !(s.rings.any fun x => x.1 == k)

/-- Whether a command in flight may still access the pool of one of a pack's cores (R356, R363). -/
def Copy.into (p : Pack) (c : Copy) : Bool :=
  intoPool p.cores c.ctx c.dst (spanBytes c.rowBytes c.rows c.dpitch)
    || (c.op != .fill && (intoPool p.cores c.ctx c.src (spanBytes c.rowBytes c.rows c.spitch.toNat)
      || intoPool p.cores c.ctx (c.src - BitVec.ofNat 64 ((c.rows - 1) * (-c.spitch).toNat)) 1))
    || (c.bar && c.barAt.any fun x => x.1 == p.key) || (c.hist && intoPool p.cores c.ctx c.haddr 256)

/-- Whether a program of a sequencer may still access the pool of one of the cores: its drains and its phaser (R271). -/
def Seqr.into (cores : List Nat) (x : Seqr) : Bool :=
  x.cmd.any fun c => intoPool cores c.ctx x.par.obase 1 || intoPool cores c.ctx x.par.phaser 32

/-- Whether a collective under way may still access the pool of one of the cores. -/
def State.collInto (s : State) (cores : List Nat) : Bool :=
  (s.colls.any fun x => x.2.run.any fun r =>
    intoPool cores r.ctx x.2.cr.sbase 1 || intoPool cores r.ctx x.2.cr.peertab 1)
    || s.collBars.any fun b => intoPool cores b.ctx b.phaser 32

/-- No engine access to the SPM and STG of a pack's cores remains: neither by its own commands nor, through the cluster window, by
those of its launch's other packs. The commands of a pack that is out make none until it is back (R356, R363). -/
def State.poolQuiet (s : State) (p : Pack) : Bool :=
  !(s.copies.any fun c => (c.ctx.pack != p.key) && !s.packOut c.ctx.pack && c.into p) && !s.collInto p.cores
    && !(s.seqrs.any fun x => !p.seqrs.contains x.1 && x.2.into p.cores)

/-- Every outside-domain access of a pack's threads has been acknowledged (R154); a launch that was killed does not wait for
that (R328). -/
def State.ackedPack (s : State) (p : Pack) : Bool :=
  (s.launch? (p.key / 2 ^ 24)).any (·.killed) || (s.threadsOf p).all fun g => (s.thread g).unacked.isEmpty

/-- A killed pack's engine accesses to its SPM and STG have ended, its sequencers have stopped, and its accesses are performed
(R154, R328, R356). -/
def State.quiet (s : State) (p : Pack) : Bool :=
  !(s.copies.any fun c => c.ctx.pack == p.key) && s.poolQuiet p && s.ackedPack p
    && p.seqrs.all fun q => (s.seqr q).cmd.isNone && (s.seqr q).sel.isNone

/-- Frees a killed pack once it is quiet. -/
def State.tryFree (s : State) (key : Nat) : State :=
  match s.pack? key with
  | none => s
  | some p => if p.killing && s.quiet p then s.freePack p false else s

/-! ### Kill (R285, R355, R356) -/

/-- The waits of a pack's threads are abandoned and their completions count in CPLSTALE (R55, R285, R356). -/
def State.dropWaits (s : State) (key : Nat) : State :=
  let mine := fun (c : Ctx) => c.pack == key
  let n := (s.phWaits.filter fun w => mine w.ctx).map (·.tag) ++ (s.semWaits.filter fun w => mine w.ctx).map (·.tag)
    ++ (s.ringWaits.filter fun w => mine w.ctx).map (·.tag) ++ (s.held.filter fun w => mine w.ctx).map (·.tag)
    ++ (s.probes.filter fun w => mine w.ctx).map (·.tag)
  let s1 := { s with
    phWaits := s.phWaits.filter fun w => !mine w.ctx
    semWaits := s.semWaits.filter fun w => !mine w.ctx
    ringWaits := s.ringWaits.filter fun w => !mine w.ctx
    held := s.held.filter fun w => !mine w.ctx
    probes := s.probes.filter fun w => !mine w.ctx }
  n.foldl State.discard s1

/-- The bindings of a pack are discarded: completions that arrive later count in CPLSTALE (R54, R356). -/
def State.dropBinds (s : State) (key : Nat) : State :=
  { s with binds := s.binds.map fun b =>
      let mine := match b.loc with
        | .reg g _ | .sink g => (s.thread g).pack == key
        | .slot p _ _ | .orphan p => p == key
        | .dropped | .stale => false
      if mine then { b with loc := .stale } else b }

/-- A thread's registrations as 128 bytes hold them (R360). -/
def regsOfBytes (bs : List Byte) : List Registration :=
  (tabulate 8 fun i =>
    let b := slice bs (16 * i) 16
    ({ va := BitVec.ofNat 64 (fieldAt b 0 8), sig := fieldAt b 8 1 % 2 == 1, wait := fieldAt b 8 1 / 2 % 2 == 1,
       inc := BitVec.ofNat 8 (fieldAt b 9 1), arrived := BitVec.ofNat 32 (fieldAt b 12 4) } : Registration)).filter
    fun r => r.va ≠ 0

/-- Registrations of a pack that is out, rank by rank, read from its kennel (R356, R360). -/
def State.kennelRegs (s : State) (key ranks : Nat) : List (List Registration) :=
  tabulate ranks fun r =>
    match s.threadBlockPa key r with
    | none => []
    | some pa => regsOfBytes (s.peekN (.dev (pa + 0x60)) 128)

/-- The registrations of a killed pack are settled, one thread at a time (R285). -/
def State.settleKill (s : State) (p : Pack) : State :=
  match p.out, s.launch? (p.key / 2 ^ 24) with
  | some _, some l =>
    (s.kennelRegs p.key (l.cores * l.tpc)).zipIdx.foldl
      (fun a rs => rs.1.foldl (fun b r =>
        b.killReg { l.agent with core := p.cores.getD (rs.2 / l.tpc) 0, pack := some p.key } p.key r) a) s
  | _, _ =>
    (s.threadsOf p).foldl (fun a g =>
      let t := a.thread g
      let a1 := t.regs.foldl (fun b r => b.killReg (b.agentOf g) p.key r) a
      a1.setThread g { a1.thread g with regs := [], status := .exited }) s

/-- The issue tags of everything that a sequencer has still to complete. -/
def Seqr.tags (x : Seqr) : List ITag :=
  (x.cmd.toList ++ x.line).map (·.tag) ++ (x.join.bind (·.fut)).toList.map (·.1) ++ x.leaves.map (·.1)

/-- Stream sequencers of the pack stop at the next frame boundary, and programs in line never start; those of a pack that is out
end with its kennel (R55, R356). -/
def State.stopSeqrs (s : State) (p : Pack) : State :=
  if p.out.isSome then (p.saved.flatMap fun x => x.2.tags).foldl State.discard s
  else
    p.seqrs.foldl (fun a q =>
      let x := a.seqr q
      (x.line.map (·.tag)).foldl State.discard (a.setSeqr q { x with stop := true, line := [] })) s

/-- Whether the entry of a RING copy is free (R227); a ring in a kennel frees none. -/
def State.entryFree (s : State) (c : Copy) : Bool :=
  c.ring.all fun k =>
    (s.rings.find? fun x => x.1 == k).all fun x => decide ((BitVec.ofNat 32 c.q - x.2.free).toNat < 2 ^ x.2.log2n) && !s.ringAway k

/-- The RING copies of a pack that still wait for their entry are discarded (R55, R356). -/
def State.dropRings (s : State) (key : Nat) : State :=
  let (gone, kept) := s.copies.partition fun c =>
    c.ctx.pack == key && (c.stage == .entry || c.stage == .order) && !c.stale && !s.entryFree c
  (gone.map (·.tag)).foldl State.discard { s with copies := kept }

/-- The SPM and STG that a pack's kennel held are gone with it: what its commands in flight still access there fails (R356). -/
def State.loseWindow (s : State) (p : Pack) : State :=
  if p.out.isSome then
    { s with copies := s.copies.map fun c => if c.ctx.pack = p.key then { c with ctx := { c.ctx with bounds := (0, 0) } } else c }
  else s

/-- Kills a pack (R356). -/
def State.killPack (s : State) (key : Nat) : State :=
  match s.pack? key with
  | none => s
  | some p =>
    if p.killing then s
    else
      let s1 := ((s.dropWaits key).settleKill p).dropBinds key
      let s2 := (((s1.dropRings key).loseWindow p).setPack { p with killing := true, saving := false }).stopSeqrs p
      if p.out.isSome then s2.freePack { p with killing := true } false else s2.tryFree key

/-- Kills a launch (R328, R355): its packs, and it dispatches nothing more. -/
def State.killLaunch (s : State) (lid : Nat) : State :=
  match s.launch? lid with
  | none => s
  | some l =>
    let s1 := s.setLaunch { l with killed := true, left := [] }
    let keys := (s1.packs.filter fun p => p.key / 2 ^ 24 == lid).map (·.key)
    (keys.foldl (fun a k => a.killPack k) s1).tryEnd lid

/-- Marks the launch of a pack as ended by a fatal trap (R328, R354). -/
def State.markFaulted (s : State) (key : Nat) : State :=
  match s.launch? (key / 2 ^ 24) with
  | none => s
  | some l => s.setLaunch { l with faulted := true }

end Sys2Proof.Machine
end

