-- ==== Sys2Proof/Machine/Ops.lean ====
section
/-! DEFINITION. Taking an exception, and the frame of every thread instruction: guard, parking, poisoned operands and the
pc (spec/02 R35-R37, spec/05 R124, spec/17 R309, spec/20 R345-R354). -/

namespace Sys2Proof.Machine

/-- The outcome of a step of this machine. -/
abbrev Out := Host.Outcome State Fault Refusal

/-- Trap causes (R345). -/
inductive Cause where
  | illegalOp | extAbsent | poisonUse | accessFault | misalign | priv | determinism | trailFull | breakpoint | watch
  deriving DecidableEq, Repr

/-- The code of a cause (R345). -/
def Cause.code : Cause → Nat
  | .illegalOp => 0x01
  | .extAbsent => 0x02
  | .poisonUse => 0x03
  | .accessFault => 0x04
  | .misalign => 0x05
  | .priv => 0x06
  | .determinism => 0x07
  | .trailFull => 0x08
  | .breakpoint => 0x09
  | .watch => 0x0A

/-- A trap with what its record holds (R352, R353). -/
structure Trap where
  cause : Cause
  code : Nat
  addr : Word
  info : Word
  reason : Nat
  deriving DecidableEq, Repr

/-- A trap whose record holds nothing beside its cause. -/
def Trap.plain (c : Cause) : Trap := { cause := c, code := 0, addr := 0, info := 0, reason := 0 }

/-- MISALIGN at an address (R345, R352). -/
def Trap.misaligned (a : Word) : Trap := { Trap.plain .misalign with addr := a }

/-- The record of a trap of the current thread (R352). -/
def State.trapRec (s : State) (kind : Nat) (t : Trap) : Rec :=
  { kind := kind, cause := t.cause.code, code := t.code, pc := s.thr.pc, addr := t.addr, info := t.info, w0 := s.ir0,
    w1 := s.ir1, gtid := s.cur, cls := 0, reason := t.reason, lid := s.thr.pack / 2 ^ 24 }

/-- The thread issues nothing further. -/
def State.stopThread (s : State) (g : Nat) : State :=
  let t := s.thread g
  if t.status = .idle then s else s.setThread g { t with status := .exited }

/-- The fatal path (R354): a record of KIND 0x03, the kill of the pack, the signal to the host. -/
def State.fatal (s : State) (t : Trap) : State :=
  let g := s.cur
  let key := s.thr.pack
  let (s1, idx) := s.writeRecord (s.agentOf g) s.thr.frbase (s.trapRec 3 t)
  let s2 := (((s1.markFaulted key).killPack key)).stopThread g
  if idx = 0xFFFF then s2 else s2.signal 2

/-- Whether a region list names the region of a pack or an ancestor of it (R378). -/
def State.inRegions (s : State) (pack : Nat) (rs : List Nat) : Bool :=
  match s.regionOf pack with
  | none => false
  | some r => r.chain.any fun c => rs.contains c

/-- Whether region h is region rcb or one of its descendants, as the values of an active region say or as h's chain stood when a
debug command named it (R378). -/
def State.isUnder (s : State) (rcb h : Nat) : Bool :=
  h == rcb || (s.region? h).any (fun r => r.chain.contains rcb)
    || s.named.any fun x => x.1 == h && x.2.contains rcb

/-- Whether a region is halted: of the RCBs of its chain, the nearest that a HALT has stopped or a RESUME has let go on was
stopped (R378, R379). -/
def State.regionHalted (s : State) (r : Region) : Bool :=
  (r.chain.find? fun c => s.halted.contains c || s.resumed.contains c).any s.halted.contains

/-- Whether a debugger holds a region: of the RCBs of its chain, the nearest that an ATTACH or a DETACH has named was attached
(R378). -/
def State.isAttached (s : State) (r : Region) : Bool :=
  (r.chain.find? fun c => s.attached.contains c || s.detached.contains c).any s.attached.contains

/-- Whether a debugger holds the region of a pack. -/
def State.debugged (s : State) (pack : Nat) : Bool := (s.regionOf pack).any s.isAttached

/-- A pack that was to be saved is not pre-empted: its kennel's units come free, and its sequencers do not stop for it (R379). -/
def State.spare (s : State) (p : Pack) : State :=
  if p.saving then
    p.seqrs.foldl (fun a q => a.setSeqr q { a.seqr q with stop := false })
      ((s.freeUnits p).setPack { p with saving := false, kennel := none, units := 0 })
  else s

/-- The halt of a region and its descendants (R379): threads stop at an instruction boundary with their waits abandoned,
sequencers hold at their next frame boundary, and no pack is pre-empted. -/
def State.haltRegion (s : State) (rcb : Nat) : State :=
  let s1 := { s with halted := if s.halted.contains rcb then s.halted else rcb :: s.halted
                     resumed := s.resumed.filter fun h => !s.isUnder rcb h }
  let ps := s1.packs.filter fun p => s1.inRegions p.key [rcb]
  ps.foldl (fun a p =>
    let a1 := (a.threadsOf p).foldl (fun b g =>
      b.setThread g { b.thread g with halted := true, hold := none, stalled := false }) a
    p.seqrs.foldl (fun b q => b.setSeqr q { b.seqr q with halt := true }) (a1.spare p)) s1

/-- A trap of the thread that a REPLAY steps is noted (R382). -/
def State.noteTrap (s : State) : State :=
  match s.replay with
  | none => s
  | some r => if r.gtid = some s.cur then { s with replay := some { r with trapped := true } } else s

/-- Takes a trap of the current thread (R309, R346): the user handler, the debugger for BREAK and WATCH, or the fatal
path. -/
def State.trap (s0 : State) (t : Trap) : State :=
  let s := s0.noteTrap
  let th := s.thr
  if t.cause = .accessFault then s.fatal t
  else if (t.cause = .breakpoint ∨ t.cause = .watch) ∧ s.debugged th.pack then
    match s.regionOf th.pack with
    | some r =>
      let held := (r.chain.takeWhile fun c => !s.detached.contains c).filter s.attached.contains
      (held.foldl (fun a x => a.haltRegion x) s).signal 4
    | none => s
  else if th.utvec = 0 then s.fatal t
  else
    let (s1, idx) := s.writeRecord (s.agentOf s.cur) th.frbase (s.trapRec 2 t)
    if idx = 0xFFFF then s1.fatal t
    else s1.onThr fun x =>
      { x with trapidx := BitVec.ofNat 16 idx, pc := BitVec.ofNat 64 (bits x.utvec 51 2 * 4), status := .ready,
               delivering := t.cause.code }

/-- POISON_USE of register i (R37, R353). -/
def State.poisonUse (s : State) (i : Nat) (pv : BitVec 32) : State :=
  s.trap { cause := .poisonUse, code := bits pv 15 0, addr := 0, info := BitVec.ofNat 64 (i * 2 ^ 32 + pv.toNat),
           reason := 0 }

/-- The instruction parks at its own pc on the registers it names (R36). -/
def State.park (s : State) (regs : List Nat) : State :=
  s.onThr fun t => { t with status := .parked, woke := false, parkedAt := s.now.toNat, waitsOn := regs,
                            waitsEntry := false }

/-- The instruction parks until a pending-table entry frees (R33). -/
def State.parkEntry (s : State) : State :=
  s.onThr fun t => { t with status := .parked, woke := false, parkedAt := s.now.toNat, waitsOn := [],
                            waitsEntry := true }

/-- The instruction waits without issuing (R72, R186, R205, R335). -/
def State.wait (s : State) : State := s.onThr fun t => { t with status := .waiting }

/-- The first poisoned register of a list, in order, with its poison value. -/
def Thread.firstPoison (t : Thread) : List Nat → Option (Nat × BitVec 32)
  | [] => none
  | i :: r =>
    match t.rstate i with
    | .poisoned pv => some (i, pv)
    | _ => t.firstPoison r

/-- Steps 3 to 5 of R124 after the guard: parking on every register read or written, then poisoned operands in order. -/
def State.operands (s : State) (reads writes : List Nat) (body : State → State) : State :=
  if (reads ++ writes).any fun i => s.thr.isPending i then s.park (reads ++ writes)
  else
    match s.thr.firstPoison reads with
    | some (i, pv) => s.poisonUse i pv
    | none => body s

/-- Step 3 of R124: the guard is read first (R35, R37). -/
def State.guarded (s : State) (g : Guard) (body : State → State) : State :=
  match s.thr.rstate (rp g) with
  | .pending _ => s.park [rp g]
  | .poisoned pv => s.poisonUse (rp g) pv
  | .full => body s

/-- The frame of an instruction that R35 governs by guard bit 0 alone. -/
def control (g : Guard) (len : Nat) (reads writes : List Nat) (body : State → State) (s : State) : Out :=
  .next (s.guarded g fun s =>
    if (s.thr.preg g).getLsbD 0 then s.operands reads writes body else s.advance len)

/-- The frame of a vector instruction, which reads its named operands whatever its mask holds (R35). -/
def vectorFrame (g : Guard) (reads writes : List Nat) (body : State → State) (s : State) : Out :=
  .next (s.guarded g fun s => s.operands reads writes body)

/-- Writes s[d] full and moves on. -/
def State.putS (s : State) (d : Reg6) (x : Word) (len : Nat) : State := s.onThr fun t => (t.setS d x).advance len

/-- Writes p[d] full and moves on. -/
def State.putP (s : State) (d : PReg) (x : Word) (len : Nat) : State := s.onThr fun t => (t.setP d x).advance len

/-- Writes v[d] full and moves on. -/
def State.putV (s : State) (d : Reg6) (x : Vec) (len : Nat) : State := s.onThr fun t => (t.setV d x).advance len

/-- All ones or zero (R144). -/
def mask64 (t : Bool) : Word := if t then BitVec.allOnes 64 else 0

/-- Writes the pair pd, pd + 1 of a compare (R144). -/
def State.putPair (s : State) (pd : PReg) (a b : Word) (len : Nat) : State :=
  s.onThr fun t => ((t.setP pd a).setP (pd + 1) b).advance len

/-- What a held operation orders: a load or an atomic is an access of its thread, and no later one is performed before it (R62).
-/
def HeldOp.orders (op : HeldOp) : Bool :=
  match op with
  | .load _ | .vload _ | .atom _ _ _ _ => true
  | _ => false

/-- Whether the current thread has a load or an atomic that still waits on a held page: every access and command that follows it
in program order waits until it has been performed (R62, R69, R70, R72, R77, R79; DEDUCED, notes/assumptions/41.md). -/
def State.behind (s : State) : Bool :=
  s.held.any fun h => h.op.orders && h.ctx.gtid == s.cur && h.ctx.pack == s.thr.pack

/-- Runs an access or a command of the current thread in its place: after every earlier access (R62). -/
def State.inOrder (s : State) (body : State → State) : State := if s.behind then s.wait else body s

/-- A wait of the current thread on a held page, which walks again when an invalidation covers the page; once the hold has
outlasted TIMEOUT, `late` instead (R335). -/
def State.onHold (s : State) (va : Word) (late : State → State) : State :=
  match s.prior.filter fun h => h.va == va with
  | none => s.onThr fun t => { t with status := .waiting, hold := some (s.newHold (s.agentOf s.cur) va) }
  | some h =>
    if s.outlasted h.since then late s
    else s.onThr fun t => { t with status := .waiting, hold := some { s.newHold (s.agentOf s.cur) va with since := h.since } }

/-- The wait of a store or of a fetch: ACCESS_FAULT with reason HELD at its end (R203, R335). -/
def State.holdWait (s : State) (va : Word) : State :=
  s.onHold va fun s => s.trap { cause := .accessFault, code := 0, addr := va, info := 0, reason := Reason.held }

/-- ACCESS_FAULT of a failed access (R184). -/
def State.accessFault (s : State) (f : Fail) : State :=
  (s.stick f.hole).trap { cause := .accessFault, code := 0, addr := f.addr, info := 0, reason := f.reason }

/-- The watchpoint of a slot that the regions of a chain have: that of the nearest of them (R378). -/
def State.watchIn (s : State) (chain : List Nat) (slot : Nat) : Option Watch :=
  chain.findSome? fun c => s.watches.find? fun w => w.rcb == c && w.slot == slot

/-- Whether a range of virtual addresses meets a watchpoint of the current thread's region (R378). -/
def State.watched (s : State) (read write : Bool) (ranges : List (Nat × Nat)) : Option Nat :=
  if s.watches = [] then none
  else
    let chain := ((s.regionOf s.thr.pack).map (·.chain)).getD []
    let ws := (List.range 4).filterMap (s.watchIn chain)
    (ranges.find? fun x => ws.any fun w =>
      ((w.read && read) || (w.write && write)) && decide (x.1 < w.addr + w.len) && decide (w.addr < x.1 + x.2)).map (·.1)

/-- The end of step 6 for the current thread: its place after every earlier access (R62), room in the trail for n bytes of
entries (R186, R375), then, last, WATCH at the address that it meets (R347). -/
def State.admitted (s : State) (n : Nat) (hit : Option Nat) (body : State → State) : State :=
  s.inOrder fun s =>
    match s.admitEntry (s.trailOf s.thr.pack) n with
    | .go s' =>
      match hit with
      | some a => s.trap { cause := .watch, code := 0, addr := BitVec.ofNat 64 a, info := 0, reason := 0 }
      | none => body (if s.thr.stalled then s'.onThr fun t => { t with stalled := false } else s')
    | .stall s' => if s.thr.stalled then s.wait else s'.onThr fun t => { t with status := .waiting, stalled := true }
    | .hold s' => s'.wait
    | .trap => s.trap (.plain .trailFull)

/-- The end of step 6 of an instruction that accesses ranges (R186, R347, R375). -/
def State.checked (s : State) (n : Nat) (read write : Bool) (ranges : List (Nat × Nat)) (body : State → State) : State :=
  s.admitted n (s.watched read write ranges) body

/-- Binds register i of the current thread to a producer and runs the rest with the issue tag; parks when the pending
table has no entry for it (R32, R33). -/
def State.produce (s : State) (i cls : Nat) (mask : BitVec 256) (len : Nat) (body : ITag → Ctx → State → State) :
    State :=
  if s.mayBind s.cur then
    let ctx := s.ctx
    let (s1, tag) := s.bind s.cur i cls mask
    body tag ctx (s1.advance len)
  else s.parkEntry

/-- Every byte. -/
def allBytes : BitVec 256 := BitVec.allOnes 256

/-- A result of 64 bits. -/
def fullS (x : Nat) : Result := .full (BitVec.ofNat 2048 (x % 2 ^ 64))

/-- A poisoned result with no address. -/
def poisonOf (code : Nat) : Result := .poison code 0 0 (if code = Poison.refused then Reason.refused else 0)

/-- A failed access as a result (R184). -/
def Fail.result (f : Fail) : Result := .poison f.code f.addr 0 f.reason

end Sys2Proof.Machine
end

