-- ==== Sys2Proof/Machine/Operands.lean ====
section
/-! DEFINITION. Vector elements, guards and the frames of the vector instructions (spec/01 R12, spec/07 R156-R161). -/

namespace Sys2Proof.Machine

/-- The bits of an element width code (R114). -/
def widthBits : Width → Nat
  | .w8 => 8
  | .w16 => 16
  | .w32 => 32
  | .w64 => 64

/-- Element e of width w (R12). -/
def elem (w : Nat) (v : Vec) (e : Nat) : Nat := v.toNat / 2 ^ (w * e) % 2 ^ w

/-- The elements of a register in ascending order, as one number. -/
def packElems (w : Nat) : List Nat → Nat
  | [] => 0
  | x :: r => x % 2 ^ w + 2 ^ w * packElems w r

/-- A register whose first elements of width w are given and whose other bytes are zero. -/
def vecOf (w : Nat) (xs : List Nat) : Vec := BitVec.ofNat 2048 (packElems w xs)

/-- The lane whose guard bit governs element e of width w (R12). -/
def guardLane (w e : Nat) : Nat := if w = 64 then 2 * e else w * e / 32

/-- active(e) of a layout of width w (R157). -/
def active (w : Nat) (pg : Word) (e : Nat) : Bool := pg.getLsbD (guardLane w e)

/-- Whether a guard activates every element of a layout (R35). -/
def activatesAll (w : Nat) (pg : Word) : Bool := (List.range (2048 / w)).all (active w pg)

/-- The destination where it is read because the guard does not activate every element (R35, R38). -/
def mergeReads (w : Nat) (g : Guard) (dest : List Nat) (s : State) : List Nat :=
  if activatesAll w (s.thr.preg g) then [] else dest

/-- The elements of a result of width wd under a guard of the layout of width w: computed where active, else the old
element of the destination (R157). -/
def lanes (w wd : Nat) (pg : Word) (old : Vec) (f : Nat → Nat × Nat) : List (Nat × Nat) :=
  tabulate (2048 / w) fun e => if active w pg e then f e else (elem wd old e, 0)

/-- The flags of active elements together (R94). -/
def orFlags (rs : List (Nat × Nat)) : Nat := rs.foldl (fun a r => a ||| r.2) 0

/-- Flags merged into FPFLAGS (R94, R160). -/
def Thread.raise (t : Thread) (fl : Nat) : Thread := { t with fpflags := t.fpflags ||| BitVec.ofNat 5 fl }

/-- Writes v[d], merges flags and moves on. -/
def State.putVF (s : State) (d : Reg6) (x : Vec) (fl len : Nat) : State :=
  s.onThr fun t => ((t.setV d x).raise fl).advance len

/-- A merging instruction of the layout of width w with a destination of width wd (R157, R158). -/
def vecMap (w wd : Nat) (g : Guard) (srcs : List Nat) (d : Reg6) (len : Nat) (f : Thread → Nat → Nat × Nat)
    (s : State) : Out :=
  vectorFrame g (srcs ++ mergeReads w g [rv d] s) [rv d] (fun s =>
    let rs := lanes w wd (s.thr.preg g) (s.thr.vreg d) (f s.thr)
    s.putVF d (vecOf wd (rs.map (·.1))) (orFlags rs) len) s

/-- The mode of a code (R113). -/
def rmOf (x : BitVec 3) : Rm :=
  match x.toNat with
  | 0 => .rne
  | 1 => .rtz
  | 2 => .rdn
  | 3 => .rup
  | 4 => .rna
  | 5 => .sr
  | 6 => .rto
  | _ => .dyn

/-- The DYN check at step 6 of R124 and the mode that applies (R16). -/
def State.rounding (s : State) (rm : Rm) (body : Rm → State → State) : State :=
  if rm = .dyn then
    match rmOf s.thr.fprm with
    | .sr | .dyn => s.trap (.plain .illegalOp)
    | m => body m s
  else body rm s

/-- The key and counter registers, read only under SR (R111). -/
def srReads (rm : Rm) (k n : Reg6) : List Nat := if rm = .sr then [rs k, rs n] else []

/-- A merging instruction that rounds: its mode is resolved first, and element e draws its bits from H (R95). -/
def vecRound (w wd : Nat) (g : Guard) (srcs : List Nat) (d : Reg6) (rm : Rm) (k n : Reg6) (len : Nat)
    (f : Rm → Thread → Nat → Nat → Nat × Nat) (s : State) : Out :=
  vectorFrame g (srcs ++ srReads rm k n ++ mergeReads w g [rv d] s) [rv d] (fun s =>
    s.rounding rm fun m s =>
      let t := s.thr
      let rs := lanes w wd (t.preg g) (t.vreg d) fun e => f m t (rbits (t.sreg k) (t.sreg n) e) e
      s.putVF d (vecOf wd (rs.map (·.1))) (orFlags rs) len) s

/-- What a compare finds in lane i: the AND over the elements in it, with the flags of those that are active (R168). -/
def laneCond (w : Nat) (c : Nat → Bool × Nat) (i : Nat) : Bool × Nat :=
  if w = 64 then c (i / 2)
  else
    (List.range (32 / w)).foldl (fun a j =>
      let r := c (i * (32 / w) + j)
      (a.1 && r.1, a.2 ||| r.2)) (true, 0)

/-- A vector compare into the pair pd, pd + 1 (R168). -/
def vecCompare (w : Nat) (g : Guard) (pd : PReg) (a b : Reg6) (c : Thread → Nat → Bool × Nat) (s : State) : Out :=
  let pair := [rp pd, rp pd + 1]
  vectorFrame g ([rv a, rv b] ++ mergeReads w g pair s) pair (fun s =>
    let t := s.thr
    let pg := t.preg g
    let on := fun i => pg.getLsbD (if w = 64 then i / 2 * 2 else i)
    let rs := tabulate 64 fun i => laneCond w (c t) i
    let sel := fun (old : Word) (neg : Bool) => rs.zipIdx.foldl (fun (acc : Nat) r =>
      acc + boolNat (if on r.2 then r.1.1 != neg else old.getLsbD r.2) * 2 ^ r.2) 0
    let fl := rs.zipIdx.foldl (fun (acc : Nat) r => if on r.2 then acc ||| r.1.2 else acc) 0
    s.onThr fun t =>
      (((t.setP pd (BitVec.ofNat 64 (sel (t.preg pd) false))).setP (pd + 1)
        (BitVec.ofNat 64 (sel (t.preg (pd + 1)) true))).raise fl).advance 4) s

end Sys2Proof.Machine
end

