-- ==== Sys2Proof/Machine/Scalar.lean ====
section
/-! DEFINITION. Scalar arithmetic, immediates, bit fields and compares (spec/06 R135-R144). -/

namespace Sys2Proof.Machine

/-- The form of two scalar sources and one scalar destination. -/
def scalar2 (f : Word → Word → Word) (g : Guard) (d a b : Reg6) (len : Nat) (s : State) : Out :=
  control g len [rs a, rs b] [rs d] (fun s => s.putS d (f (s.thr.sreg a) (s.thr.sreg b)) len) s

/-- The form of one scalar source and one scalar destination. -/
def scalar1 (f : Word → Word) (g : Guard) (d a : Reg6) (len : Nat) (s : State) : Out :=
  control g len [rs a] [rs d] (fun s => s.putS d (f (s.thr.sreg a)) len) s

/-- SLL, SRL and SRA shift by the low six bits of b (R138). -/
def shl (a b : Word) : Word := a <<< (bits b 5 0)
/-- With zero fill. -/
def shr (a b : Word) : Word := a >>> (bits b 5 0)
/-- With sign fill. -/
def sra (a b : Word) : Word := a.sshiftRight (bits b 5 0)

/-- The high 64 bits of the exact signed product (R138). -/
def mulhs64 (a b : Word) : Word := BitVec.ofInt 64 ((a.toInt * b.toInt) / 2 ^ 64)
/-- The high 64 bits of the exact unsigned product. -/
def mulhu64 (a b : Word) : Word := BitVec.ofNat 64 (a.toNat * b.toNat / 2 ^ 64)

/-- Signed quotient of w bits, never trapping (R139): all ones by zero, the dividend in the one overflow case. -/
def divS {w : Nat} (x y : BitVec w) : BitVec w :=
  if y = 0 then BitVec.allOnes w else BitVec.ofInt w (x.toInt.tdiv y.toInt)
/-- Unsigned quotient. -/
def divU {w : Nat} (x y : BitVec w) : BitVec w := if y = 0 then BitVec.allOnes w else BitVec.ofNat w (x.toNat / y.toNat)
/-- Signed remainder, with the sign of the dividend. -/
def remS {w : Nat} (x y : BitVec w) : BitVec w := if y = 0 then x else BitVec.ofInt w (x.toInt.tmod y.toInt)
/-- Unsigned remainder. -/
def remU {w : Nat} (x y : BitVec w) : BitVec w := if y = 0 then x else BitVec.ofNat w (x.toNat % y.toNat)

/-- Signed minimum of w bits. -/
def minS {w : Nat} (a b : BitVec w) : BitVec w := if a.toInt ≤ b.toInt then a else b
/-- Signed maximum. -/
def maxS {w : Nat} (a b : BitVec w) : BitVec w := if a.toInt ≤ b.toInt then b else a
/-- Unsigned minimum. -/
def minU {w : Nat} (a b : BitVec w) : BitVec w := if a.toNat ≤ b.toNat then a else b
/-- Unsigned maximum. -/
def maxU {w : Nat} (a b : BitVec w) : BitVec w := if a.toNat ≤ b.toNat then b else a

/-- The number of one bits. -/
def popCount {w : Nat} (a : BitVec w) : Nat := (List.range w).foldl (fun n i => n + boolNat (a.getLsbD i)) 0
/-- Leading zeros: w less the position after the highest one bit. -/
def leadZeros {w : Nat} (a : BitVec w) : Nat :=
  (List.range w).foldl (fun n i => if a.getLsbD i then w - 1 - i else n) w
/-- Trailing zeros. -/
def trailZeros {w : Nat} (a : BitVec w) : Nat := (findFrom (fun i => a.getLsbD i) 0 w).getD w
/-- Bit j of the result is bit 63 − j (R138). -/
def bitReverse (a : Word) : Word :=
  (List.range 64).foldl (fun n i => if a.getLsbD i then n ||| BitVec.ofNat 64 (2 ^ (63 - i)) else n) 0

/-- ROTRI; by 0 it returns the value (R141). -/
def rotr64 (a : Word) (n : Nat) : Word := (a >>> n) ||| (a <<< (64 - n))

/-- ORHI (R142). -/
def orHigh (a : Word) (imm : BitVec 32) : Word := BitVec.ofNat 64 (imm.toNat * 2 ^ 32 + bits a 31 0)

/-- The field of len bits from pos up (R143). -/
def bfx (a : Word) (pos len : Nat) : Word := BitVec.ofNat 64 (bits a (pos + len - 1) pos)
/-- The same with sign extension. -/
def bfxSigned (a : Word) (pos len : Nat) : Word :=
  ((a <<< (64 - len - pos)).sshiftRight (64 - len))
/-- BFI (R143). -/
def bfIns (old a : Word) (pos len : Nat) : Word := putBits old (pos + len - 1) pos a.toNat

/-- The condition of an integer compare of w bits (R144, R168). -/
def icond {w : Nat} (c : ICond) (x y : BitVec w) : Bool :=
  match c with
  | .eq => x == y
  | .lt => decide (x.toInt < y.toInt)
  | .ltu => decide (x.toNat < y.toNat)
  | .tst => (x &&& y) != 0

/-- A compare with the right operand y (R144). -/
def compare (c : ICond) (g : Guard) (pd : PReg) (a : Reg6) (reads : List Nat) (y : Thread → Word) (len : Nat)
    (s : State) : Out :=
  control g len (rs a :: reads) [rp pd, rp pd + 1] (fun s =>
    let t := icond c (s.thr.sreg a) (y s.thr)
    s.putPair pd (mask64 t) (mask64 (!t)) len) s

/-- ADD (R138). -/
def execAdd (g : Guard) (d a b : Reg6) (s : State) : Out := scalar2 (· + ·) g d a b 4 s

/-- SUB (R138). -/
def execSub (g : Guard) (d a b : Reg6) (s : State) : Out := scalar2 (· - ·) g d a b 4 s

/-- AND (R138). -/
def execAnd (g : Guard) (d a b : Reg6) (s : State) : Out := scalar2 (· &&& ·) g d a b 4 s

/-- OR (R138). -/
def execOr (g : Guard) (d a b : Reg6) (s : State) : Out := scalar2 (· ||| ·) g d a b 4 s

/-- XOR (R138). -/
def execXor (g : Guard) (d a b : Reg6) (s : State) : Out := scalar2 (· ^^^ ·) g d a b 4 s

/-- SLL (R138). -/
def execSll (g : Guard) (d a b : Reg6) (s : State) : Out := scalar2 shl g d a b 4 s

/-- SRL (R138). -/
def execSrl (g : Guard) (d a b : Reg6) (s : State) : Out := scalar2 shr g d a b 4 s

/-- SRA (R138). -/
def execSra (g : Guard) (d a b : Reg6) (s : State) : Out := scalar2 sra g d a b 4 s

/-- MUL (R138). -/
def execMul (g : Guard) (d a b : Reg6) (s : State) : Out := scalar2 (· * ·) g d a b 4 s

/-- MULHS (R138). -/
def execMulhs (g : Guard) (d a b : Reg6) (s : State) : Out := scalar2 mulhs64 g d a b 4 s

/-- MULHU (R138). -/
def execMulhu (g : Guard) (d a b : Reg6) (s : State) : Out := scalar2 mulhu64 g d a b 4 s

/-- DIVS (R139). -/
def execDivs (g : Guard) (d a b : Reg6) (s : State) : Out := scalar2 divS g d a b 4 s

/-- DIVU (R139). -/
def execDivu (g : Guard) (d a b : Reg6) (s : State) : Out := scalar2 divU g d a b 4 s

/-- REMS (R139). -/
def execRems (g : Guard) (d a b : Reg6) (s : State) : Out := scalar2 remS g d a b 4 s

/-- REMU (R139). -/
def execRemu (g : Guard) (d a b : Reg6) (s : State) : Out := scalar2 remU g d a b 4 s

/-- MINS (R138). -/
def execMins (g : Guard) (d a b : Reg6) (s : State) : Out := scalar2 minS g d a b 4 s

/-- MINU (R138). -/
def execMinu (g : Guard) (d a b : Reg6) (s : State) : Out := scalar2 minU g d a b 4 s

/-- MAXS (R138). -/
def execMaxs (g : Guard) (d a b : Reg6) (s : State) : Out := scalar2 maxS g d a b 4 s

/-- MAXU (R138). -/
def execMaxu (g : Guard) (d a b : Reg6) (s : State) : Out := scalar2 maxU g d a b 4 s

/-- CLZ (R138). -/
def execClz (g : Guard) (d a : Reg6) (s : State) : Out := scalar1 (fun a => BitVec.ofNat 64 (leadZeros a)) g d a 4 s

/-- CTZ (R138). -/
def execCtz (g : Guard) (d a : Reg6) (s : State) : Out := scalar1 (fun a => BitVec.ofNat 64 (trailZeros a)) g d a 4 s

/-- POPC (R138). -/
def execPopc (g : Guard) (d a : Reg6) (s : State) : Out := scalar1 (fun a => BitVec.ofNat 64 (popCount a)) g d a 4 s

/-- BREV (R138). -/
def execBrev (g : Guard) (d a : Reg6) (s : State) : Out := scalar1 (bitReverse) g d a 4 s

/-- SHADD (R138). -/
def execShadd (g : Guard) (d a b : Reg6) (n : BitVec 3) (s : State) : Out := scalar2 (fun a b => a + (b <<< n.toNat)) g d a b 4 s

/-- ADDI (R141). -/
def execAddi (g : Guard) (d a : Reg6) (imm : BitVec 9) (s : State) : Out := scalar1 (· + imm.signExtend 64) g d a 4 s

/-- ANDI (R141). -/
def execAndi (g : Guard) (d a : Reg6) (imm : BitVec 9) (s : State) : Out := scalar1 (· &&& imm.signExtend 64) g d a 4 s

/-- ORI (R141). -/
def execOri (g : Guard) (d a : Reg6) (imm : BitVec 9) (s : State) : Out := scalar1 (· ||| imm.signExtend 64) g d a 4 s

/-- XORI (R141). -/
def execXori (g : Guard) (d a : Reg6) (imm : BitVec 9) (s : State) : Out := scalar1 (· ^^^ imm.signExtend 64) g d a 4 s

/-- SLLI (R141). -/
def execSlli (g : Guard) (d a sh : Reg6) (s : State) : Out := scalar1 (· <<< sh.toNat) g d a 4 s

/-- SRLI (R141). -/
def execSrli (g : Guard) (d a sh : Reg6) (s : State) : Out := scalar1 (· >>> sh.toNat) g d a 4 s

/-- SRAI (R141). -/
def execSrai (g : Guard) (d a sh : Reg6) (s : State) : Out := scalar1 (·.sshiftRight sh.toNat) g d a 4 s

/-- ROTRI (R141). -/
def execRotri (g : Guard) (d a sh : Reg6) (s : State) : Out := scalar1 (rotr64 · sh.toNat) g d a 4 s

/-- MOVI (R142). -/
def execMovi (g : Guard) (d : Reg6) (imm : BitVec 32) (s : State) : Out :=
  control g 8 [] [rs d] (fun s => s.putS d (imm.signExtend 64) 8) s

/-- ADDI.L (R142). -/
def execAddiL (g : Guard) (d a : Reg6) (imm : BitVec 32) (s : State) : Out := scalar1 (· + imm.signExtend 64) g d a 8 s

/-- ORHI (R142). -/
def execOrhi (g : Guard) (d a : Reg6) (imm : BitVec 32) (s : State) : Out := scalar1 (orHigh · imm) g d a 8 s

/-- ANDI.L (R142). -/
def execAndiL (g : Guard) (d a : Reg6) (imm : BitVec 32) (s : State) : Out := scalar1 (· &&& imm.signExtend 64) g d a 8 s

/-- XORI.L (R142). -/
def execXoriL (g : Guard) (d a : Reg6) (imm : BitVec 32) (s : State) : Out := scalar1 (· ^^^ imm.signExtend 64) g d a 8 s

/-- MULADD (R140). -/
def execMuladd (g : Guard) (d a b c : Reg6) (s : State) : Out :=
  control g 8 [rs a, rs b, rs c] [rs d]
    (fun s => s.putS d (s.thr.sreg a * s.thr.sreg b + s.thr.sreg c) 8) s

/-- BFXU (R143). -/
def execBfxu (g : Guard) (d a : Reg6) (pos len1 : BitVec 6) (s : State) : Out :=
  scalar1 (bfx · pos.toNat (len1.toNat + 1)) g d a 8 s

/-- BFXS (R143). -/
def execBfxs (g : Guard) (d a : Reg6) (pos len1 : BitVec 6) (s : State) : Out :=
  scalar1 (bfxSigned · pos.toNat (len1.toNat + 1)) g d a 8 s

/-- BFI reads its destination last (R136, R143). -/
def execBfi (g : Guard) (d a : Reg6) (pos len1 : BitVec 6) (s : State) : Out :=
  control g 8 [rs a, rs d] [rs d]
    (fun s => s.putS d (bfIns (s.thr.sreg d) (s.thr.sreg a) pos.toNat (len1.toNat + 1)) 8) s

/-- CMP (R144). -/
def execCmp (g : Guard) (c : ICond) (pd : PReg) (a b : Reg6) (s : State) : Out :=
  compare c g pd a [rs b] (fun t => t.sreg b) 4 s

/-- CMPI (R144). -/
def execCmpi (g : Guard) (c : ICond) (pd : PReg) (a : Reg6) (imm : BitVec 9) (s : State) : Out :=
  compare c g pd a [] (fun _ => imm.signExtend 64) 4 s

/-- CMPI.L (R144). -/
def execCmpiL (g : Guard) (c : ICond) (pd : PReg) (a : Reg6) (imm : BitVec 32) (s : State) : Out :=
  compare c g pd a [] (fun _ => imm.signExtend 64) 8 s

end Sys2Proof.Machine
end

