-- ==== Sys2Proof/Machine/Access.lean ====
section
/-! DEFINITION. Loads, stores and atomics as accesses of a thread: parts, failures, held pages, the trail, the counters of
outside-domain accesses (spec/03 R57-R76, spec/08 R183-R198). -/

namespace Sys2Proof.Machine

/-! ### Parts (R63, R193) -/

/-- The bytes of element e of an access in memory: `len` bytes at `va`, which hold the register bytes from `pos` on. -/
structure Elem where
  va : Word
  pos : Nat
  len : Nat
  deriving DecidableEq, Repr

/-- The register bytes of active elements. -/
def elemMask (es : List Elem) : BitVec 256 :=
  es.foldl (fun m e => m ||| BitVec.ofNat 256 ((2 ^ e.len - 1) * 2 ^ e.pos)) 0

/-- The part of a contiguous access in one line or row: from its first to its last active byte, none where no byte of it
is active (R184, R193). -/
def trimPart (mask : BitVec 256) (p : Part) : Option Part :=
  match findFrom (fun i => mask.getLsbD (p.pos + i)) 0 p.len with
  | none => none
  | some lo =>
    let n := (List.range p.len).foldl (fun a i => if mask.getLsbD (p.pos + i) then i + 1 else a) 0
    some { va := p.va + BitVec.ofNat 64 lo, pos := p.pos + lo, len := n - lo }

/-- The parts of a contiguous vector access (R63). -/
def contiguousParts (mask : BitVec 256) (va : Word) : List Part := (partsOf va 256).filterMap (trimPart mask)

/-- The parts of strided and indexed accesses: those of each active element in turn (R63). -/
def elemParts (es : List Elem) : List Part :=
  es.flatMap fun e => (partsOf e.va e.len).map fun p => { p with pos := e.pos + p.pos }

/-- The first byte that is read and lies in a marked granule, as an offset. -/
def State.markIn (s : State) (act : Nat → Bool) (pl : Place) (len : Nat) : Option Nat :=
  if s.marks = [] then none else findFrom (fun i => act i && s.marked (pl.add i)) 0 len

/-! ### Loads -/

/-- What reading one part comes to; a read that reaches its leaf and fails has set A there (R334). -/
inductive Got where
  | ok (s : State) (bs : List Byte)
  | held
  | fail (s : State) (f : Fail)
  deriving DecidableEq, Repr

/-- The register bytes that an operation reads. -/
def HeldOp.acts (op : HeldOp) (i : Nat) : Bool :=
  match op with
  | .vload m => m.getLsbD i
  | _ => true

/-- The loads that control space accepts: whole registers and halves, in one part (R191). -/
def HeldOp.readsCtl (op : HeldOp) (len : Nat) : Bool := (op == .load .z32 && len == 4) || (op == .load .x64 && len == 8)

/-- The copy in L2 of a line of another module's memory that a thread may use now: fetched at most 4 µs ago, and not before an
acquire at SYS of its core or of itself, nor before the thread last read the line at its home (R68, R70). -/
def State.usableCopy (s : State) (c : Ctx) (m line : Nat) : Option FabCopy :=
  s.fabCopies.find? fun x =>
    x.module == m && x.line == line && !x.barred.contains (coreOf c.gtid) && !x.homed.contains (c.pack, c.rank)
      && decide (s.now.toNat ≤ x.since + 4000 * Config.ns)

/-- The copy that serves a load at a place, if one does: a free value chooses where one may (R68). -/
def State.servingCopy (s : State) (c : Ctx) : Place → Option FabCopy
  | .remote m pa => (s.usableCopy c m (pa / 128)).filter fun _ => Config.usesCopy s.freeCtr
  | _ => none

/-- A thread has read the line of a place at its home: it goes back to no copy that was fetched before (R68). -/
def State.readHome (s : State) (c : Ctx) : Place → State
  | .remote m pa =>
    { s with fabCopies := s.fabCopies.map fun x =>
        if x.module = m ∧ x.line = pa / 128 then { x with homed := (c.pack, c.rank) :: x.homed } else x
             freeCtr := s.freeCtr + boolNat (s.usableCopy c m (pa / 128)).isSome }
  | _ => s

/-- The n bytes that a load finds at a place, through its leaf: those of a line of another module may come from a copy, by which
the load takes no path of the fabric (R68, R393). -/
def State.readPlace (s : State) (c : Ctx) (e : Option TlbEntry) (pl : Place) (n : Nat) : State × List Byte :=
  match s.servingCopy c pl with
  | some x => ({ s.useLeaf e false with freeCtr := s.freeCtr + 1 }, slice x.bytes (pl.off % 128) n)
  | none =>
    let s1 := ((s.touch e false).lease pl n).readHome c pl
    (s1, s1.peekN pl n)

/-- An acquire at SYS: neither its core nor its thread uses a copy fetched before it any more (R68, R70). -/
def State.acquire (s : State) (c : Ctx) : State :=
  { s with fabCopies := s.fabCopies.map fun x =>
      { x with barred := coreOf c.gtid :: x.barred, homed := (c.pack, c.rank) :: x.homed } }

/-- Reads one part of an operation (R184, R191, R334, R415). -/
def State.getPart (s : State) (c : Ctx) (op : HeldOp) (p : Part) : Got :=
  match s.locate c.agent p.va .load with
  | .held | .away => .held
  | .ok pl e =>
    let s1 := (s.touch e false).lease pl p.len
    match pl with
    | .ctl _ =>
      if op.readsCtl p.len then
        match s1.readPart p pl with
        | .ok bs => .ok s1 bs
        | .error f => .fail s1 f
      else .fail s1 ⟨0x11, Reason.refused, p.va, false, none⟩
    | _ =>
      match s1.markIn (fun i => op.acts (p.pos + i)) pl p.len with
      | some k => .fail s1 ⟨0x50, 0, p.va + BitVec.ofNat 64 k, true, none⟩
      | none => .ok (s.readPlace c e pl p.len).1 (s.readPlace c e pl p.len).2
  | x =>
    match x.failure p.va with
    | some f => .fail s f
    | none => .held

/-- Reads the parts in order, as far as none fails; a part on a held page stays open, and so do those after it (R63). -/
def State.getParts (s : State) (c : Ctx) (op : HeldOp) :
    List Part → State × Except Fail (List (Part × Option (List Byte)))
  | [] => (s, .ok [])
  | p :: r =>
    match s.getPart c op p with
    | .fail s0 f => (s0, .error f)
    | .held => (s, .ok ((p, none) :: r.map fun q => (q, none)))
    | .ok s0 bs =>
      let (s1, x) := s0.getParts c op r
      (s1, x.map fun l => (p, some bs) :: l)

/-- The register image of the parts that were read. -/
def imageOf (got : List (Part × Option (List Byte))) : Vec :=
  got.foldl (fun a g => a ||| BitVec.ofNat 2048 (leNat (g.2.getD []) * 2 ^ (8 * g.1.pos))) 0

/-- The extension of a load (R119, R188). -/
def extendLoad (sz : LdSz) (x : Nat) : Nat :=
  match sz with
  | .s8 => wrap 64 (signed 8 (x % 2 ^ 8))
  | .s16 => wrap 64 (signed 16 (x % 2 ^ 16))
  | .s32 => wrap 64 (signed 32 (x % 2 ^ 32))
  | _ => x

/-- The bytes of a load (R119). -/
def loadBytes : LdSz → Nat
  | .z8 | .s8 => 1
  | .z16 | .s16 => 2
  | .z32 | .s32 => 4
  | .x64 => 8

/-- The value of a load or vector load whose parts are all read. -/
def HeldOp.result (op : HeldOp) (got : List (Part × Option (List Byte))) : Result :=
  match op with
  | .load sz => fullS (extendLoad sz (imageOf got).toNat)
  | _ => .full (imageOf got)

/-- A load whose parts are the given ones: it completes, or waits for held pages (R184, R185, R335). `acq` is an acquire at
SYS. -/
def State.fetchData (s0 : State) (acq : Bool) (tag : ITag) (ctx : Ctx) (op : HeldOp) (va : Word) (ps : List Part) : State :=
  let s := if acq then s0.acquire ctx else s0
  match s.getParts ctx op ps with
  | (s1, .error f) => (s1.stick f.hole).fly tag ctx f.result
  | (s1, .ok got) =>
    match got.find? fun g => g.2.isNone with
    | none => s1.fly tag ctx (op.result got)
    | some g =>
      { s1 with held := s1.held ++ [{ tag := tag, ctx := ctx, op := op, va := va, got := got, reserved := 0, acq := acq,
                                      hold := s1.newHold ctx.agent g.1.va }] }

/-- The ranges that a watchpoint compares with (R378). -/
def rangesOf (ps : List Part) : List (Nat × Nat) := ps.map fun p => (p.va.toNat, p.len)

/-- A load of the current thread into register i (R185). It issues once the beacons of the slots that it leaves by have been
checked (R394). -/
def State.loadInto (s : State) (acq : Bool) (i : Nat) (mask : BitVec 256) (op : HeldOp) (va : Word) (ps : List Part)
    (len : Nat) : State :=
  if ps.any fun p => s.locate (s.agentOf s.cur) p.va .load == .away then s.wait
  else
    s.checked 0 true false (rangesOf ps) fun s =>
      s.produce i Cls.lsu mask len fun tag ctx s => s.fetchData acq tag ctx op va ps

/-! ### Stores -/

/-- One part of a store: where it goes, the span of register bytes, and which bytes of it are written. -/
structure Piece where
  part : Part
  bytes : List Byte
  act : List Bool
  deriving DecidableEq, Repr

/-- The pieces of a store of the bytes of an image. -/
def piecesOf (mask : BitVec 256) (image : List Byte) (ps : List Part) : List Piece :=
  ps.map fun p => { part := p, bytes := slice image p.pos p.len, act := tabulate p.len fun i => mask.getLsbD (p.pos + i) }

/-- Whether every byte of a piece is written. -/
def Piece.whole (p : Piece) : Bool := p.act.all id

/-- The bytes of a piece merged with the old ones of the place. -/
def Piece.merged (p : Piece) (old : List Byte) : List Byte :=
  if p.whole then p.bytes else (p.bytes.zip (p.act.zip old)).map fun x => if x.2.1 then x.1 else x.2.2

/-- Runs of written bytes as (offset, bytes). -/
def Piece.runs (p : Piece) : List (Nat × List Byte) :=
  if p.whole then [(0, p.bytes)]
  else (p.bytes.zip p.act).zipIdx.filterMap fun x => if x.1.2 then some (x.2, [x.1.1]) else none

/-- Whether the failure of a store part raises ACCESS_FAULT: a translation fault, or a refusal in the SC domain
(R184). -/
def Fail.traps (f : Fail) : Bool := f.code == 0x10 || f.code == 0x50 || f.sc

/-- An outside-domain store or atomic is issued: COUNT advances and its acknowledgement is awaited (R69, R73). -/
def State.issueOutside (s : State) (f : Fate) : State :=
  s.onThr fun t => { t with count := satInc t.count, unacked := t.unacked ++ [f] }

/-- The subkind of the fence entry of an outside-domain access (R376). -/
def fenceSub : Xlat → Nat
  | .ok (.host _) _ => 1
  | .ok (.ctl _) _ => 3
  | .ok (.remote _ _) _ => 2
  | .dead sub => sub
  | .refused sub => sub
  | _ => 0

/-- Bytes of trail entries of one located part (R186, R370). -/
def partRoom (x : Xlat) (len : Nat) : Nat :=
  match x with
  | .ok (.dev _) _ | .ok (.pool _ _ _) _ => if len ≤ 8 then 64 else 288
  | _ => 0

/-- Whether a located part lies outside the SC domain. -/
def Xlat.outside : Xlat → Bool
  | .ok p _ => !p.sc
  | .dead _ | .away => true
  | .refused sub => sub != 0
  | _ => false

/-- Bytes of the trail entries of a store (R186). -/
def storeRoom (ls : List Located) : Nat :=
  (ls.map fun l => partRoom l.2 l.1.len).foldl (· + ·) 0 + if ls.any fun l => l.2.outside then 64 else 0

/-- Writes one piece in the SC domain with its trail entry: the written bytes change and no other, at one time (R65, R186). -/
def State.putPiece (s : State) (tr : Option Region) (g : Nat) (p : Piece) (pl : Place) : State :=
  let s1 := match tr with
    | some r => s.logWrite r Kind.store p.part.va pl p.part.len g
    | none => s
  if p.whole then s1.putT pl p.bytes (s.writeTime pl p.part.len) else s1.putMask pl p.bytes p.act (s.writeTime pl p.part.len)

/-- Performs one piece of a store (R74, R191). -/
def State.storePiece (s : State) (tr : Option Region) (p : Piece) (x : Xlat) : State :=
  match x with
  | .ok pl e =>
    let s0 := s.touch e true
    match pl with
    | .dev _ | .pool _ _ _ => s0.putPiece tr s0.cur p pl
    | .ctl off =>
      match (if p.whole then s0.ctlStore off p.bytes.length (leNat p.bytes) else none) with
      | some s1 => s1.issueOutside .done
      | none => s0.issueOutside .refused
    | _ => (p.runs.foldl (fun a r => a.put (pl.add r.1) r.2) s0).issueOutside .done
  | .dead _ => s.issueOutside .dead
  | .refused _ => s.issueOutside .refused
  | _ => s

/-- The first part that raises ACCESS_FAULT. -/
def firstTrap (ls : List Located) : Option Fail :=
  ls.findSome? fun l => (l.2.failure l.1.va).filter Fail.traps

/-- A vector or a multi-part access to control space is refused part by part (R191): `vector` says so. -/
def refuseVector (vector : Bool) (ls : List Located) : List Located :=
  if vector || decide (1 < ls.length) then ls.map fun l => match l.2 with
    | .ok (.ctl _) _ => (l.1, .refused 3)
    | _ => l
  else ls

/-- Where a part of a store is performed: one whose leaf an earlier part has changed, where A or D would be set, walks again
(R334). -/
def State.rewalk (s : State) (va : Word) (x : Xlat) : Xlat :=
  match x with
  | .ok _ (some e) => if e.marked true || s.sameLeaf e then x else s.locate (s.agentOf s.cur) va .store
  | _ => x

/-- Performs the pieces of a store in order, all in this step (DESIGN CHOICE, notes/assumptions/38.md); a piece that walks again
may meet a failure or a wait. -/
def State.storeAll (s : State) (tr : Option Region) : List (Piece × Xlat) → State × Option (Word × Xlat)
  | [] => (s, none)
  | (p, x) :: r =>
    let y := s.rewalk p.part.va x
    if y == .held || y == .away || ((y.failure p.part.va).filter Fail.traps).isSome then (s, some (p.part.va, y))
    else (s.storePiece tr p y).storeAll tr r

/-- A store of the current thread: every part is translated and checked before any is performed (R184); then room in the
trail, watchpoints, and the parts in order. `rel` is a release at SYS, which waits for acknowledgements (R69). -/
def State.storeParts (s : State) (vector rel : Bool) (ps : List Piece) (len : Nat) : State :=
  let ls := refuseVector vector (s.locateAll (s.agentOf s.cur) .store (ps.map (·.part)))
  match firstTrap ls with
  | some f => s.accessFault f
  | none =>
    match ls.find? fun l => l.2 == .held with
    | some l => s.holdWait l.1.va
    | none =>
      if ls.any fun l => l.2 == .away then s.wait
      else
        s.checked (storeRoom ls) false true (rangesOf (ps.map (·.part))) fun s =>
          if rel && s.thr.unacked != [] then s.wait
          else
            let tr := s.trailOf s.thr.pack
            let s1 := match tr, ls.find? fun l => l.2.outside with
              | some r, some l => s.logFence r (fenceSub l.2) l.1.va s.cur
              | _, _ => s
            match s1.storeAll tr (ps.zip (ls.map (·.2))) with
            | (s2, none) => s2.advance len
            | (s2, some (va, y)) =>
              match y.failure va with
              | some f => s2.accessFault f
              | none => if y = .held then s2.holdWait va else s2.wait

/-! ### Atomics (R75, R76, R196-R198) -/

/-- Bytes of an atomic's type (R196). -/
def atomBytes : AWidth → Nat
  | .i32 | .f32 => 4
  | .i64 => 8
  | .bf16 => 2

/-- What an atomic writes; none where a compare-and-swap does not write (R197). -/
def atomNew (op : AOp) (aw : AWidth) (old opd cmp : Nat) : Option Nat :=
  let n := 8 * atomBytes aw
  let o := BitVec.ofNat n old
  let x := BitVec.ofNat n opd
  match op with
  | .add =>
    match aw with
    | .f32 => some (fp32.add .rne old opd).1
    | .bf16 => some (bf16.add .rne old opd).1
    | _ => some (o + x).toNat
  | .and => some (o &&& x).toNat
  | .or => some (o ||| x).toNat
  | .xor => some (o ^^^ x).toNat
  | .mins => some (minS o x).toNat
  | .minu => some (minU o x).toNat
  | .maxs => some (maxS o x).toNat
  | .maxu => some (maxU o x).toNat
  | .swap => some x.toNat
  | .cas => if old = cmp then some x.toNat else none

/-- Whether an atomic is an FP add. -/
def isFpAdd (op : AOp) (aw : AWidth) : Bool := op == .add && (aw == .f32 || aw == .bf16)

/-- A memory-side page: its atomics execute in stack logic (R57). -/
def memorySide : Xlat → Bool
  | .ok (.dev _) (some e) => bits e.leaf 59 59 == 1
  | _ => false

/-- Whether an atomic executes in stack logic: on a memory-side page in this package's, on a page of another module in that
module's (R57). -/
def inStack : Xlat → Bool
  | .ok (.remote _ _) _ | .dead 2 | .refused 2 | .away => true
  | x => memorySide x

/-- The class that an atomic binds (R57, R185). -/
def atomClass (x : Xlat) : Nat := if inStack x then Cls.stack else Cls.lsu

/-- The old value at an atomic's location; none with an uncorrectable soft error. -/
def State.atomOld (s : State) (pl : Place) (n : Nat) : Option Nat :=
  if (s.firstMark pl 0 n).isSome then none else some (s.peekNat pl n)

/-- Whether an atomic would write. -/
def State.atomWrites (s : State) (op : AOp) (aw : AWidth) (opd cmp : Nat) (pl : Place) : Bool :=
  match s.atomOld pl (atomBytes aw) with
  | none => false
  | some old => (atomNew op aw old opd cmp).isSome

/-- Performs an atomic at its place, in one access (R197). -/
def State.doAtom (s : State) (tag : ITag) (ctx : Ctx) (op : AOp) (aw : AWidth) (opd cmp : Nat) (va : Word) (pl : Place)
    (e : Option TlbEntry) : State :=
  let n := atomBytes aw
  let s0 := s.touch e (s.atomWrites op aw opd cmp pl)
  match s0.atomOld pl n with
  | none => s0.fly tag ctx (.poison Poison.soft va 0 0)
  | some old =>
    let s1 := match atomNew op aw old opd cmp with
      | none => (s0.lease pl n).readHome ctx pl
      | some new =>
        if pl.sc then s0.putLogged (s0.trailOf ctx.pack) Kind.atom va pl (natLe n new) ctx.gtid else s0.put pl (natLe n new)
    s1.fly tag ctx (fullS old)

/-- The effect of an atomic whose location has been translated. -/
def State.performAtom (s : State) (tag : ITag) (ctx : Ctx) (op : AOp) (aw : AWidth) (opd cmp : Nat) (va : Word) (x : Xlat) :
    State :=
  match x with
  | .ok (.ctl _) _ => s.fly tag ctx (.poison Poison.refused va 0 Reason.refused)
  | .ok pl e => s.doAtom tag ctx op aw opd cmp va pl e
  | x =>
    match x.failure va with
    | some f => (s.stick f.hole).fly tag ctx f.result
    | none => s

/-- The fate of an outside-domain atomic. -/
def atomFate : Xlat → Fate
  | .dead _ => .dead
  | .ok (.ctl _) _ | .refused _ => .refused
  | _ => .done

/-- Bytes of the trail entry of an atomic (R186). -/
def State.atomRoom (s : State) (op : AOp) (aw : AWidth) (opd cmp : Nat) (x : Xlat) : Nat :=
  match x with
  | .held => 64
  | .ok pl _ => if pl.sc then (if s.atomWrites op aw opd cmp pl then 64 else 0) else 64
  | x => if x.outside then 64 else 0

/-- An atomic whose page is held waits with its destination pending (R335); its trail entry is reserved. -/
def State.holdAtom (s : State) (acq : Bool) (tag : ITag) (ctx : Ctx) (op : HeldOp) (va : Word) : State :=
  { s with held := s.held ++ [{ tag := tag, ctx := ctx, op := op, va := va, got := [], acq := acq,
                                reserved := if (s.trailOf ctx.pack).isSome then 64 else 0,
                                hold := s.newHold ctx.agent va }] }

/-- An outside-domain atomic writes a fence entry and is counted (R73, R74, R186), a compare-and-swap that does not write too
(DESIGN CHOICE, notes/assumptions/38.md). -/
def State.outsideAtom (s : State) (ctx : Ctx) (va : Word) (x : Xlat) : State :=
  (match s.trailOf ctx.pack with
    | some r => s.logFence r (fenceSub x) va ctx.gtid
    | none => s).issueOutside (atomFate x)

/-- The checks of ATOM at step 6 and its effect (R197); `acqSys` and `relSys` say that it acquires or releases at SYS. Where the
page is held, what the leaf says decides where it will execute. -/
def State.atomic (s : State) (d : Reg6) (va : Word) (op : AOp) (aw : AWidth) (opd cmp : Nat) (acqSys relSys : Bool) : State :=
  let n := atomBytes aw
  if va.toNat % n ≠ 0 then s.trap (.misaligned va)
  else
    let x := s.locate (s.agentOf s.cur) va .rmw
    let y := (s.beyondHold (s.agentOf s.cur) va .rmw).getD x
    if s.thr.dclass ∧ inStack y ∧ isFpAdd op aw then s.trap (.plain .determinism)
    else if x = .away then s.wait
    else
      s.checked (s.atomRoom op aw opd cmp x) true true [(va.toNat, n)] fun s =>
        if relSys && s.thr.unacked != [] then s.wait
        else
          s.produce (rs d) (atomClass y) allBytes 8 fun tag ctx s0 =>
            let s := if acqSys then s0.acquire ctx else s0
            if x = .held then s.holdAtom acqSys tag ctx (.atom op aw (BitVec.ofNat 64 opd) (BitVec.ofNat 64 cmp)) va
            else (if x.outside then s.outsideAtom ctx va x else s).performAtom tag ctx op aw opd cmp va x

end Sys2Proof.Machine
end

