-- ==== Sys2Proof/Machine/Resid.lean ====
section
/-! DEFINITION. PROBE and residency requests (spec/08 R199, R200, spec/19 R343, R344). -/

namespace Sys2Proof.Machine

/-- The needs of a PROBE (R333). -/
def probeNeed (write : Bool) : Need := if write then .rmw else .load

/-- The bytes of a residency record (R344). -/
def Request.bytes (r : Request) (now : Nat) : List Byte :=
  slice (natLe 4 r.id ++ natLe 2 r.asid.toNat ++ natLe 1 (boolNat r.write) ++ natLe 1 r.reason ++ natLe 8 r.page
    ++ natLe 8 now) 0 64

/-- Whether the residency ring takes a record (R339, R343). -/
def State.ringRoom (s : State) : Bool :=
  s.cfield 0x2010 0 0 == 1
    && decide ((s.cfield 0x2018 31 0 + 2 ^ 32 - s.cfield 0x2020 31 0) % 2 ^ 32 < 2 ^ s.cfield 0x2010 7 4)

/-- Posts a request where the ring has room: the record, then TAIL, then the signal to the host (R343). -/
def State.post (s : State) (id : Nat) : State :=
  match s.requests.find? fun r => r.id == id with
  | none => s
  | some r =>
    if r.posted || !s.ringRoom then s
    else
      let tail := s.cfield 0x2018 31 0
      let pa := s.cfield 0x2008 47 12 * 4096 + 64 * (tail % 2 ^ s.cfield 0x2010 7 4)
      if Config.deviceBytes < pa + 64 then s.stick (some pa)
      else
      let s1 := s.put (.dev pa) (r.bytes s.now.toNat)
      let s2 := (s1.setCfield 0x2018 31 0 (tail + 1)).signal 1
      { s2 with requests := s2.requests.map fun x => if x.id = id then { x with posted := true } else x }

/-- Posts the requests that wait for room in the ring, oldest first. -/
def State.postAll (s : State) : State := s.requests.foldl (fun a r => a.post r.id) s

/-- The outstanding request for a page and an access type. -/
def State.requestFor (s : State) (asid : BitVec 16) (page : Nat) (write : Bool) : Option Request :=
  s.requests.find? fun r => r.asid == asid && r.page == page && r.write == write

/-- Makes sure that a request for a page is outstanding; one is shared by every PROBE of the page and access type, and so is the
count of its RESOLVED answers (R343). -/
def State.ask (s : State) (asid : BitVec 16) (page : Nat) (write : Bool) (reason tries : Nat) : State :=
  match s.requestFor asid page write with
  | some r =>
    { s with requests := s.requests.map fun x => if x.id = r.id then { x with tries := max x.tries tries } else x }
  | none =>
    let id := s.nextRequest % 2 ^ 32
    let r : Request := { id := id, asid := asid, page := page, write := write, reason := reason, tries := tries,
                         posted := false, since := s.now.toNat }
    { s with nextRequest := s.nextRequest + 1, requests := s.requests ++ [r] }.post id

/-- What checking the pages of a PROBE from its address on comes to. -/
inductive Probed where
  | done (p : Probe)
  | held (p : Probe)
  | fail (p : Probe) (code reason : Nat)
  deriving DecidableEq, Repr

/-- Checks page after page, at the size it is mapped at, as far as one that fails: R200 does not say whether the requests for
several such pages are posted together, and the next one is posted once this page is resolved (DESIGN CHOICE,
notes/assumptions/46.md). -/
def State.probePages (s : State) (p : Probe) : Nat → Probed
  | 0 => .done p
  | fuel + 1 =>
    if p.hi ≤ p.lo then .done p
    else
      match s.walk p.ctx.asid p.lo (probeNeed p.write) with
      | .fail c r => .fail p c r
      | .leaf e =>
        if bits e.leaf 7 7 = 1 then .held p
        else
          s.probePages { p with lo := (p.lo / 2 ^ e.size + 1) * 2 ^ e.size, pages := p.pages + 1,
                                serviced := p.serviced + boolNat p.asked, asked := false, tries := 0, hold := none } fuel

/-- PROBE's completion word (R200). -/
def probeWord (p : Probe) : Nat := min 0xFFFF p.serviced * 2 ^ 32 + p.pages

/-- Checks the rest of a PROBE's range: it completes, waits, or poisons (R200, R343). -/
def State.probe (s : State) (p : Probe) : State :=
  match s.probePages p 65540 with
  | .done q => s.fly q.tag q.ctx (fullS (probeWord q))
  | .held q => { s with probes := s.probes ++ [{ q with hold := some (s.newHold q.ctx.agent (BitVec.ofNat 64 q.lo)) }] }
  | .fail q code reason =>
    let va := BitVec.ofNat 64 q.lo
    if code ≠ 0x10 then s.fly q.tag q.ctx (.poison code va 0 reason)
    else if s.cfield 0x2010 0 0 = 0 then s.fly q.tag q.ctx (.poison Poison.fault va 0 Reason.notMapped)
    else if 3 ≤ q.tries then s.fly q.tag q.ctx (.poison Poison.fault va 0 Reason.notResident)
    else
      let s1 := s.ask q.ctx.asid (q.lo / 65536 * 65536) q.write reason q.tries
      { s1 with probes := s1.probes ++ [{ q with asked := true }] }

/-- The PROBEs that wait for a request. -/
def State.askers (s : State) (r : Request) : List Probe :=
  s.probes.filter fun p => p.asked && p.hold.isNone && p.ctx.asid == r.asid && p.lo / 65536 * 65536 == r.page
    && p.write == r.write

/-- Takes the PROBEs of a request out of the list, and the request with them. -/
def State.dropRequest (s : State) (r : Request) : State :=
  let mine := s.askers r
  { s with probes := s.probes.filter fun p => !mine.contains p, requests := s.requests.filter fun x => x.id ≠ r.id }

/-- The request of an answer ends: its PROBEs walk again (RESOLVED), or poison with a reason (R343). -/
def State.answerAsk (s : State) (r : Request) (reason : Option Nat) : State :=
  let mine := s.askers r
  mine.foldl (fun a p =>
    match reason with
    | none => a.probe { p with tries := r.tries + 1 }
    | some why => a.fly p.tag p.ctx (.poison Poison.fault (BitVec.ofNat 64 p.lo) 0 why)) (s.dropRequest r)

/-- The event's own name when no such event can happen. -/
def notNow (name : String) : Out := .refused (.notEnabled name)

/-- PROBE (R199, R200). A range that crosses 2^52 and starts below it also touches the local window: it takes 0x0011 (DESIGN
CHOICE, notes/assumptions/38.md). -/
def probeForm (write : Bool) (g : Guard) (d a b : Reg6) (s : State) : Out :=
  control g 4 [rs a, rs b] [rs d] (fun s =>
    let lo := (s.thr.sreg a).toNat
    let n := (s.thr.sreg b).toNat
    s.produce (rs d) Cls.xlat allBytes 4 fun tag ctx s =>
      if n = 0 then s.fly tag ctx (fullS 0)
      else if 2 ^ 32 < n ∨ (lo < 2 ^ 52 ∧ 0xFFF * 2 ^ 40 < lo + n) then
        s.fly tag ctx (.poison Poison.refused (BitVec.ofNat 64 lo) 0 Reason.refused)
      else if 2 ^ 52 < lo + n then s.fly tag ctx (.poison Poison.fault (BitVec.ofNat 64 lo) 0 Reason.range)
      else
        s.probe { tag := tag, ctx := ctx, write := write, lo := lo, hi := lo + n, pages := 0, serviced := 0, asked := false,
                  tries := 0, hold := none }) s

/-- PROBE.R (R199, R200). -/
def execProbeR (g : Guard) (d a b : Reg6) (s : State) : Out := probeForm false g d a b s

/-- PROBE.W (R199, R200). -/
def execProbeW (g : Guard) (d a b : Reg6) (s : State) : Out := probeForm true g d a b s

/-- RQRESP with outcome RESOLVED (R343); an ID that names no outstanding request is ignored. -/
def execResolved (s : State) : Out :=
  match s.ev with
  | some (.resolved id) =>
    match s.requests.find? fun r => r.id == id.toNat with
    | some r => .next (s.answerAsk r none)
    | none => .next s
  | _ => notNow "RESOLVED"

/-- RQRESP with outcome INVALID (R343). -/
def execInvalid (s : State) : Out :=
  match s.ev with
  | some (.invalid id) =>
    match s.requests.find? fun r => r.id == id.toNat with
    | some r => .next (s.answerAsk r (some Reason.invalid))
    | none => .next s
  | _ => notNow "INVALID"

/-- A request unanswered after TIMEOUT (R343). -/
def execResidencyTimeout (s : State) : Out :=
  match s.ev with
  | some (.residencyTimeout id) =>
    match s.requests.find? fun r => r.id == id.toNat with
    | some r => if s.outlasted r.since then .next (s.answerAsk r (some Reason.timeout)) else notNow "RESIDENCY TIMEOUT"
    | none => notNow "RESIDENCY TIMEOUT"
  | _ => notNow "RESIDENCY TIMEOUT"

end Sys2Proof.Machine
end

