-- ==== Sys2Proof/Machine/Ring.lean ====
section
/-! DEFINITION. Staging rings (spec/09 R225-R230, spec/14 R298). -/

namespace Sys2Proof.Machine

/-- A ring that has not been reset since its pack started. -/
def idleRing : Ring :=
  { base := 0, asid := 0, log2n := 0, eb := 0, fill := 0, free := 0, marks := [], reset := false }

/-- The ring with a key: 16 times its core's number, plus its own. -/
def State.ring (s : State) (key : Nat) : Ring := tget idleRing s.rings key

/-- Replaces a ring. -/
def State.setRing (s : State) (key : Nat) (r : Ring) : State := { s with rings := tset s.rings key r }

/-- N of a ring. -/
def Ring.n (r : Ring) : Nat := 2 ^ r.log2n

/-- The mark of the entry that sequence number q uses. -/
def Ring.mark (r : Ring) (q : Nat) : Nat := tget 0 r.marks (q % r.n)

/-- Sets the mark of the entry that sequence number q uses. -/
def Ring.setMark (r : Ring) (q m : Nat) : Ring := { r with marks := tset r.marks (q % r.n) m }

/-- The modular comparison x ≥ y (R225). -/
def modGe (x y : BitVec 32) : Bool := decide ((x - y).toNat < 2 ^ 31)

/-- The advance step (R225). -/
def Ring.advanceStep (r : Ring) : Nat → Ring
  | 0 => r
  | fuel + 1 =>
    if r.mark r.fill.toNat ≠ 0 ∧ (r.fill - r.free).toNat < r.n then { r with fill := r.fill + 1 }.advanceStep fuel else r

/-- The address of entry q. -/
def Ring.entry (r : Ring) (q : Nat) : Word := r.base + BitVec.ofNat 64 (q % r.n * r.eb)

/-- Whether one of the n entries from FREE on is marked poisoned. -/
def Ring.poisonedAhead (r : Ring) : Nat → Bool
  | 0 => false
  | n + 1 => r.poisonedAhead n || r.mark (r.free.toNat + n) == 2

/-- The completion word of a ring command (R230). -/
def Ring.word (r : Ring) (free : Bool) : Nat :=
  if free then r.fill.toNat * 2 ^ 32 + r.free.toNat else r.free.toNat * 2 ^ 32 + r.fill.toNat

/-- What a RING.WAIT finds: nothing yet, or its result (R228). -/
def Ring.waitResult (r : Ring) (free : Bool) (target : BitVec 32) : Option Result :=
  if free then if modGe r.free target then some (fullS (r.word true)) else none
  else if modGe r.fill target then
    let n := if modGe r.free target then 0 else min (target - r.free).toNat r.n
    if r.poisonedAhead n then some (poisonOf Poison.ring) else some (fullS (r.word false))
  else none

/-- The granules of a ring's context that hold an uncorrectable soft error: whatever reads the context finds poison 0x0050 (R414,
R415). -/
def State.ringBad (s : State) (key : Nat) : Bool :=
  s.marks.any fun m => match m with
    | .ring k _ => k == key
    | _ => false

/-- A ring's context is written whole: no granule of it is marked any more (R415). -/
def State.ringClean (s : State) (key : Nat) : State :=
  { s with marks := s.marks.filter fun m => match m with
      | .ring k _ => k != key
      | _ => true }

/-- The rings of a core before a reset. -/
def State.freshRings (s : State) (core : Nat) : State :=
  (List.range 16).foldl (fun a r => (a.ringClean (core * 16 + r)).setRing (core * 16 + r) idleRing) s

/-- The pending RING.WAITs of a ring are tested again. -/
def State.ringWake (s : State) (key : Nat) : State :=
  let r := s.ring key
  let hit := fun (w : RingWait) =>
    if w.ring ≠ key then none else if s.ringBad key then some (poisonOf Poison.soft) else r.waitResult w.free w.target
  let s1 := { s with ringWaits := s.ringWaits.filter fun w => (hit w).isNone }
  s.ringWaits.foldl (fun a w =>
    match hit w with
    | some x => a.fly w.tag w.ctx x
    | none => a) s1

/-- A ring takes new contents, its advance step is run, and its waits are tested again. -/
def State.ringStep (s : State) (key : Nat) (r : Ring) : State :=
  (s.setRing key (r.advanceStep (r.n + 1))).ringWake key

/-- Marks entry q filled or poisoned (R227). -/
def State.ringMark (s : State) (key q m : Nat) : State := s.ringStep key ((s.ring key).setMark q m)

/-- Frees n entries that lie below FILL (R228). -/
def Ring.release (r : Ring) : Nat → Ring
  | 0 => r
  | n + 1 => { r.setMark r.free.toNat 0 with free := r.free + 1 }.release n

/-- RING.ADV.FREE by n (R228). -/
def State.ringFree (s : State) (key n : Nat) : State :=
  let r := s.ring key
  s.ringStep key (r.release (min n (r.fill - r.free).toNat))

/-- Marks the empty entries among n from FILL on that lie below FREE + N (R228). -/
def Ring.fillEmpty (r : Ring) : Nat → Ring
  | 0 => r
  | n + 1 =>
    let x := r.fillEmpty n
    let q := r.fill.toNat + n
    if r.mark q = 0 then x.setMark q 1 else x

/-- RING.ADV.FILL by n (R228). -/
def State.ringFill (s : State) (key n : Nat) : State :=
  let r := s.ring key
  s.ringStep key (r.fillEmpty (min n (r.n - (r.fill - r.free).toNat)))

/-- The ring that a reference names for the issuer of a command (R226): `fresh` allows a ring that has not been reset. -/
def State.ringOf (s : State) (ctx : Ctx) (ref : Word) (fresh : Bool) : Option Nat :=
  let core := clusterOf (coreOf ctx.gtid) * 128 + bits ref 10 4
  let key := core * 16 + bits ref 3 0
  if bits ref 31 11 ≠ 0 ∨ ((s.core core).pack.map (· / 2 ^ 24)) ≠ some (ctx.pack / 2 ^ 24)
      ∨ (!fresh && !(s.ring key).reset) = true then none
  else some key

/-- Entries of rings that are no more what they were are not freed when their frame's listeners finish (R229, R253). -/
def State.dropUnfreed (s : State) (gone : Nat → Bool) : State :=
  { s with seqrs := s.seqrs.map fun x =>
      (x.1, { x.2 with unfreed := x.2.unfreed.map fun u => { u with keep := u.keep || gone u.ring } }) }

/-- A ring takes a new geometry; commands that wait for its entries and its RING.WAITs are poisoned, and the marks of
copies under way are discarded (R229). -/
def State.resetRing (s : State) (key : Nat) (base : Word) (asid : BitVec 16) (log2n eb : Nat) : State :=
  let s1 := ((s.ringClean key).dropUnfreed (· == key)).setRing key
    { base := base, asid := asid, log2n := log2n, eb := eb, fill := 0, free := 0, marks := [], reset := true }
  let mine := fun (w : RingWait) => w.ring == key
  let s2 := (s1.ringWaits.filter mine).foldl (fun a w => a.fly w.tag w.ctx (poisonOf Poison.refused))
    { s1 with ringWaits := s1.ringWaits.filter fun w => !mine w }
  { s2 with copies := s2.copies.map fun c => if c.ring = some key then { c with stale := true } else c }

/-- Where an address lies; on a held page, where the leaf says that it lies. -/
def State.beyond (s : State) (ag : Agent) (va : Word) : Xlat := (s.beyondHold ag va Need.any).getD (s.locate ag va Need.any)

/-- Whether the byte at an address lies in the SC domain (R219, R229). An address whose page does not translate as a command is
issued counts as outside: R219 and R222 give 0x0011 and 0x0010 and name no order (DESIGN CHOICE, notes/assumptions/48.md). -/
def State.liesSc (s : State) (ag : Agent) (va : Word) : Bool :=
  match s.beyond ag va with
  | .ok p _ => p.sc
  | _ => false

/-- The frame of RING.ADV and RING.WAIT. -/
def ringCommand (g : Guard) (d a b : Reg6) (body : Word → ITag → Ctx → Nat → State → State) (s : State) : Out :=
  control g 8 [rs a, rs b] [rs d] (fun s =>
    let t := s.thr
    s.inOrder fun s =>
      s.produce (rs d) Cls.copy allBytes 8 fun tag ctx s =>
        match s.ringOf ctx (t.sreg a) false with
        | none => s.fly tag ctx (poisonOf Poison.refused)
        | some key => if s.ringBad key then s.fly tag ctx (poisonOf Poison.soft) else body (t.sreg b) tag ctx key s) s

/-- RING.ADV.FILL (R228). -/
def execRingAdvFill (g : Guard) (d a b : Reg6) (s : State) : Out :=
  ringCommand g d a b (fun x tag ctx key s =>
    let s1 := s.ringFill key (bits x 31 0)
    s1.fly tag ctx (fullS ((s1.ring key).word false))) s

/-- RING.ADV.FREE (R228). -/
def execRingAdvFree (g : Guard) (d a b : Reg6) (s : State) : Out :=
  ringCommand g d a b (fun x tag ctx key s =>
    let s1 := s.ringFree key (bits x 31 0)
    s1.fly tag ctx (fullS ((s1.ring key).word true))) s

/-- A RING.WAIT starts (R228). -/
def State.startRingWait (s : State) (free : Bool) (x : Word) (tag : ITag) (ctx : Ctx) (key : Nat) : State :=
  let target : BitVec 32 := x.setWidth 32
  match (s.ring key).waitResult free target with
  | some r => s.fly tag ctx r
  | none => { s with ringWaits := s.ringWaits ++ [{ tag := tag, ctx := ctx, ring := key, free := free, target := target }] }

/-- RING.WAIT.FILL (R228). -/
def execRingWaitFill (g : Guard) (d a b : Reg6) (s : State) : Out :=
  ringCommand g d a b (fun x tag ctx key s => s.startRingWait false x tag ctx key) s

/-- RING.WAIT.FREE (R228). -/
def execRingWaitFree (g : Guard) (d a b : Reg6) (s : State) : Out :=
  ringCommand g d a b (fun x tag ctx key s => s.startRingWait true x tag ctx key) s

/-- Whether the operands of a RING.RESET are a geometry (R229). -/
def State.goodGeometry (s : State) (ag : Agent) (base geo : Word) : Bool :=
  base.toNat % 4096 == 0 && bits geo 31 4 == 0 && bits geo 63 48 == 0 && decide (1 ≤ bits geo 3 0)
    && decide (bits geo 3 0 ≤ 12) && decide (1 ≤ bits geo 47 32) && decide (bits geo 47 32 ≤ 8192) && s.liesSc ag base

/-- RING.RESET: the new geometry takes effect as its future completes (R229, R298). -/
def execRingReset (g : Guard) (d a b c : Reg6) (s : State) : Out :=
  control g 8 [rs a, rs b, rs c] [rs d] (fun s =>
    let t := s.thr
    let geo := t.sreg c
    s.inOrder fun s =>
      s.produce (rs d) Cls.copy allBytes 8 fun tag ctx s =>
        match s.ringOf ctx (t.sreg a) true with
        | none => s.fly tag ctx (poisonOf Poison.refused)
        | some key =>
          if s.goodGeometry ctx.agent (t.sreg b) geo then
            s.fly tag ctx (.reset key (t.sreg b) (bits geo 3 0) (bits geo 47 32 * 128))
          else s.fly tag ctx (poisonOf Poison.refused)) s

/-- A completion arrives at its binding; that of a RING.RESET takes effect now, on a ring whose core still holds the
launch (R226, R298). -/
def State.arrive (s : State) (f : Flight) : State :=
  match f.res with
  | .reset key base log2n eb =>
    (if ((s.core (key / 16)).pack.map (· / 2 ^ 24)) = some (f.ctx.pack / 2 ^ 24) then
        s.resetRing key base f.ctx.asid log2n eb
      else s).complete f
  | _ => s.complete f

/-- COMPLETION: a completion in flight arrives (R32, R52). -/
def execCompletion (s : State) : Out :=
  match s.ev with
  | some (.completion i) =>
    match s.flying[i]? with
    | some f => .next ({ s with flying := s.flying.eraseIdx i }.arrive f)
    | none => notNow "COMPLETION"
  | _ => notNow "COMPLETION"

end Sys2Proof.Machine
end

