-- ==== Sys2Proof/Machine/Copy.lean ====
section
/-! DEFINITION. Copy engines (spec/09 R216-R224, R227, spec/17 R307): the four commands, and the event in which an engine
makes the next access of one command. -/

namespace Sys2Proof.Machine

/-! ### Accesses of an engine -/

/-- Translation of an engine's access; control space refuses every engine (R191). -/
def State.engineLocate (s : State) (ag : Agent) (need : Need) (va : Word) : Xlat :=
  match s.locate ag va need with
  | .ok (.ctl _) _ => .refused 3
  | x => x

/-- A range cut at 4 KiB-aligned addresses. -/
def segmentsOf (va : Word) : Nat → Nat → List (Word × Nat)
  | 0, _ => []
  | _, 0 => []
  | fuel + 1, n + 1 =>
    let k := min (n + 1) (4096 - va.toNat % 4096)
    (va, k) :: segmentsOf (va + BitVec.ofNat 64 k) fuel (n + 1 - k)

/-- What an engine's source read comes to. -/
inductive Sourced where
  | data (s : State) (bs : List Byte)
  | held (va : Word)
  /-- A link waits for a beacon (R394). -/
  | away
  /-- A failure, and the state with A set in the leaves that were read through (R334). -/
  | fail (s : State) (f : Fail)
  deriving DecidableEq, Repr

/-- The failure of a located segment of a source: of its translation, or an uncorrectable soft error (R218). -/
def State.sourceFail (s : State) (va : Word) (n : Nat) (x : Xlat) : Option Fail :=
  match x with
  | .ok pl _ =>
    if s.marks = [] then none
    else (s.firstMark pl 0 n).map fun k => ⟨0x50, 0, va + BitVec.ofNat 64 k, true, none⟩
  | x => x.failure va

/-- An engine reads through the leaves of located segments. -/
def State.touchAll (s : State) (ls : List ((Word × Nat) × Xlat)) : State :=
  ls.foldl (fun a l => match l.2 with
    | .ok _ e => a.touch e false
    | _ => a) s

/-- Reads n bytes at an address for an engine: the lowest failing address fails it (R218, R335). -/
def State.engineRead (s : State) (ag : Agent) (va : Word) (n : Nat) : Sourced :=
  let ls := (segmentsOf va (n / 4096 + 2) n).map fun g => (g, s.engineLocate ag .load g.1)
  let fails := fun (l : (Word × Nat) × Xlat) => s.sourceFail l.1.1 l.1.2 l.2
  match ls.findSome? fails with
  | some f => .fail (s.touchAll (ls.takeWhile (fun l => (fails l).isNone) ++ (ls.find? fun l => (fails l).isSome).toList)) f
  | none =>
    match ls.find? fun l => l.2 == .held with
    | some l => .held l.1.1
    | none =>
      if ls.any fun l => l.2 == .away then .away
      else
        ls.foldl (fun acc l =>
          match acc, l.2 with
          | .data a bs, .ok pl e => .data ((a.touch e false).lease pl l.1.2) (bs ++ s.peekN pl l.1.2)
          | acc, _ => acc) (.data s [])

/-! ### The commands -/

/-- The operands of a copy command as its instruction gives them (R215). -/
structure CpArgs where
  op : CpOp
  a : Reg6
  b : Reg6
  c : Reg6
  ord : Bool
  bar : Bool
  hist : Bool
  ring : Bool
  hty : Ty
  dty : Ty
  sty : Ty
  rm : Rm
  eng : BitVec 3
  deriving DecidableEq, Repr

/-- The registers that a copy command reads, in the order of R37 (R212, R216). -/
def CpArgs.reads (x : CpArgs) : List Nat :=
  [rs x.a, rs x.b, rs x.c] ++ (if x.bar then [rs (x.c + 1)] else []) ++ (if x.hist then [rs (x.c + 2)] else [])
    ++ (if x.op = .stride ∨ x.rm = .sr then [rs (x.c + 3)] else []) ++ (if x.rm = .sr then [rs (x.c + 4)] else [])

/-- The bytes of an element (R114). -/
def tyBytes (t : Ty) : Nat := tyBits t / 8

/-- The command that an instruction issues: operands captured (R212, R216, R217). -/
def CpArgs.command (x : CpArgs) (t : Thread) (m : Rm) (id : Nat) (tag : ITag) (ctx : Ctx) : Copy :=
  let n := t.sreg x.c
  let pitch := t.sreg (x.c + 3)
  let h := t.sreg (x.c + 2)
  { id := id, tag := tag, ctx := ctx, engine := clusterOf (coreOf ctx.gtid) * 8 + x.eng.toNat, op := x.op,
    ord := x.ord, bar := x.bar, hist := x.hist, ring := none, q := bits (t.sreg x.a) 63 32, dst := t.sreg x.a,
    src := t.sreg x.b,
    rowBytes := match x.op with
      | .stride => bits n 31 0
      | .cvt => n.toNat * tyBytes x.dty
      | _ => n.toNat
    rows := if x.op = .stride then bits n 63 32 else 1
    dpitch := if x.op = .stride then bits pitch 63 32 else 0
    spitch := if x.op = .stride then signed 32 (bits pitch 31 0) else 0
    phaser := t.sreg (x.c + 1), barAt := none, haddr := BitVec.ofNat 64 (bits h 51 0), hbase := signed 12 (bits h 63 52),
    hty := if x.op = .cvt then x.sty else x.hty
    dty := x.dty, sty := x.sty, rm := m, key := pitch, ctr := t.sreg (x.c + 4), stage := .order, refused := false, done := 0,
    err := none, fenced := false, flags := 0, bins := List.replicate 64 0, reserved := 0, hold := none, stale := false }

/-- The agent of a command's accesses: its engine's stream TLB serves it (R329, R337). -/
def Copy.agent (c : Copy) : Agent := { c.ctx.agent with tlb := .copy c.engine }

/-- Destination bytes of a command. -/
def Copy.total (c : Copy) : Nat := c.rowBytes * c.rows

/-- Whether a number is a multiple of an element size. -/
def mult (n k : Nat) : Bool := n % k == 0

/-- The lengths and alignments that R219 refuses. -/
def Copy.badShape (c : Copy) (ring : Bool) : Bool :=
  let d := tyBytes (if c.op = .cvt then c.dty else c.hty)
  let e := tyBytes c.hty
  decide (2 ^ 36 < c.total) || (c.op == .stride && decide (c.dpitch < c.rowBytes) && decide (1 < c.rows))
    || ((c.op == .cvt || c.hist) && ((!ring && !mult c.dst.toNat d) || !mult c.src.toNat e || !mult c.rowBytes d))
    || (c.op == .stride && c.hist && (!mult c.dpitch e || c.spitch % e != 0))

/-- A valid phaser address (R219). -/
def State.goodPhaser (s : State) (c : Copy) : Bool := bits c.phaser 4 0 == 0 && s.liesSc c.ctx.agent c.phaser

/-- The ring of a command with RING, refused where R226 or R227 refuses it. -/
def State.goodRing (s : State) (c : Copy) : Option Nat :=
  (s.ringOf c.ctx c.dst false).filter fun key =>
    let r := s.ring key
    decide (c.total ≤ r.eb) && modGe (BitVec.ofNat 32 c.q) r.free

/-- Whether the engine lies in the region's copy-engine share (R23, R212). -/
def State.engineShare (s : State) (c : Copy) : Bool :=
  (s.regionOf c.ctx.pack).any fun r => r.cemask.testBit (c.engine % 8)

/-- Whether a command is refused before any access (R219). -/
def State.copyRefused (s : State) (c : Copy) (ring : Bool) : Bool :=
  !s.engineShare c || c.badShape ring || (c.bar && !s.goodPhaser c)
    || (c.hist && (c.haddr.toNat % 256 != 0 || !s.liesSc c.ctx.agent c.haddr)) || (ring && (s.goodRing c).isNone)

/-- The number of 256-byte-aligned blocks that n bytes at an address touch. -/
def blocksAt (va n : Nat) : Nat := if n = 0 then 0 else (va % 256 + n - 1) / 256 + 1

/-- The blocks that all rows touch: rows whose starts agree modulo 256 touch the same number. -/
def Copy.blocks (c : Copy) : Nat :=
  if c.rows ≤ 1 then c.rows * blocksAt c.dst.toNat c.rowBytes
  else ((List.range 256).map fun k =>
    (c.rows + 255 - k) / 256 * blocksAt (c.dst.toNat + k * c.dpitch) c.rowBytes).foldl (· + ·) 0

/-- Replaces a copy command, by its number. -/
def State.setCopy (s : State) (c : Copy) : State :=
  { s with copies := s.copies.map fun x => if x.id = c.id then c else x }

/-- A range of n bytes over rows at a pitch, as the lowest address and length that cover it (R378). -/
def rowsRange (va : Word) (rowBytes rows : Nat) (pitch : Int) : List (Nat × Nat) :=
  if rowBytes = 0 ∨ rows = 0 then []
  else
    let span := (rows - 1 : Nat) * pitch
    let lo := if span < 0 then va.toNat + span else va.toNat
    [(lo.toNat, span.natAbs + rowBytes)]

/-- What the pages of a range are for the trail: whether one lies in the SC domain outside STG, and whether one lies outside the
SC domain. A range of more than 2^20 pages counts as both. -/
def State.destKinds (s : State) (ag : Agent) (lo len : Nat) : Bool × Bool :=
  let first := lo / 65536
  let n := (lo + len - 1) / 65536 - first + 1
  if 2 ^ 20 < n then (true, true)
  else
    (List.range n).foldl (fun (a : Bool × Bool) k =>
      let va : Word := BitVec.ofNat 64 (max lo ((first + k) * 65536))
      match (s.beyondHold ag va .store).getD (s.engineLocate ag .store va) with
      | .ok p _ => if !p.sc then (a.1, true) else (a.1 || !s.staged p, a.2)
      | .dead _ | .away => (a.1, true)
      | .refused sub => if sub = 0 then a else (a.1, true)
      | _ => (true, a.2)) (false, false)

/-- Bytes of trail that a command reserves (R214, R224): 288 for every 256-byte block of an image that has bytes in the SC domain
outside STG, and 64 for the fence entry of one that has bytes outside the domain. -/
def State.copyRoom (s : State) (c : Copy) (refused : Bool) : Nat :=
  let bar := if c.bar ∧ s.goodPhaser c = true then 288 else 0
  if refused then bar
  else
    let body :=
      match rowsRange c.dst c.rowBytes c.rows c.dpitch with
      | r :: _ =>
        let k := s.destKinds c.agent r.1 r.2
        (if k.1 then 288 * c.blocks else 0) + if k.2 then 64 else 0
      | [] => 0
    body + (if c.hist then 288 else 0) + bar

/-- The watchpoint that a command meets: its whole source and destination ranges (R378). -/
def State.copyWatched (s : State) (c : Copy) (ring : Bool) : Option Nat :=
  let srcBytes := if c.op = .cvt then c.rowBytes / tyBytes c.dty * tyBytes c.sty else c.rowBytes
  match s.watched true false (if c.op = .fill then [] else rowsRange c.src srcBytes c.rows c.spitch) with
  | some a => some a
  | none => s.watched false true (if ring then [] else rowsRange c.dst c.rowBytes c.rows c.dpitch)

/-- A CP.* instruction (R212-R222). -/
def copyForm (g : Guard) (d : Reg6) (x : CpArgs) (s : State) : Out :=
  control g 8 x.reads [rs d] (fun s =>
    s.rounding x.rm fun m s =>
      let t := s.thr
      let plan := x.command t m s.nextTicket ⟨0, 0, 0, 0⟩ s.ctx
      let key := if x.ring then s.goodRing plan else none
      let refused := s.copyRefused plan x.ring
      let placed := match key with
        | some k => { plan with dst := (s.ring k).entry plan.q }
        | none => plan
      let room := if (s.trailOf t.pack).isSome then s.copyRoom placed refused else 0
      s.admitted room (s.copyWatched plan x.ring) fun s =>
        s.produce (rs d) Cls.copy allBytes 8 fun tag ctx s =>
          let c := { plan with tag := tag, ctx := ctx, reserved := room, refused := refused
                               bar := plan.bar && (!refused || s.goodPhaser plan)
                               barAt := s.poolOwner ctx plan.phaser }
          if refused && !c.bar && !c.ord then s.fly tag ctx (poisonOf Poison.refused)
          else { s with nextTicket := s.nextTicket + 1
                        copies := s.copies ++ [{ c with ring := if refused then none else key }] }) s

/-- CP.COPY (R217). -/
def execCpCopy (g : Guard) (d a b c : Reg6) (ord bar hist ring : Bool) (hty : Ty) (eng : BitVec 3) (s : State) : Out :=
  copyForm g d ⟨.copy, a, b, c, ord, bar, hist, ring, hty, .f32, .f32, .rne, eng⟩ s

/-- CP.FILL (R217). -/
def execCpFill (g : Guard) (d a b c : Reg6) (ord bar ring : Bool) (eng : BitVec 3) (s : State) : Out :=
  copyForm g d ⟨.fill, a, b, c, ord, bar, false, ring, .f32, .f32, .f32, .rne, eng⟩ s

/-- CP.CVT (R217). -/
def execCpCvt (g : Guard) (d a b c : Reg6) (ord bar hist ring : Bool) (dty sty : Ty) (rm : Rm) (eng : BitVec 3)
    (s : State) : Out :=
  copyForm g d ⟨.cvt, a, b, c, ord, bar, hist, ring, .f32, dty, sty, rm, eng⟩ s

/-- CP.STRIDE (R217). -/
def execCpStride (g : Guard) (d a b c : Reg6) (ord bar hist : Bool) (hty : Ty) (eng : BitVec 3) (s : State) : Out :=
  copyForm g d ⟨.stride, a, b, c, ord, bar, hist, false, hty, .f32, .f32, .rne, eng⟩ s

/-! ### Chunks -/

/-- Two ORD commands of one thread to one engine of its cluster, which complete in issue order; a thread stays the same, and an
engine keeps its number, when its pack comes back on other cores (R220). -/
def Copy.ordered (c x : Copy) : Bool :=
  c.ord && x.ord && x.engine % 8 == c.engine % 8 && x.ctx.pack == c.ctx.pack && x.ctx.rank == c.ctx.rank

/-- Whether an earlier ORD command of the same thread to the same engine is still in the engine (R220). -/
def State.orderedBehind (s : State) (c : Copy) : Bool := (s.copies.takeWhile fun x => x.id != c.id).any c.ordered

/-- The n bytes of a fill pattern from image byte j on (R217). -/
def fillBytes (pat : Word) (j n : Nat) : List Byte := tabulate n fun i => BitVec.ofNat 8 (pat.toNat / 2 ^ (8 * ((j + i) % 8)))

/-- The elements of size e bytes that bytes hold. -/
def elemsOf (e : Nat) (bs : List Byte) : List Nat := tabulate (bs.length / e) fun i => fieldAt bs (e * i) e

/-- The converted elements of a CP.CVT chunk that starts at element e0, with their flags (R172, R217). -/
def Copy.converted (c : Copy) (e0 : Nat) (bs : List Byte) : List (Nat × Nat) :=
  (elemsOf (tyBytes c.sty) bs).zipIdx.map fun x => convert c.sty c.dty c.rm (rbits c.key c.ctr (e0 + x.2)) x.1

/-- The address and length of the source bytes that the chunk of n destination bytes at image byte `done` needs. -/
def Copy.sourceOf (c : Copy) (n : Nat) : Word × Nat :=
  match c.op with
  | .fill => (c.src, 0)
  | .cvt => (c.src + BitVec.ofNat 64 (c.done / tyBytes c.dty * tyBytes c.sty), n / tyBytes c.dty * tyBytes c.sty)
  | _ => (c.src + BitVec.ofInt 64 ((c.done / c.rowBytes : Nat) * c.spitch + (c.done % c.rowBytes : Nat)), n)

/-- Writes destination bytes in 256-byte-aligned blocks, each logged as an entry of a kind before it is written (R224, R369,
R371). -/
def State.putBlocks (s : State) (tr : Option Region) (kind gtid : Nat) (va : Word) (p : Place) (bs : List Byte) : Nat → State
  | 0 => s
  | fuel + 1 =>
    if bs = [] then s
    else
      let k := min bs.length (256 - va.toNat % 256)
      (s.putLogged tr kind va p (bs.take k) gtid).putBlocks tr kind gtid (va + BitVec.ofNat 64 k) (p.add k) (bs.drop k) fuel

/-- The counts of the bins with those of values added (R222). -/
def addBins (bins : List Nat) (base : Int) (vals : List Val) : List Nat :=
  vals.foldl (fun b v => b.set (hbin v base) (b.getD (hbin v base) 0 + 1)) bins

/-- The command fails: its fault record is written first (R218, R307). -/
def State.copyFail (s : State) (c : Copy) (f : Fail) : State :=
  let (s1, pv) := (s.stick f.hole).poisonRecord c.ctx Cls.copy f.code f.addr (BitVec.ofNat 64 c.done) f.reason
  s1.setCopy { c with err := some pv, hold := none, stage := .bins }

/-- The command waits on a held page, or fails with HELD (R335). -/
def State.copyHold (s : State) (c : Copy) (va : Word) : State :=
  match s.keepHold c.agent c.hold va with
  | none => s.copyFail c (heldFail va)
  | some h => s.setCopy { c with hold := some h }

/-- Writes the bytes of a chunk at its destination and takes the command past it (R218, R224). -/
def State.copyWrite (s : State) (c : Copy) (dva : Word) (p : Place) (e : Option TlbEntry) (src : List Byte) (n : Nat) :
    State :=
  let conv := if c.op = .cvt then c.converted (c.done / tyBytes c.dty) src else []
  let out := match c.op with
    | .fill => fillBytes c.src c.done n
    | .cvt => conv.flatMap fun x => natLe (tyBytes c.dty) x.1
    | _ => src
  let vals := if c.hist then
      (elemsOf (tyBytes c.hty) (if c.op = .cvt then src else out)).map (tyVal c.hty) else []
  let tr := s.trailOf c.ctx.pack
  let s1 := s.touch e true
  let logged := p.sc && !s.staged p
  let s2 := if p.sc then s1.putBlocks (if logged then tr else none) Kind.copy c.ctx.gtid dva p out (n / 256 + 2)
    else
      (match tr with
        | some r => if c.fenced then s1 else s1.logFence r 8 dva c.ctx.gtid
        | none => s1).put p out
  let used := if logged then 288 * blocksAt dva.toNat n else if p.sc ∨ c.fenced then 0 else 64
  s2.setCopy { c with
    done := c.done + n, hold := none, fenced := c.fenced || !p.sc, bins := addBins c.bins c.hbase vals
    flags := c.flags ||| BitVec.ofNat 5 (orFlags conv), reserved := c.reserved - used }

/-- The engine walks the page after the one that it works on, where its command still needs it (R337): the next page of the row,
or the page where its next row starts. -/
def State.fetchAhead (s : State) (ag : Agent) (va : Word) (left : Nat) (row : Option Word) (need : Need) : State :=
  let next := (va.toNat / 65536 + 1) * 65536
  if next < va.toNat + left then s.prefetch ag (BitVec.ofNat 64 next) need
  else
    match row with
    | some r => if r.toNat / 65536 = va.toNat / 65536 then s else s.prefetch ag r need
    | none => s

/-- The destination and the source of the row after the one that the next byte lies in, where there is one. -/
def Copy.nextRow (c : Copy) : Option (Word × Word) :=
  let r := c.done / c.rowBytes + 1
  if r < c.rows then some (c.dst + BitVec.ofNat 64 (r * c.dpitch), c.src + BitVec.ofInt 64 (r * c.spitch)) else none

/-- One chunk of a copy (R218); none while a link waits for a beacon. -/
def State.copyChunk (s : State) (c : Copy) : Option State :=
  let ag := c.agent
  let off := c.done % c.rowBytes
  let dva := c.dst + BitVec.ofNat 64 (c.done / c.rowBytes * c.dpitch + off)
  let n := min (c.rowBytes - off) (4096 - dva.toNat % 4096)
  let x := s.engineLocate ag .store dva
  match x.failure dva with
  | some f => some (s.copyFail c f)
  | none =>
    if x = .away then none
    else
      let (sva, sn) := c.sourceOf n
      match s.engineRead ag sva sn with
      | .fail s1 f => some (s1.copyFail c f)
      | .held va => some (if x = .held then s.copyHold c dva else s.copyHold c va)
      | .away => none
      | .data s1 src =>
        match x with
        | .ok p e =>
          let s2 := s1.copyWrite c dva p e src n
          let s3 := s2.fetchAhead ag dva (c.rowBytes - off) (c.nextRow.map (·.1)) .store
          some (if c.op = .fill then s3
            else s3.fetchAhead ag sva (if sn = 0 then 0 else (c.rowBytes - off) / n * sn) (c.nextRow.map (·.2)) .load)
        | _ => some (s.copyHold c dva)

/-- The histogram's bins with counts added, saturating, as bytes (R222). -/
def binBytes (old : List Byte) (bins : List Nat) : List Byte :=
  bins.zipIdx.flatMap fun b => natLe 4 (min 0xFFFFFFFF (fieldAt old (4 * b.2) 4 + b.1))

/-- A later failure of a command: the record and the poison value are those of its first one (R222, R307). -/
def State.copyLate (s : State) (c : Copy) (f : Fail) : State :=
  match c.err with
  | some _ => s.setCopy { c with hold := none, stage := .bar }
  | none =>
    let (s1, pv) := s.poisonRecord c.ctx Cls.copy f.code f.addr (BitVec.ofNat 64 c.done) f.reason
    s1.setCopy { c with err := some pv, hold := none, stage := .bar }

/-- The histogram update of a command (R222, R224): all bins at once, at one time (DESIGN CHOICE, notes/assumptions/49.md: R222
does not say whether other accesses may fall between two of them). -/
def State.copyBins (s : State) (c : Copy) : State :=
  let next := { c with hold := none, stage := CpStage.bar, reserved := c.reserved - 288 }
  if !c.hist ∨ c.done = 0 then s.setCopy { c with stage := .bar }
  else
    let x := s.engineLocate c.agent .rmw c.haddr
    match x with
    | .ok p e =>
      let bad := if s.marks = [] then none else findFrom (fun i => (s.firstMark (p.add (4 * i)) 0 4).isSome) 0 64
      let n := 4 * bad.getD 64
      let s0 := s.touch e (n != 0)
      let s1 := if n = 0 then s0
        else
          (match s0.trailOf c.ctx.pack with
            | some r => if s0.staged p then s0 else s0.logWrite r Kind.copy c.haddr p 256 c.ctx.gtid
            | none => s0).putT p ((binBytes (s0.peekN p 256) c.bins).take n) (s0.writeTime p 256)
      match bad with
      | none => s1.setCopy next
      | some i => s1.copyLate next ⟨0x50, 0, c.haddr + BitVec.ofNat 64 (4 * i), true, none⟩
    | .held =>
      match s.keepHold c.agent c.hold c.haddr with
      | none => s.copyLate next (heldFail c.haddr)
      | some h => s.setCopy { c with hold := some h }
    | x =>
      match x.failure c.haddr with
      | some f => (s.stick f.hole).copyLate next f
      | none => s

/-- The command completes: its future, then the mark of its ring entry (R223, R227, R307). -/
def State.copyEnd (s : State) (c : Copy) : State :=
  let r := match c.err with
    | some pv => Result.recorded pv
    | none => .full (BitVec.ofNat 2048 (c.flags.toNat * 2 ^ 56 + c.done))
  let s1 := { s with copies := s.copies.filter fun x => x.id != c.id }.complete { tag := c.tag, ctx := c.ctx, res := r }
  match c.ring with
  | none => s1
  | some key => if c.stale then s1 else s1.ringMark key c.q (if c.err.isSome then 2 else 1)

/-- The BAR action of a command is over: it completes, but for one whose ring is in a kennel, which marks its entry when the
ring is back (R363). -/
def State.copyOver (s : State) (c : Copy) : State :=
  if c.ring.any s.ringAway then s.setCopy { c with hold := none, stage := .flip } else s.copyEnd c

/-- The BAR action cannot be made: the addition, or the setting of a command that has failed already (R283). -/
def State.barFails (s : State) (c : Copy) (code reason : Nat) : State :=
  let (s1, pv) := s.poisonRecord c.ctx Cls.copy code c.phaser (BitVec.ofNat 64 c.done) reason
  s1.copyOver { c with err := some pv }

/-- Whether a phaser lies in the SPM or STG of a pack that is out: byte additions and FAULT settings aimed at it are held
(R364). -/
def State.awayPhaser (s : State) (own : Option (Nat × Nat)) : Bool := own.any fun x => s.packOut x.1

/-- Where the phaser of an engine's command lies: one in the pool of a pack lies on the core that the pack has now, or under the
name that the core has while the pack is out (R364); any other where its address leads. -/
def State.phaserPlace (s : State) (ag : Agent) (own : Option (Nat × Nat)) (va : Word) : Xlat :=
  match own.bind fun x => (s.pack? x.1).map fun p => (p, x.2) with
  | some (p, i) =>
    let core := p.cores.getD i 0
    .ok (.pool (if p.out.isSome then p.away core else core) (bits va 34 32) (bits va 20 0)) none
  | none => s.engineLocate ag .rmw va

/-- A command whose BAR action has caused a flip that waits for room in a trail completes after the flip (R307, R375). -/
def State.copyFlip (s : State) (c : Copy) : Option State :=
  match s.phaserPlace c.agent c.barAt c.phaser with
  | .ok p _ => if s.flipWaits p then none else some (s.copyEnd c)
  | _ => some (s.copyEnd c)

/-- The BAR action of a command, and its end (R221, R283). -/
def State.copyBar (s : State) (c : Copy) : State :=
  if !c.bar then s.copyEnd c
  else
    match s.phaserPlace c.agent c.barAt c.phaser with
    | .ok p e =>
      if !p.sc then s.barFails c Poison.fault 0
      else if (s.firstMark p 0 32).isSome then s.barFails c Poison.soft 0
      else
        let s0 := s.touch e (!(s.ph p).broken)
        let tr := s0.trailOf c.ctx.pack
        let s1 := if c.err.isSome then s0.phFault tr c.ctx.asid c.phaser p else s0.phAdd tr c.ctx.asid c.phaser p c.done
        if s1.flipWaits p then s1.setCopy { c with hold := none, stage := .flip } else (s1.writeRecords.landWaits).copyOver c
    | .held =>
      match s.keepHold c.agent c.hold c.phaser with
      | none => s.barFails c Poison.fault Reason.held
      | some h => s.setCopy { c with hold := some h }
    | .fail _ reason => s.barFails c Poison.fault reason
    | _ => s.barFails c Poison.fault 0

/-- The next step of a command; none while it must wait. -/
def State.copyStep (s : State) (c : Copy) : Option State :=
  if !s.retries c.hold || (c.stage != .bar && c.ring.any s.ringAway) then none
  else
    match c.stage with
    | .order =>
      if s.orderedBehind c then none
      else if c.refused then
        let (s1, pv) := s.poisonRecord c.ctx Cls.copy Poison.refused 0 0 Reason.refused
        some (s1.setCopy { c with err := some pv, stage := .bar })
      else some (s.setCopy { c with stage := if c.ring.isSome then .entry else .chunks })
    | .entry =>
      match c.ring with
      | none => some (s.setCopy { c with stage := .chunks })
      | some key =>
        let r := s.ring key
        if c.stale then
          let (s1, pv) := s.poisonRecord c.ctx Cls.copy Poison.refused 0 0 Reason.refused
          some (s1.setCopy { c with err := some pv, stage := .bar })
        else if s.ringBad key then
          let (s1, pv) := s.poisonRecord c.ctx Cls.copy Poison.soft 0 0 0
          some (s1.setCopy { c with err := some pv, stage := .bar })
        else if s.entryFree c then some (s.setCopy { c with stage := .chunks, dst := r.entry c.q })
        else none
    | .chunks => if c.total ≤ c.done then some (s.setCopy { c with stage := .bins }) else s.copyChunk c
    | .bins => some (s.copyBins c)
    | .bar => if (c.bar && s.awayPhaser c.barAt) || (!c.bar && c.ring.any s.ringAway) then none else some (s.copyBar c)
    | .flip => s.copyFlip c

/-- Whether what is left of a command needs its pack's rings, SPM or STG (R363). -/
def Copy.needsPack (c : Copy) : Bool :=
  let done := c.stage == .bar || c.stage == .flip
  c.ring.isSome || (!done && c.stage != .bins && (isLocal c.dst || (c.op != .fill && isLocal c.src)))
    || (c.bar && c.barAt.any fun x => x.1 == c.ctx.pack) || (!done && c.hist && isLocal c.haddr)

/-- The commands that stay queued at their engines: RING copies that wait for their entry, and what stands behind one of those in
order (R227, R363). -/
def State.queuedCopies (s : State) : List Copy :=
  s.copies.foldl (fun qs c =>
    if (c.stage == .entry && !c.stale && !s.entryFree c) || (c.stage == .order && qs.any c.ordered) then qs ++ [c] else qs) []

/-- CHUNK: copy command j makes its next access (R218). -/
def execChunk (s : State) : Out :=
  match s.ev with
  | some (.chunk j) =>
    match s.copies[j]? with
    | none => notNow "CHUNK"
    | some c =>
      if c.needsPack && s.packOut c.ctx.pack then notNow "CHUNK"
      else
        match s.copyStep c with
        | some s1 => .next s1
        | none => notNow "CHUNK"
  | _ => notNow "CHUNK"

end Sys2Proof.Machine
end

