-- ==== Sys2Proof/Machine/Coll.lean ====
section
/-! DEFINITION. Collective walkers and the receiving stack logic (spec/09 R234-R237, spec/13 R291-R296, spec/23 R395,
R400). -/

namespace Sys2Proof.Machine

/-! ### Records and loop nests (R234, R235) -/

/-- The level at an offset of a record. -/
def levelAt (bs : List Byte) (l : Nat) : CollLevel :=
  let f := fun k n => fieldAt bs (0x40 + 16 * l + k) n
  { bound := f 0 4, pa := f 4 2, pb := f 6 2, sstride := signed 32 (f 8 4), dstride := signed 32 (f 12 4) }

/-- Whether bytes [lo, hi) are zero. -/
def zeroBytes (bs : List Byte) (lo hi : Nat) : Bool := (slice bs lo (hi - lo)).all (· == 0)

/-- The record that 256 bytes hold; none where they break R234. -/
def collRec (bs : List Byte) : Option CollRec :=
  let f := fieldAt bs
  let n := f 3 1
  let op := f 4 1
  let ty := f 5 1
  let w := fun off => (BitVec.ofNat 64 (f off 8) : Word)
  if 1 ≤ n ∧ n ≤ 4 ∧ op ≤ 3 ∧ (ty = 0 ∨ ty = 1 ∨ ty = 5) ∧ (op ≠ 0 ∨ ty = 0) ∧ 1 ≤ f 6 2 ∧ f 6 2 ≤ 4096
      ∧ f 8 4 % 256 = 0 ∧ 256 ≤ f 8 4 ∧ f 8 4 ≤ 2 ^ 24 ∧ f 12 4 < 4 ∧ zeroBytes bs 0x38 0x40 = true
      ∧ zeroBytes bs 0x98 0x100 = true ∧ zeroBytes bs (0x40 + 16 * n) 0x80 = true
      ∧ ((List.range n).all fun l => decide (1 ≤ (levelAt bs l).bound)) = true then
    some { group := f 0 2, gen := f 2 1, op := op, ty := ty, p := f 6 2, xfer := f 8 4, rearm := f 12 4 % 2 == 1,
           bar := f 12 4 / 2 == 1, sbase := w 0x10, peertab := w 0x18, phaser := w 0x20, restride := w 0x28,
           doff := w 0x30, levels := tabulate n (levelAt bs), runs := w 0x90 }
  else none

/-- The indices after these in loop-nest order, the last one innermost (R235). -/
def nextIdx : List Nat → List Nat → Option (List Nat)
  | b :: bs, i :: is =>
    match nextIdx bs is with
    | some r => some (i :: r)
    | none => if i + 1 < b then some ((i + 1) :: is.map fun _ => 0) else none
  | _, _ => none

/-- Whether indices lie after others in loop-nest order. -/
def idxAfter : List Nat → List Nat → Bool
  | a :: as, b :: bs => decide (b < a) || (a == b && idxAfter as bs)
  | _, _ => false

/-- Four loop indices of a record: levels at or above LEVELS take bound 1 and index 0 (R235). -/
def CollRec.bounds (r : CollRec) : List Nat := tabulate 4 fun l => (r.levels[l]?.map (·.bound)).getD 1

/-- A sum over the levels. -/
def CollRec.sum (r : CollRec) (idx : List Nat) (f : CollLevel → Nat → Int) : Int :=
  (r.levels.zip idx).foldl (fun a x => a + f x.1 x.2) 0

/-- The peer of a transfer (R235). -/
def CollRec.peer (r : CollRec) (idx : List Nat) : Nat :=
  ((r.sum idx fun l i => ((l.pa * i + l.pb : Nat) : Int)) % r.p).toNat

/-- The source address of a transfer (R235). -/
def CollRec.source (r : CollRec) (idx : List Nat) : Word := r.sbase + BitVec.ofInt 64 (r.sum idx fun l i => i * l.sstride)

/-- The destination address of a transfer, from its peer's base (R235). -/
def CollRec.dest (r : CollRec) (idx : List Nat) (base : Word) : Word :=
  base + r.doff + BitVec.ofInt 64 (r.sum idx fun l i => i * l.dstride)

/-! ### Handles -/

/-- This package's module id. -/
def State.module (s : State) : Nat := s.config.moduleId.toNat

/-- The armed handle with a key. -/
def State.coll? (s : State) (key : Nat) : Option Armed := (s.colls.find? fun x => x.1 == key).map (·.2)

/-- Arms or replaces a handle. -/
def State.setColl (s : State) (key : Nat) (a : Armed) : State := { s with colls := tset s.colls key a }

/-- The handle of a GROUP on a die, with its key. -/
def State.groupOn (s : State) (die group : Nat) : Option (Nat × Armed) :=
  s.colls.find? fun x => x.1 / 16 == die && x.2.cr.group == group

/-- Whether a GROUP is armed with a GEN on this package. -/
def State.armedGen (s : State) (group gen : Nat) : Bool := s.colls.any fun x => x.2.cr.group == group && x.2.cr.gen == gen

/-- The die of the thread that issued a command. -/
def Ctx.die (c : Ctx) : Nat := dieOf (coreOf c.gtid)

/-- The agent of a walker's accesses: the stream TLB of its die's walker serves it (R329, R337). -/
def Ctx.walker (c : Ctx) : Agent := { c.agent with tlb := .walker c.die }

/-- Whether a packet of a module is delivered: one of another module arrives at a port whose slot is checked and not in
quarantine (R394). -/
def State.arrives (s : State) (module : Nat) (via : Option Nat) : Bool :=
  module == s.module || via.any fun q => s.checkedIn s.slotNow q

/-- Whether a packet is older than 40 µs (R395). -/
def State.aged (s : State) (sent : Nat) : Bool := decide (40000 * Config.ns < s.now.toNat - sent)

/-! ### Notices (R292, R296) -/

/-- Sends a notice or a request to a module: to this package itself it travels inside the state, and one whose only paths wait for
the beacon of a slot waits for it (R393, R394). -/
def State.post? (s : State) (m : Nat) (request : Bool) (n : NoticePkt) : State :=
  if m = s.module then
    if request then { s with ownRequests := s.ownRequests ++ [n] } else { s with ownNotices := s.ownNotices ++ [n] }
  else if s.reaches m then s.travel m
  else if s.hopes m then { s with outNotices := s.outNotices ++ [(m, request, n)] }
  else s

/-- The notices that waited for the beacon of a slot leave where they can. -/
def State.postOut (s : State) : State :=
  s.outNotices.foldl (fun a x => a.post? x.1 x.2.1 x.2.2) { s with outNotices := [] }

/-- A notice arrives: the transfers that waited for it wait no longer (R292, R295, R296). -/
def State.takeNotice (s : State) (n : NoticePkt) : State :=
  if s.aged n.sent then s.count 2
  else if !s.armedGen n.group n.gen then s.count 1
  else
    let same := fun (x : NoticePkt) => x.group == n.group && x.gen == n.gen && x.module == n.module && x.die == n.die
    let s1 := if s.notices.any fun x => same x && decide (n.run ≤ x.run) then s
      else { s with notices := n :: s.notices.filter fun x => !same x }
    { s1 with colls := s1.colls.map fun x =>
        (x.1, { x.2 with run := x.2.run.map fun r =>
          if x.2.cr.group = n.group ∧ x.2.cr.gen = n.gen ∧ r.number ≤ n.run
              ∧ (r.waiting.any fun w => w.module == n.module && w.die == n.die) = true
          then { r with waiting := none } else r }) }

/-- Whether the notice that a transfer needs has arrived (R292). -/
def State.noticed (s : State) (r : CollRec) (run module die : Nat) : Bool :=
  s.notices.any fun x =>
    x.group == r.group && x.gen == r.gen && x.module == module && x.die == die && decide (run ≤ x.run)

/-- A die's walker answers a request with the latest run that it has started (R292). -/
def State.answerRequest (s : State) (n : NoticePkt) : State :=
  if s.aged n.sent then s.count 2
  else
    match s.groupOn n.asked n.group with
    | some (_, a) =>
      match a.latest with
      | some m =>
        if a.cr.gen = n.gen then
          s.post? n.module false { group := n.group, gen := n.gen, run := m, module := s.module, die := n.asked,
                                   asked := 0, sent := s.now.toNat, via := none }
        else s
      | none => s
    | none => s

/-! ### The end of a run (R237) -/

/-- The die whose stacks hold a transfer's destination. -/
def stackOf (p : XferPkt) : Nat := (p.dst.head?.map (·.1)).getD 0 / Config.dieBytes

/-- Frees a handle and starts its GROUP's quarantine (R236). -/
def State.freeHandle (s : State) (key : Nat) : State :=
  match s.coll? key with
  | none => s
  | some a =>
    let s1 := { s with
      colls := s.colls.filter fun x => x.1 != key
      quarantine := (a.cr.group, s.now.toNat + 50000 * Config.ns) :: s.quarantine.filter fun q => q.1 != a.cr.group
      early := s.early.filter fun p => !(stackOf p == key / 16 && p.group == a.cr.group) }
    if s1.armedGen a.cr.group a.cr.gen then s1
    else { s1 with notices := s1.notices.filter fun n => !(n.group == a.cr.group && n.gen == a.cr.gen) }

/-- The disarms that waited for a run on a handle (R236). -/
def State.doDisarms (s : State) (key : Nat) : State :=
  let mine := s.disarming.filter fun d => d.key == key
  mine.foldl (fun a d =>
    if (a.coll? key).isSome then (a.freeHandle key).fly d.tag d.ctx (fullS 0)
    else a.fly d.tag d.ctx (poisonOf Poison.refused))
    { s with disarming := s.disarming.filter fun d => d.key != key }

/-- Makes the write-backs of a run in order; a write-back that fails is skipped, and a held page delays it (R237). -/
def State.reports (s : State) (ag : Agent) (addr : Word) (h : Option Hold) :
    List (Nat × List Byte) → State × List (Nat × List Byte) × Option Hold
  | [] => (s, [], none)
  | (off, bs) :: rest =>
    let va := addr + BitVec.ofNat 64 off
    match s.engineWrite ag va bs with
    | .done s1 => s1.reports ag addr h rest
    | .fail f => (s.stick f.hole).reports ag addr h rest
    | .away => (s, (off, bs) :: rest, some (s.awayHold ag va))
    | .held =>
      match s.keepHold ag h va with
      | none => s.reports ag addr h rest
      | some x => (s, (off, bs) :: rest, some x)

/-- Makes the reports of a run that has ended, and completes it once they are made (R237). -/
def State.finishRun (s : State) (key : Nat) (a : Armed) (r : CollRun) : State :=
  let (s1, left, hold) := s.reports r.ctx.walker a.addr r.hold r.writes
  if left ≠ [] then s1.setColl key { a with run := some { r with writes := left, hold := hold } }
  else
    let s2 := s1.setColl key { a with run := none }
    (s2.fly r.tag r.ctx (if r.aborted then poisonOf Poison.coll
      else fullS (min 0xFFFFFFFF r.xfers * 2 ^ 32 + a.cr.runs.toNat % 2 ^ 32))).doDisarms key

/-- Whether a transfer of this package to itself belongs to what a handle has sent. -/
def State.sentBy (s : State) (key : Nat) (p : XferPkt) : Bool :=
  p.module == s.module && p.die == key / 16 && ((s.coll? key).map fun a => a.cr.group) == some p.group

/-- A run is aborted: RESUME takes the first unacknowledged indices (R237). Its transfers that wait at this package's stacks for
an earlier one are not acknowledged, and RESUME sends them again (R293). -/
def State.abortRun (s : State) (key : Nat) : State :=
  match s.coll? key with
  | none => s
  | some a =>
    match a.run with
    | none => s
    | some r =>
      if r.stage = .finish then s
      else
        let mine := s.sent.filter fun x => x.key == key
        let idx := match mine.head? with
          | some x => x.idx
          | none => r.idx.getD [0, 0, 0, 0]
        let r1 := { r with stage := .finish, aborted := true, hold := none, waiting := none,
                           writes := [(0x80, idx.flatMap fun i => natLe 4 i)] }
        let a1 := { a with resume := idx }
        { s with sent := s.sent.filter fun x => x.key != key
                 early := s.early.filter fun p => !s.sentBy key p }.finishRun key a1 r1

/-- A run is complete once every transfer is acknowledged: RUNS, RESUME, SBASE and DOFF of the armed copy advance (R237). -/
def State.tryComplete (s : State) (key : Nat) : State :=
  match s.coll? key with
  | none => s
  | some a =>
    match a.run with
    | none => s
    | some r =>
      if r.stage ≠ .sending ∨ r.idx.isSome ∨ (s.sent.any fun x => x.key == key) = true then s
      else
        let c := a.cr
        let c1 := { c with runs := c.runs + 1, sbase := if c.rearm then c.sbase + c.restride else c.sbase,
                           doff := if c.rearm then c.doff + c.restride else c.doff }
        let ws := [(0x90, natLe 8 c1.runs.toNat)]
          ++ if c.rearm then [(0x10, natLe 8 c1.sbase.toNat), (0x30, natLe 8 c1.doff.toNat)] else []
        s.finishRun key { a with cr := c1, resume := [0, 0, 0, 0] } { r with stage := .finish, writes := ws, hold := none }

/-- Runs of regions in a fault domain freeze and end aborted (R400). -/
def State.freezeRuns (s : State) (fdom : Nat) : State :=
  s.colls.foldl (fun a x =>
    match x.2.run with
    | some r => if (a.regionOf r.ctx.pack).any fun g => g.fdom == fdom then a.abortRun x.1 else a
    | none => a) s

/-! ### Sending -/

/-- The package whose memory an address names, whatever its leaf permits, whether or not it is held, and whatever the state of the
links; one that does not translate names none (R292, R331). -/
def State.packageAt (s : State) (ag : Agent) (va : Word) : Option Nat :=
  if 2 ^ 52 ≤ va.toNat ∨ isLocal va then none
  else
    let leaf := (s.tlbHit ag va.toNat .any).or (match s.walk ag.asid va.toNat .any with
      | .leaf e => some e
      | .fail _ _ => none)
    leaf.bind fun e =>
      match bits e.leaf 62 60 with
      | 0 => some s.module
      | 2 =>
        let peer := s.creg (0x9100 + 8 * bits e.leaf 55 48)
        if bits peer 63 63 = 0 then none else some (bits peer 47 32)
      | _ => none

/-- The packages that the entries of a PEERTAB name (R292). -/
def State.peerModules (s : State) (ag : Agent) (tab : List Byte) (p : Nat) : List Nat :=
  (tabulate p fun k => s.packageAt ag (BitVec.ofNat 64 (fieldAt tab (8 * k) 8))).foldl (fun acc x =>
      match x with
      | some m => if acc.contains m then acc else acc ++ [m]
      | none => acc) []

/-- Sends the release notices of a run (R292, R304). -/
def State.sendNotices (s : State) (key : Nat) (a : Armed) (r : CollRun) : State :=
  let go := fun (s : State) (tab : List Byte) (p : Nat) =>
    (s.peerModules r.ctx.walker tab p).foldl (fun acc m =>
      acc.post? m false { group := a.cr.group, gen := a.cr.gen, run := r.number, module := s.module, die := key / 16,
                          asked := 0, sent := s.now.toNat, via := none })
      (s.setColl key { a with run := some { r with stage := .sending, hold := none } })
  let await := fun h => s.setColl key { a with run := some { r with hold := some h } }
  match s.engineRead r.ctx.walker a.cr.peertab (8 * a.cr.p) with
  | .data s1 bs => go s1 bs a.cr.p
  | .fail s1 f => go (s1.stick f.hole) [] 0
  | .away => await (s.awayHold r.ctx.walker a.cr.peertab)
  | .held va =>
    match s.keepHold r.ctx.walker r.hold va with
    | none => go s [] 0
    | some h => await h

/-- The pages that a destination covers, as places with lengths; none where some page is of another kind or fails. -/
def State.destSpans (s : State) (ag : Agent) (va : Word) (n : Nat) : Option (List (Place × Option TlbEntry × Nat)) :=
  ((segmentsOf va (n / 4096 + 2) n).map fun g =>
    match s.locate ag g.1 .store with
    | .ok (.dev pa) e => some (Place.dev pa, e, g.2)
    | .ok (.remote m pa) e => some (Place.remote m pa, e, g.2)
    | _ => none).foldr (fun x acc =>
      match x, acc with
      | some y, some l => some (y :: l)
      | _, _ => none) (some [])

/-- The module and physical address of a destination. -/
def State.target (s : State) (p : Place) : Option (Nat × Nat) :=
  match p with
  | .dev pa => some (s.module, pa)
  | .remote m pa => some (m, pa)
  | _ => none

/-- The run waits on a held page, or aborts when the hold outlasts TIMEOUT (R335, R337). -/
def State.holdRun (s : State) (key : Nat) (a : Armed) (r : CollRun) (va : Word) : State :=
  match s.keepHold r.ctx.walker r.hold va with
  | none => s.abortRun key
  | some h => s.setColl key { a with run := some { r with hold := some h } }

/-- Asks the die of a module for its notice (R292). -/
def State.requestNotice (s : State) (key : Nat) (a : Armed) (m die : Nat) : State :=
  s.post? m true { group := a.cr.group, gen := a.cr.gen, run := 0, module := s.module, die := key / 16, asked := die,
                   sent := s.now.toNat, via := none }

/-- A source that lies outside the SC domain, which R234 does not allow. -/
def State.sourceOutside (s : State) (ag : Agent) (va : Word) (n : Nat) : Bool :=
  (segmentsOf va (n / 4096 + 2) n).any fun g => (s.locate ag g.1 .load).outside

/-- A transfer leaves: the leaves of its destination are used, and it takes one path to another module (R334, R393). -/
def State.dispatchTo (s : State) (m : Nat) (spans : List (Place × Option TlbEntry × Nat)) : State :=
  let s1 := spans.foldl (fun acc x => acc.useLeaf x.2.1 true) s
  if m = s.module then s1 else s1.travel m

/-- The transfer to the same stacks of this package that a handle has sent last and that is not acknowledged: the next one is
applied after it (R293). -/
def State.lastOwn (s : State) (key die : Nat) : Option (Nat × List Nat) :=
  (s.sent.filter fun x => x.key == key && x.own && x.die == die).getLast?.map fun x => (x.run, x.idx)

/-- Sends one transfer whose notice has arrived; one whose source R234 does not allow aborts the run (R234, R235, R237). -/
def State.sendTransfer (s : State) (key : Nat) (a : Armed) (r : CollRun) (idx : List Nat) (m : Nat)
    (spans : List (Place × Option TlbEntry × Nat)) : State :=
  let ag := r.ctx.walker
  if s.sourceOutside ag (a.cr.source idx) a.cr.xfer then s.abortRun key
  else
  match s.engineRead ag (a.cr.source idx) a.cr.xfer with
  | .fail s1 f => (s1.stick f.hole).abortRun key
  | .away => s
  | .held va => s.holdRun key a r va
  | .data s1 bs =>
    if m ≠ s.module ∧ !s.reaches m then s1.abortRun key
    else
      let next := nextIdx a.cr.bounds idx
      let set := s1.dispatchTo m spans
      let die := ((spans.head?.bind fun x => s.target x.1).map (·.2)).getD 0 / Config.dieBytes
      let s2 := match next with
        | some i => set.prefetch ag (a.cr.source i) .load
        | none => set
      let own := m == s.module
      let pkt : XferPkt := { group := a.cr.group, gen := a.cr.gen, module := s.module, die := key / 16,
                             run := r.number, idx := idx, op := a.cr.op, ty := a.cr.ty, data := bs, sent := s.now.toNat,
                             dst := spans.map fun x => (((s.target x.1).map (·.2)).getD 0, x.2.2)
                             via := none, after := if own then s.lastOwn key die else none }
      let s3 := s2.setColl key { a with run := some { r with
        idx := next, xfers := r.xfers + 1, waiting := none, hold := none } }
      { s3 with
        sent := s3.sent ++ [{ key := key, run := r.number, idx := idx, die := die, own := own, answer := none, since := s.now.toNat }]
        ownXfers := if own then s3.ownXfers ++ [pkt] else s3.ownXfers }

/-- The walker's next transfer of a run (R235, R292, R337); none while it waits for a notice or for the beacon of a slot. -/
def State.nextTransfer (s : State) (key : Nat) (a : Armed) (r : CollRun) (idx : List Nat) : Option State :=
  let ag := r.ctx.walker
  match s.engineRead ag (a.cr.peertab + BitVec.ofNat 64 (8 * a.cr.peer idx)) 8 with
  | .fail s1 f => some ((s1.stick f.hole).abortRun key)
  | .away => none
  | .held va => some (s.holdRun key a r va)
  | .data s1 bs =>
    let dst := a.cr.dest idx (BitVec.ofNat 64 (leNat bs))
    let segs := segmentsOf dst (a.cr.xfer / 4096 + 2) a.cr.xfer
    match segs.find? fun g => s1.locate ag g.1 .store == .held with
    | some g => some (s1.holdRun key a r g.1)
    | none =>
      if segs.any fun g => s1.locate ag g.1 .store == .away then none
      else
      match s1.destSpans ag dst a.cr.xfer with
      | none => some (s1.abortRun key)
      | some spans =>
        match (spans.head?.bind fun x => s1.target x.1) with
        | none => some (s1.abortRun key)
        | some (m, pa) =>
          let die := pa / Config.dieBytes
          if spans.any fun x => (s1.target x.1).map (·.1) != some m then some (s1.abortRun key)
          else if s1.noticed a.cr r.number m die then some (s1.sendTransfer key a r idx m spans)
          else if r.waiting.any fun w => w.module == m && w.die == die then none
          else
            let w : NoticeWait := { since := s.now.toNat, last := s.now.toNat, module := m, die := die }
            some ((s1.setColl key { a with run := some { r with waiting := some w, hold := none } }).requestNotice key a m die)

/-- Whether a record armed earlier on the same die has a run with transfers left (R23). -/
def State.runsBefore (s : State) (key : Nat) (a : Armed) : Bool :=
  s.colls.any fun x =>
    x.1 != key && x.1 / 16 == key / 16 && decide (x.2.order < a.order)
      && x.2.run.any fun r => r.stage != .finish && r.idx.isSome

/-- TRANSFER: the walker of a die sends the next transfer of the run on a handle (R235). -/
def execTransfer (s : State) : Out :=
  match s.ev with
  | some (.transfer die h) =>
    let key := 16 * die + h
    match s.coll? key with
    | some a =>
      match a.run with
      | some r =>
        if r.stage = .sending ∧ s.retries r.hold = true ∧ s.runsBefore key a = false then
          match r.idx with
          | some idx =>
            match s.nextTransfer key a r idx with
            | some s1 => .next s1
            | none => notNow "TRANSFER"
          | none => notNow "TRANSFER"
        else notNow "TRANSFER"
      | none => notNow "TRANSFER"
    | none => notNow "TRANSFER"
  | _ => notNow "TRANSFER"

/-! ### Receiving (R291, R293-R295) -/

/-- One element of a transfer combined with the old one (R291). -/
def combine (op ty old x : Nat) : Nat :=
  let f := if ty = 1 then bf16 else fp32
  if op = 0 then x
  else if ty = 5 then
    let a := signed 32 old
    let b := signed 32 x
    match op with
    | 1 => wrap 32 (a + b)
    | 2 => wrap 32 (max a b)
    | _ => wrap 32 (min a b)
  else
    match op with
    | 1 => (f.add .rne old x).1
    | 2 => (f.pick true old x).1
    | _ => (f.pick false old x).1

/-- The new bytes at a transfer's destination (R291). -/
def combineBytes (op ty : Nat) (old data : List Byte) : List Byte :=
  if op = 0 then data
  else
    let n := if ty = 1 then 2 else 4
    ((elemsOf n old).zip (elemsOf n data)).flatMap fun x => natLe n (combine op ty x.1 x.2)

/-- Writes bytes at a physical address, one access for each line in ascending order (R291). -/
def State.putLines (s : State) (pa : Nat) (bs : List Byte) : Nat → State
  | 0 => s
  | fuel + 1 =>
    if bs = [] then s
    else
      let k := min bs.length (128 - pa % 128)
      (s.put (.dev pa) (bs.take k)).putLines (pa + k) (bs.drop k) fuel

/-- The record of the last transfer applied from a sender, as the match of R294. -/
def Applied.of (x : Applied) (die : Nat) (p : XferPkt) : Bool :=
  x.die == die && x.group == p.group && x.gen == p.gen && x.module == p.module && x.sdie == p.die

/-- The answer of the stack logic to a transfer reaches the sender's walker when the sender is this package (R237). -/
def State.acknowledge (s : State) (p : XferPkt) (refused : Bool) : State :=
  if p.module = s.module then
    { s with sent := s.sent.map fun x =>
        if x.own && x.key / 16 == p.die && x.run == p.run && x.idx == p.idx && x.answer.isNone
            && ((s.coll? x.key).map fun a => a.cr.group) == some p.group then { x with answer := some refused } else x }
  else s

/-- The bytes of an applied transfer are added to the PHASER of the receiving record; a hold of its page delays the
addition and the acknowledgement, and so does a pack that is out (R283, R295, R364). -/
def State.addColl (s : State) (b : CollBar) : State :=
  if s.awayPhaser b.barAt then { s with collBars := s.collBars ++ [b] }
  else
  match s.phaserPlace b.ctx.walker b.barAt b.phaser with
  | .ok p e =>
    if !p.sc ∨ (s.firstMark p 0 32).isSome then s.acknowledge b.pkt false
    else ((s.touch e (!(s.ph p).broken)).phAdd none b.ctx.asid b.phaser p b.bytes).acknowledge b.pkt false
  | .held =>
    match s.keepHold b.ctx.walker b.hold b.phaser with
    | none => s.acknowledge b.pkt false
    | some h => { s with collBars := s.collBars ++ [{ b with hold := some h }] }
  | _ => s.acknowledge b.pkt false

/-- Whether the stack logic has applied a sender's transfer of a run with these indices, or a later one (R294). -/
def State.hasApplied (s : State) (p : XferPkt) (run : Nat) (idx : List Nat) : Bool :=
  s.applied.any fun x => x.of (stackOf p) p && (decide (run < x.run) || (run == x.run && !idxAfter idx x.idx))

/-- The receiving stack logic applies a transfer to the record armed there, or refuses it (R291, R294, R295). -/
def State.applyTransfer (s : State) (a : Armed) (p : XferPkt) : State :=
  if s.hasApplied p p.run p.idx then s.acknowledge p false
  else if p.dst.any fun d => Config.deviceBytes < d.1 + d.2 then s.acknowledge p true
  else if p.op ≠ 0 ∧ (p.dst.any fun d => (s.firstMark (.dev d.1) 0 d.2).isSome) = true then s.acknowledge p true
  else
    let old := p.dst.flatMap fun d => s.peekN (.dev d.1) d.2
    let new := combineBytes p.op p.ty old p.data
    let (s1, _) := p.dst.foldl (fun (acc : State × List Byte) d =>
      (acc.1.putLines d.1 (acc.2.take d.2) (d.2 / 128 + 2), acc.2.drop d.2)) (s, new)
    let mark : Applied := { die := stackOf p, group := p.group, gen := p.gen, module := p.module, sdie := p.die,
                            run := p.run, idx := p.idx }
    let s2 := { s1 with applied := mark :: s1.applied.filter fun x => !x.of (stackOf p) p }
    if a.cr.bar then
      s2.addColl { ctx := a.ctx, phaser := a.cr.phaser, barAt := a.barAt, bytes := p.data.length, pkt := p, hold := none }
    else s2.acknowledge p false

/-- Whether every earlier transfer of its sender to this package has been applied (R293). -/
def State.inSequence (s : State) (p : XferPkt) : Bool := p.after.all fun x => s.hasApplied p x.1 x.2

/-- The transfers that waited for an earlier one of their sender are applied, as far as they are next (R293). -/
def State.takeEarly (s : State) : Nat → State
  | 0 => s
  | fuel + 1 =>
    match s.early.find? s.inSequence with
    | none => s
    | some p =>
      let s1 := { s with early := s.early.erase p }
      (match s1.groupOn (stackOf p) p.group with
        | some (_, a) => s1.applyTransfer a p
        | none => s1).takeEarly fuel

/-- Whether a transfer may wait for an earlier one of its sender: one of this package whose run has ended aborted does not,
since no acknowledgement of it counts any more, and RESUME sends it again (R237, R293; DEDUCED, notes/assumptions/25.md). -/
def State.mayWait (s : State) (p : XferPkt) : Bool :=
  p.module != s.module || s.sent.any fun x => x.own && s.sentBy x.key p && x.run == p.run && x.idx == p.idx

/-- The receiving stack logic takes a transfer: one that has overtaken an earlier one of its sender waits for it (R291, R293,
R295, R395). -/
def State.takeTransfer (s : State) (p : XferPkt) : State :=
  if s.aged p.sent then s.count 2
  else
    match s.groupOn (stackOf p) p.group with
    | none => s.count 1
    | some (_, a) =>
      if a.cr.gen ≠ p.gen then s.count 1
      else if !s.inSequence p then (if s.mayWait p then { s with early := s.early ++ [p] } else s)
      else (s.applyTransfer a p).takeEarly s.early.length

/-- TRANSFER RECEIVE: a transfer of another module, or the oldest one of a walker of this package, arrives (R291,
R293, R394). -/
def execTransferReceive (s : State) : Out :=
  match s.ev with
  | some (.transferReceive p) =>
    if p.module = s.module then
      if (s.ownXfers.find? fun x => x.die == p.die) = some p then
        .next ({ s with ownXfers := s.ownXfers.erase p }.takeTransfer p)
      else notNow "TRANSFER RECEIVE"
    else .next (if s.arrives p.module p.via then s.takeTransfer p else s)
  | _ => notNow "TRANSFER RECEIVE"

/-- TRANSFER ACK: the receiving stack logic's answer to the i-th transfer sent arrives (R237); one of another module arrives at
a port whose slot is checked, or is not delivered (R394). -/
def execTransferAck (s : State) : Out :=
  match s.ev with
  | some (.transferAck i refused via) =>
    match s.sent[i]? with
    | some x =>
      if x.own ∧ x.answer ≠ some refused then notNow "TRANSFER ACK"
      else if x.own = false ∧ (via.any fun q => s.checkedIn s.slotNow q) = false then .next s
      else if refused then .next (s.abortRun x.key)
      else .next ({ s with sent := s.sent.eraseIdx i }.tryComplete x.key)
    | none => notNow "TRANSFER ACK"
  | _ => notNow "TRANSFER ACK"

/-- RELEASE NOTICE (R292, R296). -/
def execReleaseNotice (s : State) : Out :=
  match s.ev with
  | some (.releaseNotice n) =>
    if n.module = s.module then
      if s.ownNotices.contains n then .next ({ s with ownNotices := s.ownNotices.erase n }.takeNotice n)
      else notNow "RELEASE NOTICE"
    else .next (if s.arrives n.module n.via then s.takeNotice n else s)
  | _ => notNow "RELEASE NOTICE"

/-- NOTICE REQUEST (R292). -/
def execNoticeRequest (s : State) : Out :=
  match s.ev with
  | some (.noticeRequest n) =>
    if n.module = s.module then
      if s.ownRequests.contains n then .next ({ s with ownRequests := s.ownRequests.erase n }.answerRequest n)
      else notNow "NOTICE REQUEST"
    else .next (if s.arrives n.module n.via then s.answerRequest n else s)
  | _ => notNow "NOTICE REQUEST"

/-- The run on a handle that waits for a notice: the handle, the run, and its wait. -/
def State.waiter (s : State) (key : Nat) : Option (Armed × CollRun × NoticeWait) :=
  (s.coll? key).bind fun a => a.run.bind fun r => r.waiting.map fun w => (a, r, w)

/-- NOTICE REQUEST RETRY: a waiting transfer asks again after 1 ms (R292). -/
def execNoticeRequestRetry (s : State) : Out :=
  match s.ev with
  | some (.noticeRequestRetry die h) =>
    let key := 16 * die + h
    match s.waiter key with
    | some (a, r, w) =>
      if 1000000 * Config.ns ≤ s.now.toNat - w.last then
        .next ((s.setColl key { a with run := some { r with waiting := some { w with last := s.now.toNat } } }).requestNotice
          key a w.module w.die)
      else notNow "NOTICE REQUEST RETRY"
    | none => notNow "NOTICE REQUEST RETRY"
  | _ => notNow "NOTICE REQUEST RETRY"

/-- NOTICE WAIT TIMEOUT: a transfer that has waited 10 ms aborts its run (R292). -/
def execNoticeWaitTimeout (s : State) : Out :=
  match s.ev with
  | some (.noticeWaitTimeout die h) =>
    match s.waiter (16 * die + h) with
    | some (_, _, w) =>
      if 10000000 * Config.ns ≤ s.now.toNat - w.since then .next (s.abortRun (16 * die + h))
      else notNow "NOTICE WAIT TIMEOUT"
    | none => notNow "NOTICE WAIT TIMEOUT"
  | _ => notNow "NOTICE WAIT TIMEOUT"

/-- ACK TIMEOUT: a transfer unacknowledged for 10 ms aborts its run (R395). -/
def execAckTimeout (s : State) : Out :=
  match s.ev with
  | some (.ackTimeout die h) =>
    if s.sent.any fun x => x.key == 16 * die + h && decide (10000000 * Config.ns ≤ s.now.toNat - x.since) then
      .next (s.abortRun (16 * die + h))
    else notNow "ACK TIMEOUT"
  | _ => notNow "ACK TIMEOUT"

/-! ### Commands (R236, R237) -/

/-- Arms a record on a die, or refuses it (R236). It takes the lowest free handle, which R236 leaves open (DESIGN CHOICE,
notes/assumptions/50.md). -/
def State.armNow (s : State) (x : Arming) (r : CollRec) : State :=
  let die := x.ctx.die
  match findFrom (fun h => (s.coll? (16 * die + h)).isNone) 0 16 with
  | none => s.fly x.tag x.ctx (poisonOf Poison.refused)
  | some h =>
    if (s.groupOn die r.group).isSome then s.fly x.tag x.ctx (poisonOf Poison.refused)
    else
      let s1 := s.setColl (16 * die + h) { cr := r, addr := x.addr, ctx := x.ctx, order := s.nextOrder,
                                           resume := [0, 0, 0, 0], barAt := s.poolOwner x.ctx r.phaser, latest := none, run := none }
      { s1 with nextOrder := s1.nextOrder + 1,
                applied := s1.applied.filter fun y => !(y.die == die && y.group == r.group)
                early := s1.early.filter fun p => !(stackOf p == die && p.group == r.group) }.fly x.tag x.ctx (fullS h)

/-- Whether a GROUP's quarantine still runs (R236). -/
def State.quarantined (s : State) (group : Nat) : Bool :=
  s.quarantine.any fun q => q.1 == group && decide (s.now.toNat < q.2)

/-- A record that has been read is checked, and armed or held (R234, R236, R295). One whose SBASE does not translate is armed,
and a run reads it then; one whose PHASER does not translate is refused (DESIGN CHOICE, notes/assumptions/51.md: no rule says
which). -/
def State.armRead (s : State) (x : Arming) (bs : List Byte) : State :=
  match collRec bs with
  | none => s.fly x.tag x.ctx (poisonOf Poison.refused)
  | some r =>
    let ag := x.ctx.walker
    if (s.beyond ag r.sbase).outside ∨ (r.bar ∧ (bits r.phaser 4 0 ≠ 0 ∨ s.liesSc ag r.phaser = false)) then
      s.fly x.tag x.ctx (poisonOf Poison.refused)
    else if s.quarantined r.group then { s with arming := s.arming ++ [{ x with cr := some r, hold := none }] }
    else s.armNow x r

/-- Reads the record of a COLL.ARM (R234, R236). -/
def State.armStart (s : State) (x : Arming) : State :=
  if x.addr.toNat % 256 ≠ 0 then s.fly x.tag x.ctx (poisonOf Poison.refused)
  else
    match s.engineLocate x.ctx.walker .load x.addr with
    | .ok (.dev pa) e =>
      match s.firstMark (.dev pa) 0 256 with
      | some k => s.fly x.tag x.ctx (.poison Poison.soft (x.addr + BitVec.ofNat 64 k) 0 0)
      | none => ((s.touch e false).lease (.dev pa) 256).armRead x (s.peekN (.dev pa) 256)
    | .ok _ _ | .away => s.fly x.tag x.ctx (poisonOf Poison.refused)
    | .held =>
      match s.keepHold x.ctx.walker x.hold x.addr with
      | none => s.fly x.tag x.ctx (heldFail x.addr).result
      | some h => { s with arming := s.arming ++ [{ x with hold := some h }] }
    | y =>
      match y.failure x.addr with
      | some f => (s.stick f.hole).fly x.tag x.ctx f.result
      | none => s

/-- COLL.ARM (R236). -/
def execCollArm (g : Guard) (d a : Reg6) (s : State) : Out :=
  control g 8 [rs a] [rs d] (fun s =>
    let addr := s.thr.sreg a
    s.checked 0 true false [(addr.toNat, 256)] fun s =>
      s.produce (rs d) Cls.coll allBytes 8 fun tag ctx s =>
        s.armStart { tag := tag, ctx := ctx, addr := addr, cr := none, hold := none }) s

/-- COLL.ARM with DISARM (R236). -/
def execCollDisarm (g : Guard) (d a : Reg6) (s : State) : Out :=
  control g 8 [rs a] [rs d] (fun s =>
    let h := (s.thr.sreg a).toNat
    s.produce (rs d) Cls.coll allBytes 8 fun tag ctx s =>
      let key := 16 * ctx.die + h
      if 15 < h ∨ (s.coll? key).isNone then s.fly tag ctx (poisonOf Poison.refused)
      else
        let s1 := { s with disarming := s.disarming ++ [{ tag := tag, ctx := ctx, key := key }] }
        if ((s.coll? key).bind fun a => a.run).isSome then s1 else s1.doDisarms key) s

/-- A run starts on an armed handle (R237, R292). XFERS counts the transfers sent from here on, after a RESUME too (DESIGN CHOICE,
notes/assumptions/52.md: R237 says "in this run"). -/
def State.startRun (s : State) (tag : ITag) (ctx : Ctx) (key : Nat) (a : Armed) (resume : Bool) : State :=
  let r : CollRun := { tag := tag, ctx := ctx, stage := .notices, number := a.cr.runs.toNat,
                       idx := some (if resume then a.resume else [0, 0, 0, 0]), xfers := 0, waiting := none, writes := [],
                       aborted := false, hold := none }
  (match s.trailOf ctx.pack with
    | some t => s.logFence t 4 0 ctx.gtid
    | none => s).sendNotices key { a with latest := some r.number, run := some r } r

/-- COLL.GO and COLL.GO.RESUME (R237). -/
def collGoForm (resume : Bool) (g : Guard) (d a : Reg6) (s : State) : Out :=
  control g 8 [rs a] [rs d] (fun s =>
    let h := (s.thr.sreg a).toNat
    s.checked (if (s.trailOf s.thr.pack).isSome then 64 else 0) false false [] fun s =>
      s.produce (rs d) Cls.coll allBytes 8 fun tag ctx s =>
        let key := 16 * ctx.die + h
        match (if 15 < h then none else s.coll? key) with
        | none => s.fly tag ctx (poisonOf Poison.refused)
        | some x =>
          if x.run.isSome then s.fly tag ctx (poisonOf Poison.refused) else s.startRun tag ctx key x resume) s

/-- COLL.GO (R237). -/
def execCollGo (g : Guard) (d a : Reg6) (s : State) : Out := collGoForm false g d a s

/-- COLL.GO.RESUME (R237). -/
def execCollGoResume (g : Guard) (d a : Reg6) (s : State) : Out := collGoForm true g d a s

/-- QUARANTINE END: a COLL.ARM held for a disarmed GROUP arms it (R236). -/
def execQuarantineEnd (s : State) : Out :=
  match s.ev with
  | some (.quarantineEnd i) =>
    match s.arming[i]? with
    | some x =>
      match x.cr with
      | some r =>
        if s.quarantined r.group then notNow "QUARANTINE END"
        else .next ({ s with arming := s.arming.eraseIdx i }.armNow x r)
      | none => notNow "QUARANTINE END"
    | none => notNow "QUARANTINE END"
  | _ => notNow "QUARANTINE END"

/-! ### Waits of the walkers on held pages -/

/-- What is retried after every turn: records and notices under a hold, reports of ended runs, delayed additions (R283,
R335). -/
def State.settleColl (s : State) : State :=
  let ready := s.arming.filter fun x => x.cr.isNone && s.retries x.hold
  let s1 := ready.foldl (fun a x => a.armStart x) { s with arming := s.arming.filter fun x => !ready.contains x }
  let bars := s1.collBars.filter fun b => s1.retries b.hold
  let s2 := bars.foldl (fun a b => a.addColl b) { s1 with collBars := s1.collBars.filter fun b => !bars.contains b }
  s2.colls.foldl (fun a x =>
    match x.2.run with
    | some r =>
      if !a.retries r.hold then a
      else
        match r.stage with
        | .notices => a.sendNotices x.1 x.2 r
        | .finish => a.finishRun x.1 x.2 r
        | .sending => a
    | none => a) s2

end Sys2Proof.Machine
end

