-- ==== Sys2Proof/Machine/Tile.lean ====
section
/-! DEFINITION. Optical tiles: entries (spec/10 R249), exponent alignment, the sum, the code and the accumulation (R255-R259),
and the accumulator sets. -/

namespace Sys2Proof.Machine

/-! ### Health events (spec/24 R416) -/

/-- A write of background activity: it takes no write timestamp and no place in the package order (R402). -/
def State.putBackground (s : State) (p : Place) (bs : List Byte) : State :=
  ((s.spoil p bs.length).pokeN p bs).unmark p bs.length

/-- Records are written, and the ring has no room for one. -/
def State.healthFull (s : State) : Bool :=
  s.cfield 0x8908 0 0 == 1
    && decide (2 ^ s.cfield 0x8908 7 4 ≤ (s.cfield 0x8910 31 0 + 2 ^ 32 - s.cfield 0x8918 31 0) % 2 ^ 32)

/-- Writes a health record where records are written and the ring has room. -/
def State.healthRecord (s : State) (kind source : Nat) (d0 d1 : Nat) : State :=
  let log2n := s.cfield 0x8908 7 4
  let tail := s.cfield 0x8910 31 0
  if s.cfield 0x8908 0 0 = 0 then s
  else if s.healthFull then
    s.setCfield 0x8910 63 32 (min 0xFFFFFFFF (s.cfield 0x8910 63 32 + 1))
  else
    let pa := s.cfield 0x8900 47 5 * 32 + 32 * (tail % 2 ^ log2n)
    if Config.deviceBytes < pa + 32 then s.stick (some pa)
    else
      (s.putBackground (.dev pa) (natLe 4 tail ++ natLe 1 kind ++ natLe 1 0 ++ natLe 2 source ++ natLe 8 s.now.toNat
        ++ natLe 8 d0 ++ natLe 8 d1)).setCfield 0x8910 31 0 (tail + 1)

/-- A health event: its record, then HSTAT HEALTH, whether or not records are written; where the ring is full, LOST advances and
HEALTH is not set (R387, R394, R400, R416). -/
def State.health (s : State) (kind source : Nat) (d0 d1 : Nat) : State :=
  if s.healthFull then s.healthRecord kind source d0 d1 else (s.healthRecord kind source d0 d1).signal 5

/-! ### Calibration (R406, R407) -/

/-- The block of registers of a tile (R408). -/
def tileOff (tile : Nat) : Nat := 0x8000 + 0x40 * tile

/-- Every ring of a tile that holds a channel is locked. -/
def State.allLocked (s : State) (tile : Nat) : Bool :=
  (List.range 128).all fun c => (List.range 68).all fun r =>
    let h := s.heater tile c r
    !h.drop || h.lock

/-- The junction temperature of a tile lies between 25 and 95 °C. -/
def State.tempOk (s : State) (tile : Nat) : Bool :=
  let t := signed 16 (s.cfield (tileOff tile) 63 48)
  decide (25 * 16 ≤ t) && decide (t ≤ 95 * 16)

/-- OPTREQ = 0 has taken effect on every bus: the package is in OPTOFF, its heaters off (R422, R423). -/
def State.optOff (s : State) : Bool := (List.range 4).all fun b => (s.bus b).off

/-- OPTREQ = 0 has taken effect for a tile: on the bus that it hears, or on every bus (R423). -/
def State.dark (s : State) (tile : Nat) : Bool := s.optOff || (s.seqr tile).sel.any fun b => decide (b < 4) && (s.bus b).off

/-- Whether a tile is calibrated (R406, R407, R423). -/
def State.calibrated (s : State) (tile : Nat) : Bool :=
  s.warmed && s.skewSince.isNone && !s.dark tile && !s.uncal.contains tile && s.tempOk tile && s.allLocked tile

/-- CAL of a tile takes its value. -/
def State.setCal (s : State) (tile : Nat) : State := s.setCfield (tileOff tile) 1 1 (boolNat (s.calibrated tile))

/-- CAL of every tile takes its value. -/
def State.setCals (s : State) : State := (List.range 32).foldl State.setCal s

/-- RATE of a tile; 21-31 act as 20 (R408). -/
def State.shadowRate (s : State) (tile : Nat) : Nat := min 20 (s.cfield (tileOff tile + 0x18) 4 0)

/-- Whether the check path of a tile captures an analog window of a frame: RATE names it, and the path is busy neither with an
earlier capture nor with a REFMODE window (R413). -/
def State.captures (s : State) (tile : Nat) (number : BitVec 32) : Bool :=
  s.shadowRate tile != 0 && (number.toNat + tile) % 2 ^ s.shadowRate tile == 0 && !(s.shadows.any fun x => x.1 == tile)
    && !(s.seqr tile).closed.any fun w => w.conf.mode && !w.missed

/-! ### Entries (R249) -/

/-- Element bits and fractional bits of a format code (R88, R243). -/
def streamFmt : Nat → Nat × Nat
  | 0 => (8, 6)
  | 1 => (6, 4)
  | _ => (4, 2)

/-- Bytes of the element blocks of an entry. -/
def elemBytes (lines fmt wd : Nat) : Nat := lines * (streamFmt fmt).1 * (8 * wd)

/-- Bytes that an entry needs: 64 lines for a transmitter, 128 for a receiver. -/
def entryBytes (lines fmt wd scm : Nat) : Nat :=
  elemBytes lines fmt wd + if scm = 1 then 0 else lines * (2 * wd)

/-! ### Windows (R255-R259) -/

/-- A line of a window: its exponent, whether it has a NaN scale, its flushed blocks, and its elements times 2^7 under
their attenuation (R255). -/
structure Line where
  x : Nat
  nan : Bool
  flushed : Nat
  elems : List Int
  deriving DecidableEq, Repr

/-- The scales of line r. -/
def scalesOf (lines fmt wd scm scx : Nat) (bs : List Byte) (r : Nat) : List Nat :=
  tabulate (2 * wd) fun k => if scm = 1 then scx else fieldAt bs (elemBytes lines fmt wd + r * (2 * wd) + k) 1

/-- The elements of a block whose scale lies sh below the line's exponent. -/
def blockElems (n : Nat) (bs : List Byte) (pos : Nat) (off : Bool) (sh : Nat) : List Int :=
  let img := fieldAt bs pos (4 * n)
  tabulate 32 fun t => if off then 0 else signed n (img / 2 ^ (n * t) % 2 ^ n) * 2 ^ (7 - sh)

/-- Line r of an entry (R255). -/
def lineOf (lines fmt wd scm scx : Nat) (bs : List Byte) (r : Nat) : Line :=
  let n := (streamFmt fmt).1
  let xs := scalesOf lines fmt wd scm scx bs r
  let x := (xs.filter (· != 0xFF)).foldl max 0
  { x := x, nan := xs.contains 0xFF, flushed := (xs.filter fun a => a != 0xFF && decide (7 < x - a)).length
    elems := xs.zipIdx.flatMap fun a =>
      blockElems n bs ((r * (2 * wd) + a.2) * (4 * n)) (a.1 == 0xFF || decide (7 < x - a.1)) (x - a.1) }

/-- The sum S of R256 times 2^14. -/
def lineSum (a b : Line) : Int := (a.elems.zip b.elems).foldl (fun acc x => acc + x.1 * x.2) 0

/-- The integer code of a receiver, with what PROMO and SAT count. -/
structure Code where
  c : Int
  promo : Bool
  sat : Bool
  deriving DecidableEq, Repr

/-- round_int(d × 2^e, RNE) of a sum. -/
def sumCode (d : Int) (e : Int) : Int := (roundInt .rne 0 (decide (d < 0)) d.natAbs e false).1

/-- 2,047 with the sign of a sum. -/
def satCode (d : Int) : Int := if d < 0 then -2047 else 2047

/-- The REFMODE code of R257, of the sum d × 2^−14 at gain g. -/
def refCode (g : Nat) (d : Int) : Code :=
  let f := sumCode d (-3 - g)
  if f.natAbs ≤ 2047 then ⟨f, false, false⟩
  else
    let c := sumCode d (-9 - g)
    if c.natAbs ≤ 2047 then ⟨c, true, false⟩ else ⟨satCode d, true, true⟩

/-- Whether a sum has passed a bound of R258 at gain g: certainly, or as a free value says. -/
def passes (n key g : Nat) (d : Int) : Bool :=
  decide (2050 * 2 ^ (g + 3) ≤ d.natAbs) || (decide (2044 * 2 ^ (g + 3) < d.natAbs) && Config.grayBand n key)

/-- The gain Gp of a code, as the divisor of a sum times 2^14: 2^(Gp − 11 + 14). -/
def Code.unit (k : Code) (g : Nat) : Int := 2 ^ (g + (if k.promo then 6 else 0) + 3)

/-- A code cut to within 3 of the sum (R258). -/
def near (u d c : Int) : Int := max (-(-d / u) - 3) (min (d / u + 3) c)

/-- The analog code of R258: a free value within the promises of that rule, the n-th one, of a receiver. Where the conditions of
the accuracy model hold, it lies within 3 codes of the sum, but for the outliers, which are a free value too. -/
def analogCode (cal : Bool) (n recv g : Nat) (d : Int) : Code :=
  let p := passes n (2 * recv) g d
  if p && passes n (2 * recv + 1) (g + 6) d then ⟨satCode d, true, true⟩
  else
    let free := Config.analogCode n recv
    let c := if cal && !Config.outlier n recv then near (Code.unit ⟨0, p, false⟩ g) d free else free
    ⟨max (-2047) (min 2047 c), p, false⟩

/-- Whether a code lies outside the accuracy model of R258 (R413). -/
def Code.outside (k : Code) (g : Nat) (d : Int) : Bool := !k.sat && decide (3 * k.unit g < ((k.c * k.unit g - d).natAbs : Int))

/-- The accumulation of one receiver (R259): the new element and the flags. -/
def accumulate1 (g fa fb : Nat) (a b : Line) (k : Code) (acc : Nat) : Nat × Nat :=
  let e : Int := (g : Int) + (if k.promo then 6 else 0) - 11 + a.x + b.x - 254 - fa - fb
  fp32.finish .rne 0 (addV .rne (fp32.val acc) (.num (decide (k.c < 0)) k.c.natAbs e))

/-- What one receiver of a window adds: its new element, flags, and whether it was promoted or saturated. -/
structure Receiver where
  acc : Nat
  flags : Nat
  promo : Bool
  sat : Bool
  deriving DecidableEq, Repr

/-- Receiver number r of a window (R259): row and column lines, whether the row is lost, and its old element. -/
def receive (ref cal : Bool) (n g fa fb r : Nat) (lost : Bool) (a b : Line) (old : Nat) : Receiver :=
  if lost then ⟨old, 0, false, false⟩
  else if a.nan || b.nan then ⟨fp32.nan, 0, false, false⟩
  else
    let k := if ref then refCode g (lineSum a b) else analogCode cal n r g (lineSum a b)
    let x := accumulate1 g fa fb a b k old
    ⟨x.1, x.2, k.promo, k.sat⟩

/-- The lines of a frame's activations. -/
def Frame.lines (f : Frame) : List Line := tabulate 64 (lineOf 64 f.fmt f.wd f.scm f.scx f.bytes)

/-- The lines of a window's weights. -/
def Window.lines (w : Window) : List Line :=
  tabulate 128 (lineOf 128 w.conf.fmt w.conf.wd w.conf.scm w.conf.scx w.entry)

/-- Every receiver of a window, channel by channel, from the set's old elements. -/
def Window.receivers (w : Window) (act wt : List Line) (fmta : Nat) (old : List (BitVec 32)) : List Receiver :=
  let fa := (streamFmt fmta).2
  let fb := (streamFmt w.conf.fmt).2
  act.zipIdx.flatMap fun a => wt.zipIdx.map fun b =>
    let r := 128 * a.2 + b.2
    receive w.conf.mode w.cal w.key w.conf.g fa fb r (w.lost.getLsbD a.2) a.1 b.1 (old.getD r 0).toNat

/-- The receivers of an analog window whose code lies outside the accuracy model, or would if the tile were calibrated (R413).
Those of lost rows and of lines with a NaN scale, for which R258 gives no code, are left out (DESIGN CHOICE,
notes/assumptions/56.md: R413 speaks of every receiver). -/
def Window.outside (w : Window) : Nat :=
  let act := (w.frame.map Frame.lines).getD []
  let wt := w.lines
  (act.zipIdx.map fun a => (wt.zipIdx.filter fun b =>
    !w.lost.getLsbD a.2 && !a.1.nan && !b.1.nan
      && (analogCode w.cal w.key (128 * a.2 + b.2) w.conf.g (lineSum a.1 b.1)).outside w.conf.g (lineSum a.1 b.1)).length).foldl
    (· + ·) 0

/-! ### Accumulator sets (R243) -/

/-- The first element of a set of a tile. -/
def accBase (tile set : Nat) : Nat := (4 * tile + set) * 8192

/-- The 8,192 elements of a set. -/
def State.accSet (s : State) (tile set : Nat) : List (BitVec 32) :=
  tabulate 8192 fun i => tget 0 s.accs (accBase tile set + i)

/-- Replaces a set. -/
def State.setAccSet (s : State) (tile set : Nat) (xs : List (BitVec 32)) : State :=
  let lo := accBase tile set
  let new := (xs.zipIdx.map fun x => (lo + x.2, x.1)).filter fun x => x.2 != 0
  { s with accs := (s.accs.filter fun x => decide (x.1 < lo)) ++ new
      ++ s.accs.filter fun x => decide (lo + 8192 ≤ x.1) }

/-- Sets every element of a set to +0, which clears its marks (R243, R415). -/
def State.clearAccSet (s : State) (tile set : Nat) : State :=
  let lo := accBase tile set
  { s with accs := s.accs.filter fun x => decide (x.1 < lo) || decide (lo + 8192 ≤ x.1)
           marks := s.marks.filter fun m =>
             match m with
             | .acc t n => t != tile || n / 4096 != set
             | _ => true }

/-- Whether a row of a set holds an element with an uncorrectable soft error (R415). -/
def State.accBad (s : State) (tile set row : Nat) : Bool :=
  s.marks.any fun m =>
    match m with
    | .acc t n => t == tile && n / 64 == set * 64 + row
    | _ => false

end Sys2Proof.Machine
end

