-- ==== Sys2Proof/Machine/Session.lean ====
section
/-! DEFINITION. Sessions and frames (spec/10 R250-R268, spec/17 R308, spec/23 R396, spec/24 R411, R412, spec/25 R423): ends of
programs, readiness, admission, frame boundaries, accumulation, import frames, and the loss of a comb. -/

namespace Sys2Proof.Machine

/-! ### Sequencers and their members -/

/-- The listeners registered with a selector. -/
def State.listeners (s : State) (sel : Nat) : List Nat := (List.range 32).filter fun t => (s.seqr t).sel == some sel

/-- The tiles whose window came from a bus and is not over. -/
def State.windowsOf (s : State) (bus : Nat) : List Nat :=
  (List.range 32).filter fun t => (s.seqr t).busy.any fun w => w.bus == bus

/-- The transmit sequencer of a bus. -/
def txOf (bus : Nat) : Nat := 32 + bus

/-- Whether a sequencer transmits. -/
def isTx (q : Nat) : Bool := decide (32 ≤ q)

/-- A program ends: its future completes, and the next program in line becomes the sequencer's (R239, R242). -/
def State.endNow (s : State) (q : Nat) (r : Result) : State :=
  let x := s.seqr q
  match x.cmd with
  | none => s
  | some c =>
    (s.setSeqr q { x with cmd := x.line.head?, line := x.line.tail, run := none, busy := none, closed := [], ending := none,
                          again := false, row := 0, logged := [], logging := [], drainErr := none, hold := none }).fly c.tag c.ctx r

/-- A program ends once the windows that are over have been accumulated (R261). -/
def State.endOne (s : State) (q : Nat) (r : Result) : State :=
  let x := s.seqr q
  if x.closed.isEmpty then s.endNow q r
  else s.setSeqr q { x with run := none, busy := none, ending := some (x.ending.getD r) }

/-- The tile deregisters at the next frame boundary. -/
def State.leaveSoon (s : State) (q : Nat) : State :=
  let x := s.seqr q
  if isTx q ∨ x.sel.isNone then s else s.setSeqr q { x with leaving := true }

/-- A program ends poisoned; the RUNs that wait for a frame of a poisoned transmitter end with its code (R268). -/
def State.endPoison (s : State) (q code : Nat) (addr info : Word) (reason : Nat) : State :=
  let waiting := if isTx q ∧ (code = Poison.laser ∨ code = Poison.tile ∨ code = Poison.ring) then
      (s.listeners (q - 32)).filter fun t => (s.seqr t).run.isSome
    else []
  waiting.foldl (fun a t => a.endOne t (.poison code 0 0 0)) (s.endOne q (.poison code addr info reason))

/-- The end of a program with a code alone. -/
def State.endCode (s : State) (q code : Nat) : State :=
  s.endPoison q code 0 0 (if code = Poison.refused then Reason.refused else 0)

/-- The end of a program whose access failed. -/
def State.endFail (s : State) (q : Nat) (f : Fail) : State := (s.stick f.hole).endPoison q f.code f.addr 0 f.reason

/-- A DRAIN is in the middle of its rows: a save finds no place for it in the tile block, and lets it end (R362, R363). -/
def Seqr.draining (x : Seqr) : Bool := decide (0 < x.row) && decide (x.row ≤ 64) && x.drainErr.isNone

/-- Whether a sequencer's program may go on: it has one that is not ending, and is neither halted nor stopped; a DRAIN runs to its
end before a stop. -/
def Seqr.goes (x : Seqr) : Bool := x.cmd.isSome && x.ending.isNone && (!x.stop || x.draining) && !x.halt

/-! ### The input entry (R249, R252, R426) -/

/-- Bytes of the entry that a RUN needs. -/
def runBytes (q : Nat) (c : SConf) : Nat := entryBytes (if isTx q then 64 else 128) c.fmt c.wd c.scm

/-- The entry that the next window takes: INQ, past the entries of the windows that wait for their accumulation, which advances
INQ (R252, R254; DEDUCED, notes/assumptions/26.md). -/
def Seqr.cursor (x : Seqr) : BitVec 32 := x.inq + BitVec.ofNat 32 (x.closed.filter fun w => !w.keep).length

/-- The address and length of the entry at the cursor, when a RUN waits on a bound ring. -/
def State.entryAtInq (s : State) (q : Nat) : Option (Nat × Word × Nat) :=
  let x := s.seqr q
  match x.run, x.inr with
  | some w, some key => some (key, (s.ring key).entry x.cursor.toNat, runBytes q w.conf)
  | _, _ => none

/-- The mark of the entry at the cursor; one that is not below FILL has not been filled, whatever its place in the ring held
before (R225, R252). -/
def State.inMark (s : State) (q : Nat) : Nat :=
  match (s.seqr q).inr with
  | some key =>
    let r := s.ring key
    let c := (s.seqr q).cursor
    if modGe c r.fill then 0 else r.mark c.toNat
  | none => 0

/-- The agent of the accesses of sequencer q, which its own stream TLB serves (R329, R337). -/
def Seqr.agent (x : Seqr) (q : Nat) : Agent :=
  match x.cmd with
  | some c => { c.ctx.agent with tlb := .seqr q }
  | none => { core := 0, lid := 0, pack := none, asid := 0, tlb := .seqr q }

/-- What translating every page of the entry at INQ comes to (R426). -/
inductive Paged where
  | ok
  | held (va : Word)
  /-- A link waits for a beacon (R394). -/
  | away
  | fail (f : Fail)
  deriving DecidableEq, Repr

/-- Translates a range for an engine. -/
def State.paged (s : State) (ag : Agent) (need : Need) (va : Word) (n : Nat) : Paged :=
  let ls := (segmentsOf va (n / 4096 + 2) n).map fun g => (g.1, s.engineLocate ag need g.1)
  match ls.findSome? fun l => l.2.failure l.1 with
  | some f => .fail f
  | none =>
    match ls.find? fun l => l.2 == .held with
    | some l => .held l.1
    | none => if ls.any fun l => l.2 == .away then .away else .ok

/-- A waiting RUN is tested against its entry: a poisoned entry, a page that fails, or a soft error in the ring's context ends its
program (R268, R415, R426). -/
def State.testRun (s : State) (q : Nat) : State :=
  match s.entryAtInq q with
  | none => s
  | some (key, va, n) =>
    let x := s.seqr q
    if s.ringBad key then (s.endCode q Poison.soft).leaveSoon q
    else
    match s.inMark q with
    | 2 => (s.endCode q Poison.ring).leaveSoon q
    | 1 =>
      match s.paged (x.agent q) .load va n with
      | .ok | .away => s.setSeqr q { x with hold := none }
      | .fail f => (s.endFail q f).leaveSoon q
      | .held a =>
        match s.keepHold (x.agent q) x.hold a with
        | none => (s.endFail q (heldFail a)).leaveSoon q
        | some h => s.setSeqr q { x with hold := some h }
    | _ => s

/-- Whether the status ring of a receiver has space for a record after k others (R252). -/
def State.statusRoom (s : State) (x : Seqr) (k : Nat) : Bool :=
  match x.str with
  | none => true
  | some key => decide ((x.stq - (s.ring key).free).toNat + k < (s.ring key).n)

/-- The input entry at INQ is filled and every page of it translates. -/
def State.entryReady (s : State) (q : Nat) : Bool :=
  match s.entryAtInq q with
  | none => false
  | some (_, va, n) => s.inMark q == 1 && s.paged ((s.seqr q).agent q) .load va n == .ok

/-- Whether a tile's RUN has what it needs for the next frame (R252): in REFMODE its previous window must have been accumulated.
-/
def State.runReady (s : State) (t : Nat) : Bool :=
  let x := s.seqr t
  x.busy.isNone && s.statusRoom x x.closed.length && s.entryReady t && (x.closed.isEmpty || x.run.any fun w => !w.conf.mode)

/-- Whether a tile is ready for the next frame of its local bus (R252). -/
def State.tileReady (s : State) (t : Nat) : Bool := (s.seqr t).goes && !(s.seqr t).leaving && s.runReady t

/-- Whether an import listener is ready for a frame that arrives (R267): a deregistration, a stop or a HALT that is still to take
effect at a boundary does not hold it back. -/
def State.importReady (s : State) (t : Nat) : Bool :=
  let x := s.seqr t
  x.cmd.isSome && x.ending.isNone && !x.rests && s.runReady t

/-! ### Admission (R252-R254, R264) -/

/-- A ready tile takes a frame (R254). -/
def State.takeFrame (s : State) (t bus : Nat) (f : Frame) : State :=
  let x := s.seqr t
  match x.run, s.entryAtInq t with
  | some w, some (key, va, n) =>
    if f.wd ≠ w.conf.wd ∨ (w.conf.fmta ≠ 3 ∧ f.fmt ≠ w.conf.fmta) then (s.endCode t Poison.refused).leaveSoon t
    else
      match s.engineRead (x.agent t) va n with
      | .data s0 bs =>
        let s1 := s0.prefetch (x.agent t) ((s.ring key).entry (x.cursor + 1).toNat) .load
        { s1 with freeCtr := s1.freeCtr + 1 }.setSeqr t { x with
          run := none, hold := none, again := false, conf := { x.conf with upc := x.conf.upc + 1 }
          busy := some { w with bus := bus, ring := key, q := x.cursor, entry := bs, frame := some f, rerun := x.again
                                key := s1.freeCtr, cal := s1.calibrated t } }
      | .fail s1 f => (s1.endFail t f).leaveSoon t
      | .held _ | .away => s
  | _, _ => s

/-- An alarmed tile takes the rerun of its frame (R264), under the conditions of the accuracy model that hold now (R258). -/
def State.takeRerun (s : State) (t : Nat) (f : Frame) : State :=
  let x := s.seqr t
  match x.busy with
  | some w =>
    { s with freeCtr := s.freeCtr + 1 }.setSeqr t
      { x with busy := some { w with frame := some f, key := s.freeCtr, cal := s.calibrated t } }
  | none => s

/-- The tiles of a bus that wait for a rerun. -/
def State.alarmed (s : State) (bus : Nat) : List Nat :=
  (s.windowsOf bus).filter fun t => (s.seqr t).busy.any fun w => w.frame.isNone

/-- A frame sets out on a bus: FRAME advances (R251). -/
def State.launchFrame (s : State) (bus : Nat) (f : Frame) : State :=
  let b := s.bus bus
  s.setBus bus { b with frame := b.frame + 1, flight := some f }

/-- Names the RUN of a transmitter for good: its program's number times 2^32, plus its WINDEX. -/
def Seqr.runId (x : Seqr) : Nat := ((x.cmd.map (·.number)).getD 0) * 2 ^ 32 + x.windex.toNat

/-- The frame that a transmitter sends for its RUN: its entry is read, and `bad` says that it holds an uncorrectable soft
error (R249, R426). -/
def State.frameOf (s : State) (bus : Nat) (w : Window) (va : Word) (n : Nat) : Option (State × Frame) :=
  let x := s.seqr (txOf bus)
  let mk := fun (bs : List Byte) (bad : Bool) =>
    ({ number := (s.bus bus).frame, run := x.runId, wd := w.conf.wd, fmt := w.conf.fmt, scm := w.conf.scm, scx := w.conf.scx,
       bytes := bs, bad := bad } : Frame)
  match s.engineRead (x.agent (txOf bus)) va n with
  | .data s1 bs =>
    let next := x.inr.map fun key => (s.ring key).entry (x.cursor + 1).toNat
    some (s1.prefetch (x.agent (txOf bus)) (next.getD va) .load, mk bs false)
  | .fail s1 f => if f.code = Poison.soft then some (s1, mk [] true) else none
  | .held _ | .away => none

/-- Whether a listener of the bus's session is out with a pack of the transmitter's launch: the session goes on when every
pack of it is back (R266). -/
def State.fellowOut (s : State) (bus : Nat) : Bool :=
  match s.packs.find? fun p => p.out.isNone && p.buses.contains bus with
  | none => false
  | some o => s.packs.any fun p => p.out.isSome && p.key / 2 ^ 24 == o.key / 2 ^ 24
      && p.saved.any fun x => !isTx x.1 && x.2.sel == some bus

/-- Admits the next frame of a bus where its conditions hold (R252): the rerun of an alarmed frame, or a new frame. -/
def State.admission (s : State) (bus : Nat) : State :=
  let q := txOf bus
  let x := s.seqr q
  let b := s.bus bus
  if b.lost || b.off || b.flight.isSome || !x.goes || s.fellowOut bus || (s.listeners bus).any fun t => (s.seqr t).halt
    || (s.seqr t).stop then s
  else
    match x.run with
    | none => s
    | some w =>
      match w.frame with
      | some f =>
        let again := s.alarmed bus
        if again = [] then s
        else
          let f' := { f with number := b.frame }
          again.foldl (fun a t => a.takeRerun t f') (s.launchFrame bus f')
      | none =>
        let ls := (s.listeners bus).filter fun t => !x.again || (s.seqr t).again
        if decide (x.wnow ≤ s.now.toNat) && s.entryReady q && ls.all s.tileReady then
          match s.entryAtInq q with
          | some (_, va, n) =>
            match s.frameOf bus w va n with
            | some (s1, f) =>
              let y := s1.seqr q
              let s2 := (s1.setSeqr q
                { y with run := some { w with frame := some f, rerun := x.again }, hold := none, wnow := 0 }).launchFrame bus f
              ls.foldl (fun a t => a.takeFrame t bus f) s2
            | none => s
          | none => s
        else s

/-! ### The end of a frame -/

/-- Marks the first degraded window of a program (R263, R273). -/
def Seqr.degraded (x : Seqr) : Seqr :=
  { x with sdone := { x.sdone with degr := true, firstDeg := some (x.sdone.firstDeg.getD x.windex) } }

/-- A transmitter's RUN ends once its frame has been sent and no listener waits for a rerun; the listeners may finish its window
later, and its entry is freed then (R247, R253). -/
def State.finishTx (s : State) (bus : Nat) : State :=
  let q := txOf bus
  let x := s.seqr q
  match x.run with
  | some w =>
    if w.frame.isNone || (s.bus bus).flight.isSome || s.alarmed bus != [] then s
    else
      s.setSeqr q { x with
        run := none, again := false, conf := { x.conf with upc := x.conf.upc + 1 }, windex := x.windex + 1
        inq := if w.keep then x.inq else x.inq + 1, sdone := { x.sdone with frames := x.sdone.frames + 1 }
        unfreed := x.unfreed ++ (x.inr.map fun key => { run := x.runId, ring := key, keep := w.keep }).toList }
  | none => s

/-- Whether some listener has still to finish a window of a transmit RUN (R253). -/
def State.listening (s : State) (bus run : Nat) : Bool :=
  let from' := fun (w : Window) => w.bus == bus && w.frame.any fun f => f.run == run
  s.seqrs.any fun x => x.2.closed.any from' || x.2.busy.any from'

/-- Of a transmitter's frames, oldest first, those that stay, and the rings of the entries to free: one that every listener has
finished goes, but an entry waits for the earlier entries of its ring, since FREE advances in order (R228, R253). -/
def unfreedWalk (unheard : Nat → Bool) (waits : List Nat) : List Unfreed → List Unfreed × List Nat
  | [] => ([], [])
  | u :: r =>
    if unheard u.run || (!u.keep && waits.contains u.ring) then
      let (kept, rings) := unfreedWalk unheard (if u.keep then waits else u.ring :: waits) r
      (u :: kept, rings)
    else
      let (kept, rings) := unfreedWalk unheard waits r
      (kept, if u.keep then rings else u.ring :: rings)

/-- A transmitter's entries whose windows every listener has finished are freed (R253). -/
def State.freeSent (s : State) (bus : Nat) : State :=
  let x := s.seqr (txOf bus)
  let (kept, rings) := unfreedWalk (s.listening bus) [] x.unfreed
  if kept.length = x.unfreed.length then s
  else rings.foldl (fun a key => a.ringFree key 1) (s.setSeqr (txOf bus) { x with unfreed := kept })

/-- A discarded window: the sequencer is again as it stood at the RUN, which it executes again (R265, R266). -/
def Seqr.discard (x : Seqr) (w : Window) (again : Bool) : Seqr :=
  { x with conf := w.conf, optr := w.optr, run := none, busy := none, again := again, hold := none }

/-- The windows of some tiles that are not over are discarded (R266). -/
def State.discardAt (s : State) (ts : List Nat) : State :=
  ts.foldl (fun a t =>
    let x := a.seqr t
    match x.busy with
    | some w => a.setSeqr t (x.discard w w.rerun)
    | none => a) s

/-- The frame in flight of a bus, or one that waits for its rerun, is discarded at every listener (R265, R266, R426); `tx` when
the transmitter runs it again: one that was a rerun, or awaited it, for the alarmed tiles alone. A window that is over stays. -/
def State.discardFlight (s : State) (bus : Nat) (tx : Bool) : State :=
  let s1 := s.discardAt (s.windowsOf bus)
  let b := s1.bus bus
  let s2 := s1.setBus bus { b with flight := none }
  let x := s2.seqr (txOf bus)
  match x.run with
  | some w =>
    if tx && w.frame.isSome then s2.setSeqr (txOf bus) (x.discard w w.rerun) else s2
  | none => s2

/-- The registers of R408 take a tile's skew margin (R411). -/
def State.recordMargin (s : State) (t m : Nat) (analog : Bool) : State :=
  let off := 0x8008 + 0x40 * t
  let s1 := s.setCfield off 31 16 (min m (s.cfield off 31 16))
  if analog then s1.setCfield off 15 0 m else s1

/-- ALARMS of a tile advances (R408). -/
def State.countAlarm (s : State) (t : Nat) : State :=
  let off := 0x8008 + 0x40 * t
  s.setCfield off 47 32 (min 0xFFFF (s.cfield off 47 32 + 1))

/-- The margin that the pilots of a gap give a tile: what the world reports, or a whole symbol where it reports nothing (DESIGN
CHOICE, notes/assumptions/43.md). -/
def marginOf (margins : List (Nat × Nat)) (t : Nat) : Nat := ((margins.find? fun m => m.1 == t).map (·.2)).getD 64

/-- Every listener of a bus measures its margin in the gap (R411): the registers of R408, and the alarm of a margin below 4. -/
def State.sampleMargins (s : State) (bus : Nat) (margins : List (Nat × Nat)) : State :=
  (s.listeners bus).foldl (fun a t =>
    let m := marginOf margins t
    let b := a.recordMargin t m ((a.seqr t).busy.any fun w => w.bus == bus && w.frame.isSome && !w.conf.mode)
    if m < 4 then b.countAlarm t else b) s

/-- A window is over and waits for its accumulation. -/
def Seqr.close (x : Seqr) (w : Window) : Seqr := { x with busy := none, closed := x.closed ++ [w] }

/-- The check path captures an analog window that is over, where RATE names it (R413). -/
def State.capture (s : State) (t : Nat) (w : Window) : State :=
  if w.frame.any fun f => s.captures t f.number then { s with shadows := tset s.shadows t w } else s

/-- The frame of a tile's window is over (R262, R264, R267): lost rows, the skew margin, and its alarm. An alarmed window of a
local bus writes no record of its own: its rerun's record has RERUN, and SKEWALM is set for an import window that an alarm makes
missed (DESIGN CHOICE, notes/assumptions/54.md: R272 does not say when SKEWALM is set). -/
def State.windowEnds (s : State) (t bus : Nat) (lost : BitVec 64) (margins : List (Nat × Nat)) : State :=
  let x := s.seqr t
  match x.busy with
  | none => s
  | some w =>
    let m := marginOf margins t
    if w.frame.isNone then s
    else if w.conf.mode then s.setSeqr t (x.close { w with lost := 0, margin := 0xFFFF })
    else if 4 ≤ m then
      let v := { w with lost := w.lost ||| lost, margin := m }
      (s.setSeqr t (x.close v)).capture t v
    else if 4 ≤ bus then s.setSeqr t (x.close { w with missed := true, alarm := true, margin := m })
    else if w.rerun then (s.endCode t Poison.tile).leaveSoon t
    else s.setSeqr t { x with busy := some { w with rerun := true, frame := none }, sdone := { x.sdone with skew := true } }

/-- The transmitter's side of the end of a frame: its activations' status (R263, R273). -/
def Seqr.sent (x : Seqr) (f : Frame) (degraded : Bool) : Seqr :=
  let ls := f.lines
  let d := x.sdone
  { x with sdone := { d with flush := d.flush || ls.any fun l => decide (0 < l.flushed)
                             nansc := d.nansc || ls.any fun l => l.nan, degr := d.degr || degraded } }

/-- Where a tile of a bus waits for a rerun of the frame, the transmitter's window goes to the alarmed tiles alone from here on
(R264). -/
def State.markRerun (s : State) (bus : Nat) : State :=
  let x := s.seqr (txOf bus)
  if s.alarmed bus = [] then s
  else s.setSeqr (txOf bus) { x with run := x.run.map fun w => { w with rerun := true } }

/-- The frame in flight ends (R251, R262-R264, R426); `lost` are the rows of it that are lost. -/
def State.frameEnds (s : State) (bus : Nat) (lost : BitVec 64) (margins : List (Nat × Nat)) : State :=
  match (s.bus bus).flight with
  | none => s
  | some f =>
    let q := txOf bus
    if f.bad then
      (s.discardFlight bus false).endCode q Poison.soft
    else
      let ts := s.windowsOf bus
      let degraded := lost != 0 && ts.any fun t => (s.seqr t).busy.any fun w => !w.conf.mode && w.frame.isSome
      let s1 := ts.foldl (fun a t => a.windowEnds t bus lost margins) s
      let b := s1.bus bus
      let s2 := s1.setBus bus { b with flight := none }
      if 4 ≤ bus then s2
      else if (s2.seqr q).run.isSome then ((s2.setSeqr q ((s2.seqr q).sent f degraded)).markRerun bus).finishTx bus
      else s2

/-! ### Combs and lines (R265, R412, R423) -/

/-- Every program of a session ends poisoned with 0x0020, and nothing more is accumulated (R265). -/
def State.endSession (s : State) (bus : Nat) : State :=
  let b := s.bus bus
  let s1 := s.setBus bus { b with flight := none }
  (txOf bus :: s1.listeners bus).foldl (fun a q => a.endNow q (.poison Poison.laser 0 0 0)) s1

/-- The gap's sample of a comb's lines (R412): COMBLOW, the transitions to low, and the events of the newly low lines. -/
def State.sampleLines (s : State) (comb : Nat) (low : BitVec 64) : State :=
  let old := s.creg (0x8880 + 8 * comb)
  let fresh := (List.range 64).filter fun i => low.getLsbD i && !old.getLsbD i
  let s1 := s.setCreg (0x8880 + 8 * comb) low
  let off := 0x88A8 + 8 * comb
  let s2 := s1.setCfield off 63 32 (min 0xFFFFFFFF (s1.cfield off 63 32 + fresh.length))
  let kept := s2.lowLines.filter fun x => x.1 != comb || low.getLsbD x.2.1
  let s3 := { s2 with lowLines := kept ++ fresh.map fun i => (comb, i, s2.now.toNat) }
  fresh.foldl (fun a i => a.health 0x03 comb i 0) s3

/-- Whether comb 4 can be claimed, and the state after the claim (R265, R399): it is neither lost nor claimed, and a
reservation that is not committed is taken. -/
def State.claimComb (s : State) (comb : Nat) : Option State :=
  let off := 0x9050
  if s.cfield 0x88C8 1 0 = 2 ∨ s.cfield off 61 61 = 1 ∨ (s.cfield off 62 62 = 1 ∧ s.cfield off 63 63 = 1) then none
  else
    let taken := s.cfield off 62 62 = 1
    let s1 := (s.setCfield off 61 61 1).setCfield off 15 8 comb
    some (if taken then (s1.setCfield off 62 62 0).setCfield off 60 60 1 else s1)

/-- A fault-domain event of a port or comb that could not be replaced (R400). -/
def State.domainEvent (s : State) (fdom resource : Nat) : State :=
  (s.freezeRuns fdom).health 0x05 fdom resource 0

/-- The fault domain of a comb (R391). -/
def State.combFdom (s : State) (comb : Nat) : Nat := s.config.combDom.getD comb 0

/-- The bus that a comb feeds. -/
def State.busOfComb (s : State) (comb : Nat) : Option Nat := (List.range 4).find? fun b => (s.bus b).comb == comb

/-- OPTREQ = 0 has taken effect on the bus that a comb feeds: its lasers are off, and it cannot be seen to fail (R412, R423). -/
def State.combDark (s : State) (comb : Nat) : Bool := (s.busOfComb comb).any fun b => (s.bus b).off

/-- A comb fails (R265, R399): comb 4 is claimed for it, or the loss is a fault-domain event. The bus changes at its next
frame boundary; one that was to change to comb 4 cannot, where comb 4 is lost before that. -/
def State.loseComb (s : State) (comb : Nat) : State :=
  if s.cfield (0x88A8 + 8 * comb) 1 0 = 2 ∨ s.combDark comb = true then s
  else
    let s1 := s.setCfield (0x88A8 + 8 * comb) 1 0 2
    let set := fun (a : State) (r : Bool) =>
      match s.busOfComb comb with
      | some b => a.setBus b { a.bus b with fails := some r }
      | none => a
    if comb = 4 then
      let awaits := (List.range 4).filter fun b => (s.bus b).fails == some true
      let s2 := awaits.foldl (fun a b => a.setBus b { a.bus b with fails := some false }) (set s1 false)
      (s2.health 0x04 4 1 0).domainEvent (s1.combFdom 4) 4
    else
      match s1.claimComb comb with
      | some s2 => (set (s2.setCfield (0x88A8 + 32) 1 0 3) true).health 0x04 comb 0 0
      | none => ((set s1 false).health 0x04 comb 1 0).domainEvent (s1.combFdom comb) comb

/-- The lasers of a comb go off; the last bus takes the package to OPTOFF (R412, R422, R423). -/
def State.combOff (s : State) (comb : Nat) : State :=
  let off := 0x88A8 + 8 * comb
  let s1 := if s.cfield off 1 0 = 2 then s else s.setCfield off 1 0 0
  if s1.optOff ∧ s1.cfield 0x10 7 0 = 6 then
    ((if s1.cfield 0x88C8 1 0 = 2 then s1 else s1.setCfield 0x88C8 1 0 0).setCfield 0x20 33 32 2).heatersOff
  else s1

/-- What a frame boundary does about a failed comb or OPTREQ = 0 (R265, R423); none of them, and the frame ends. OPTREQ counts
from boot stage READY on, where the optics are on (R422); a comb that has failed is still to be replaced when they come on
again. -/
def State.combBoundary (s : State) (bus : Nat) : Option State :=
  let b := s.bus bus
  if 4 ≤ bus ∨ b.off = true then none
  else if s.cfield 0x20 0 0 = 0 ∧ s.cfield 0x10 7 0 = 6 then
    some ((((s.setBus bus { b with off := true }).combOff b.comb).endSession bus).setCals)
  else
    match b.fails with
    | some true => some ((s.setBus bus { b with comb := 4, fails := none }).discardFlight bus true)
    | some false => some ((s.setBus bus { b with lost := true, fails := none }).endSession bus)
    | none => none

/-! ### Joining and leaving (R240, R254, R269) -/

/-- The completion word of a registration. -/
def regWord (frame sel : Nat) (none : Bool) : Nat := frame * 2 ^ 32 + boolNat none * 2 ^ 7 + sel

/-- A deregistration takes effect at a boundary of the tile's bus (R240, R254). -/
def State.leaveNow (s : State) (t sel : Nat) : State :=
  let x := s.seqr t
  let last := ((s.bus sel).frame - 1).toNat
  let s1 := x.leaves.zipIdx.foldl (fun a l =>
    a.fly l.1.1 l.1.2 (fullS (if l.2 = 0 then regWord last sel false else regWord 0 0 true))) s
  let waits := x.run.isSome || x.busy.any fun w => w.frame.isNone
  let s2 := s1.setSeqr t { x with sel := none, leaving := false, leaves := [], late := [] }
  if waits then s2.endCode t Poison.refused else s2

/-- Whether a selector names a session that a tile may hear now: the code of the refusal otherwise (R240, R250, R423). A bus
that is lost and not assigned to the launch either is refused as lost (DESIGN CHOICE, notes/assumptions/55.md: no rule orders
the two). -/
def State.selectable (s : State) (sel lid : Nat) : Option Nat :=
  if sel < 4 then
    if (s.bus sel).lost ∨ (s.bus sel).off then some Poison.laser
    else if s.packs.any fun p => p.key / 2 ^ 24 == lid && p.out.isNone && p.buses.contains sel then none
    else some Poison.refused
  else if s.cfield (0x90A0 + 8 * (sel - 4)) 63 62 = 3 then none
  else some Poison.dead

/-- The selector has switched: 200 ns have passed (R240). -/
def State.switched (s : State) (j : Join) : Bool := decide (200 * Config.ns ≤ s.now.toNat - j.since)

/-- A registration takes effect at a boundary of its bus (R240, R269). -/
def State.joinNow (s : State) (t : Nat) (j : Join) : State :=
  let x := s.seqr t
  let lost := if j.sel < 4 then (s.bus j.sel).lost || (s.bus j.sel).off else s.cfield (0x90A0 + 8 * (j.sel - 4)) 63 62 != 3
  let code := if j.sel < 4 then Poison.laser else Poison.dead
  if lost then
    let s1 := s.setSeqr t { x with join := none }
    match j.fut with
    | some (tag, ctx) => s1.fly tag ctx (.poison code 0 0 0)
    | none => s1.endCode t code
  else
    let y := { x with join := none, sel := some j.sel, late := [], leaving := false }
    match j.fut with
    | some (tag, ctx) => (s.setSeqr t y).fly tag ctx (fullS (regWord (s.bus j.sel).frame.toNat j.sel false))
    | none => s.setSeqr t { y with conf := { x.conf with upc := x.conf.upc + 1 } }

/-- Tiles leave and join a session at a boundary. -/
def State.turnover (s : State) (bus : Nat) : State :=
  let s1 := (s.listeners bus).foldl (fun a t => if (a.seqr t).leaving then a.leaveNow t bus else a) s
  (List.range 32).foldl (fun a t =>
    let x := a.seqr t
    match x.join with
    | some j => if j.sel = bus ∧ x.sel.isNone ∧ a.switched j = true then a.joinNow t j else a
    | none => a) s1

/-! ### Sequencers that stop (R356, R363) -/

/-- A killed pack's sequencer stops: its completions are discarded, and its tile deregisters (R356). -/
def State.stopSeqr (s : State) (q : Nat) : State :=
  (s.seqr q).tags.foldl (fun a t => a.deliver t (.inl 0)) (s.setSeqr q idleSeqr)

/-- The packs that a sequencer belongs to and that are being killed. -/
def State.dying (s : State) (q : Nat) : Bool := s.packs.any fun p => p.killing && p.seqrs.contains q

/-- The members of a bus's session: its transmitter and its listeners. -/
def State.members (s : State) (bus : Nat) : List Nat :=
  (if bus < 4 then [txOf bus] else []) ++ s.listeners bus

/-- The lines of a comb that have failed for good (R400). -/
def State.deadMask (s : State) (comb : Nat) : BitVec 64 :=
  (s.deadLines.filter fun d => d.1 == comb).foldl (fun a d => a ||| BitVec.ofNat 64 (2 ^ d.2)) 0

/-- What the gap says of a bus's lines and listeners (R411, R412): the sample of its comb, and the margins; nothing where OPTREQ
= 0 has taken effect (R423). -/
def State.sampleGap (s : State) (bus : Nat) (low : BitVec 64) (margins : List (Nat × Nat)) : State :=
  let comb := (s.bus bus).comb
  if (s.bus bus).off then s
  else
    let s1 := if bus < 4 then s.sampleLines comb low else s
    let s2 := if bus < 4 ∧ 8 ≤ ((List.range 64).filter fun i => low.getLsbD i).length then s1.loseComb comb else s1
    s2.sampleMargins bus margins

/-- The frame in flight where members of the session are saved (R266): on a bus, the frame is discarded; on an import port, the
windows of the tiles that are saved. -/
def State.savedFlight (s : State) (bus : Nat) (lost : BitVec 64) (margins : List (Nat × Nat)) : State :=
  let stops := (s.members bus).filter fun q => (s.seqr q).stop && !s.dying q
  if stops.isEmpty then s.frameEnds bus lost margins
  else if bus < 4 then s.discardFlight bus true
  else (s.discardAt ((s.windowsOf bus).filter stops.contains)).frameEnds bus lost margins

/-- Export port d sends the light of bus d: its gap, stamped with NOW, and the frame in flight (R396, R397). -/
def State.sendLight (s : State) (bus : Nat) : State :=
  let b := s.bus bus
  if s.cfield (0x9080 + 8 * bus) 63 63 = 0 ∨ b.lost ∨ b.off then s
  else
    let x : Export := { module := s.module, bus := bus, number := b.frame, stamp := s.now.toNat, frame := b.flight }
    { s with exports := tset s.exports bus x }

/-- The sequencers of a session that are to stop or to hold have reached the boundary at which they do (R363, R379). -/
def State.comeToRest (s : State) (bus : Nat) : State :=
  (s.members bus).foldl (fun a q =>
    let x := a.seqr q
    if x.stop || x.halt then a.setSeqr q { x with rests := true } else a) s

/-- FRAME_BOUNDARY: a bus reaches the end of a gap (R251, R308). In order: the samples of the gap, a failed comb or the
frame's end, sequencers that stop, registrations, the admission of the next frame, and the light of an export port. The rows lost
are those whose lines were low as the frame began, and those that the world reports as low during it (R262, R412). -/
def execFrameBoundary (s : State) : Out :=
  match s.ev with
  | some (.frameBoundary bus low0 lost0 margins) =>
    let comb := (s.bus bus).comb
    let dead := s.deadMask comb
    let lost : BitVec 64 := if bus < 4 then s.creg (0x8880 + 8 * comb) ||| lost0 ||| dead else 0
    let s1 := s.sampleGap bus (low0 ||| dead) margins
    let s2 := match s1.combBoundary bus with
      | some a => a
      | none => s1.savedFlight bus lost margins
    let s3 := (s2.members bus).foldl (fun a q => if a.dying q then a.stopSeqr q else a) s2
    let s4 := ((s3.turnover bus).finishTx bus).comeToRest bus
    .next (if bus < 4 then (s4.admission bus).sendLight bus else s4)
  | _ => notNow "FRAME_BOUNDARY"

/-! ### Accumulation (R254, R259, R272) -/

/-- The largest and smallest exponents of the lines without NaN; free values where there are none (R272). -/
def exponents (n k : Nat) (ls : List Line) : Nat × Nat :=
  match (ls.filter fun l => !l.nan).map (·.x) with
  | [] => ((Config.freeByte (8 * n + k)).toNat, (Config.freeByte (8 * n + k + 1)).toNat)
  | x :: xs => (xs.foldl max x, xs.foldl min x)

/-- The counts that a window reports (R272, R273). -/
structure Tally where
  promo : Nat
  sat : Nat
  flusha : Nat
  flushb : Nat
  nana : Nat
  nanb : Nat
  flags : Nat
  deriving DecidableEq, Repr

/-- The status record of a window (R272). The margin and the exponents of a missed window, which the spec does not give,
are free values. -/
def statusRecord (w : Window) (n : Nat) (windex : BitVec 32) (t : Tally) (act wt : List Line) : List Byte :=
  let number := (w.frame.map (·.number)).getD 0
  let degr := w.missed || w.lost != 0
  let a := exponents n 2 (if w.missed then [] else act)
  let b := exponents n 4 (if w.missed then [] else wt)
  let margin := if w.missed ∧ w.alarm = false then
      (Config.freeByte (8 * n)).toNat + 256 * (Config.freeByte (8 * n + 1)).toNat
    else w.margin
  slice (natLe 4 number.toNat ++ natLe 4 windex.toNat ++ natLe 1 w.conf.acc ++ natLe 1 w.conf.g
    ++ natLe 1 (boolNat w.conf.mode + 2 * boolNat w.rerun + 4 * boolNat w.missed + 8 * boolNat w.alarm + 16 * boolNat degr)
    ++ natLe 1 0 ++ natLe 2 margin ++ natLe 2 w.conf.wd ++ natLe 8 w.lost.toNat ++ natLe 2 t.promo ++ natLe 2 t.sat
    ++ natLe 2 t.flusha ++ natLe 2 t.flushb ++ natLe 2 t.nana ++ natLe 2 t.nanb
    ++ natLe 1 a.1 ++ natLe 1 b.1 ++ natLe 1 a.2 ++ natLe 1 b.2) 0 64

/-- What becomes of a window's status record (R272): written and its entry marked, or a page that is held or fails. -/
def State.writeStatus (s : State) (t : Nat) (bs : List Byte) : Wrote :=
  let x := s.seqr t
  match x.str with
  | none => .done s
  | some key =>
    match s.engineWrite (x.agent t) ((s.ring key).entry x.stq.toNat) bs with
    | .done s1 =>
      .done ((s1.prefetch (x.agent t) ((s.ring key).entry (x.stq + 1).toNat) .store).ringMark key x.stq.toNat 1)
    | w => w

/-- The window's effect on its sequencer and ring (R254, R263, R273); a program whose end waited for it ends. -/
def State.closeWindow (s : State) (t : Nat) (w : Window) (k : Tally) : State :=
  let x := s.seqr t
  let d := x.sdone
  let y := if w.missed || w.lost != 0 then x.degraded else x
  let e := y.sdone
  let s1 := s.setSeqr t { y with
    closed := x.closed.tail, hold := none, windex := x.windex + 1, inq := if w.keep then x.inq else x.inq + 1
    stq := if x.str.isSome then x.stq + 1 else x.stq
    sdone := { e with
      frames := d.frames + boolNat (!w.missed), flags := d.flags ||| BitVec.ofNat 5 k.flags
      sat := d.sat || decide (0 < k.sat), promo := d.promo || decide (0 < k.promo)
      flush := d.flush || decide (0 < k.flusha + k.flushb), nansc := d.nansc || decide (0 < k.nana + k.nanb)
      anyRun := true, allRef := d.allRef && w.conf.mode } }
  let s2 := if w.keep then s1 else s1.ringFree w.ring 1
  match x.ending with
  | some r => if x.closed.tail.isEmpty then s2.endNow t r else s2
  | none => s2

/-- The accumulation of a tile's window (R259); the page of the status record's entry may be held. -/
def State.accumulateWindow (s : State) (t : Nat) (w : Window) : State :=
  let x := s.seqr t
  let n := s.freeCtr
  let act := if w.missed then [] else (w.frame.map Frame.lines).getD []
  let wt := if w.missed then [] else w.lines
  let rs := w.receivers act wt ((w.frame.map (·.fmt)).getD 0) (s.accSet t w.conf.acc)
  let k : Tally :=
    { promo := (rs.filter (·.promo)).length, sat := (rs.filter (·.sat)).length
      flusha := (act.map (·.flushed)).foldl (· + ·) 0, flushb := (wt.map (·.flushed)).foldl (· + ·) 0
      nana := (act.filter (·.nan)).length, nanb := (wt.filter (·.nan)).length
      flags := rs.foldl (fun a r => a ||| r.flags) 0 }
  let va := (x.str.map fun key => (s.ring key).entry x.stq.toNat).getD 0
  match s.writeStatus t (statusRecord w n x.windex k act wt) with
  | .away => s.setSeqr t { x with hold := some (s.awayHold (x.agent t) va) }
  | .held =>
    match s.keepHold (x.agent t) x.hold va with
    | some h => s.setSeqr t { x with hold := some h }
    | none => s.endNow t (heldFail va).result
  | .fail f =>
    let s1 := (s.stick f.hole).endNow t f.result
    match x.str with
    | some key => s1.ringMark key x.stq.toNat 2
    | none => s1
  | .done s1 =>
    let s2 := { s1 with freeCtr := n + 1 }
    let s3 := if w.missed then s2 else s2.setAccSet t w.conf.acc (rs.map fun r => BitVec.ofNat 32 r.acc)
    s3.closeWindow t w k

/-- ACCUMULATION: the oldest window of a tile that is over is accumulated, or, where it was missed, reported (R259, R267). -/
def execAccumulation (s : State) : Out :=
  match s.ev with
  | some (.accumulation t) =>
    let x := s.seqr t
    match x.closed with
    | w :: _ => if s.statusRoom x 0 && s.retries x.hold then .next (s.accumulateWindow t w) else notNow "ACCUMULATION"
    | [] => notNow "ACCUMULATION"
  | _ => notNow "ACCUMULATION"

/-! ### Import (R267, R297, R396) -/

/-- A window of an import listener is missed (R267). -/
def State.missWindow (s : State) (t port : Nat) (number : BitVec 32) (alarm : Bool) : State :=
  let x := s.seqr t
  match x.run with
  | none => s.setSeqr t { x with late := x.late ++ [(number, alarm)] }
  | some w =>
    let f : Frame := { number := number, run := 0, wd := 0, fmt := 0, scm := 0, scx := 0, bytes := [], bad := false }
    let v := { w with bus := 4 + port, ring := x.inr.getD 0, q := x.cursor, frame := some f, missed := true, alarm := alarm
                      lost := 0 }
    s.setSeqr t ({ x with run := none, hold := none, conf := { x.conf with upc := x.conf.upc + 1 } }.close v)

/-- IMPORT_FRAME: a frame's first data symbol arrives at an import port (R267, R396, R297). -/
def execImportFrame (s : State) : Out :=
  match s.ev with
  | some (.importFrame p) =>
    let off := 0x90A0 + 8 * p.port
    let sel := 4 + p.port
    let b := s.bus sel
    if s.cfield off 63 63 = 0 ∨ b.flight.isSome then notNow "IMPORT_FRAME"
    else
      let matched := s.cfield off 49 48 = p.bus ∧ s.cfield off 47 32 = p.module
      let s1 := if matched then s else ((s.setCfield off 62 62 0).count 5).health 0x07 p.port (p.bus * 2 ^ 48 + p.module * 2 ^ 32) 0
      let number : BitVec 32 := BitVec.ofNat 32 p.frame
      let f : Frame := { number := number, run := 0, wd := p.wd, fmt := p.fmt, scm := 0, scx := 0, bytes := p.entry, bad := false }
      let drift := ((p.delay : Int) - s1.cfield off 27 16).natAbs
      let alarm := decide (s1.cfield off 11 0 < drift)
      let up := s1.cfield off 62 62 = 1
      let ls := s1.listeners sel
      let s2 := { s1 with arrivals := tset s1.arrivals p.port p.delay }.setBus sel { b with frame := number + 1, flight := some f }
      .next (ls.foldl (fun a t =>
        if up ∧ alarm = false ∧ a.importReady t = true then
          let c := a.takeFrame t sel f
          let x := c.seqr t
          match x.busy with
          | some w => c.setSeqr t { x with busy := some { w with lost := p.lost } }
          | none => c
        else
          let c := if up ∧ alarm = true then a.countAlarm t else a
          c.missWindow t p.port number (decide up && alarm)) s2)
  | _ => notNow "IMPORT_FRAME"

/-- COMB_LOSS: a comb fails (R265, R399). -/
def execCombLoss (s : State) : Out :=
  match s.ev with
  | some (.combLoss comb) => .next (s.loseComb comb)
  | _ => notNow "COMB_LOSS"

/-- What reaches an import port changes (R396): UP holds while there is light, the source matches and the delay lies in
range. -/
def execImportLight (s : State) : Out :=
  match s.ev with
  | some (.importLight port module bus delay light) =>
    let off := 0x90A0 + 8 * port
    let matched := s.cfield off 49 48 = bus ∧ s.cfield off 47 32 = module
    let up := light && decide matched && decide (delay ≤ 4095) && s.cfield off 63 63 == 1
    let s1 := { s with arrivals := tset s.arrivals port delay }.setCfield off 62 62 (boolNat up)
    .next (if light ∧ ¬ matched ∧ s.cfield off 63 63 = 1 then
        (s1.count 5).health 0x07 port (bus * 2 ^ 48 + module * 2 ^ 32) 0
      else s1)
  | _ => notNow "IMPORT_LIGHT"

end Sys2Proof.Machine
end

