-- ==== Sys2Proof/Machine/Stream.lean ====
section
/-! DEFINITION. Stream programs (spec/10 R242-R254, R269-R273) and the commands that start them (spec/09 R239-R241, spec/23
R397). A stream word acts on the sequencer whose turn it is. -/

namespace Sys2Proof.Machine

/-! ### The start of a program (R243, R244) -/

/-- The parameter block that 128 bytes hold; none where a reserved field is not zero. -/
def streamParam (bs : List Byte) : Option SParam :=
  let w := fun off => (BitVec.ofNat 64 (fieldAt bs off 8) : Word)
  if (slice bs 0x14 4).all (· == 0) && (slice bs 0x48 56).all (· == 0) then
    some { obase := w 0, ostep := w 8, opitch := fieldAt bs 0x10 4, start := fieldAt bs 0x18 8,
           lcinit := tabulate 4 fun k => fieldAt bs (0x20 + 4 * k) 4, phaser := w 0x30, srkey := w 0x38, srctr := w 0x40 }
  else none

/-- The state of a sequencer as its program starts, under a number of its own; the registration stays (R243). `own` is the pack,
and the core in it, in whose pool the phaser lies. -/
def Seqr.start (x : Seqr) (c : SCmd) (p : SParam) (number : Nat) (own : Option (Nat × Nat)) : Seqr :=
  { x with cmd := some { c with started := true, number := number }, par := p, conf := startConf p.lcinit c.ref, inr := none,
           inq := 0, str := none, stq := 0, windex := 0, optr := p.obase, dcnt := 0, sdone := startDone, wnow := 0, run := none,
           busy := none, closed := [], ending := none, again := false, row := 0, logged := [], logging := [], barAt := own,
           drainErr := none, stalled := false, hold := none }

/-- A sequencer waits at an address on a held page, or its program ends with HELD (R335). -/
def State.seqHold (s : State) (q : Nat) (va : Word) : State :=
  let x := s.seqr q
  match s.keepHold (x.agent q) x.hold va with
  | some h => s.setSeqr q { x with hold := some h }
  | none => s.endFail q (heldFail va)

/-- Whether an address lies outside device memory; on a held page, its leaf says where it lies (R239). -/
def State.outsideDevice (s : State) (ag : Agent) (va : Word) : Bool :=
  isLocal va ||
    match s.beyond ag va with
    | .ok (.dev _) _ => false
    | .ok _ _ | .refused _ | .dead _ | .away | .hole _ => true
    | .held | .fail _ _ => false

/-- Whether a program address is refused before any word is read (R239). -/
def State.badProgram (s : State) (ag : Agent) (va : Word) : Bool := decide (va.toNat % 8 ≠ 0) || s.outsideDevice ag va

/-- Reads the parameter block and starts the program (R244): a block outside the SC domain is refused wherever its page leads, and
so is a program that no longer lies in device memory (R239). -/
def State.startProgram (s : State) (q : Nat) (c : SCmd) : State :=
  let x := s.seqr q
  let ag := x.agent q
  if s.badProgram ag c.prog = true ∨ c.arg.toNat % 64 ≠ 0 ∨ (s.beyond ag c.arg).outside
    ∨ (s.beyond ag (c.arg + 127)).outside then s.endCode q Poison.refused
  else
    match s.engineRead ag c.arg 128 with
    | .data s0 bs =>
      let s1 := s0.fetchAhead ag c.arg 128 (some c.prog) .load
      match streamParam bs with
      | some p =>
        { s1 with nextTicket := s1.nextTicket + 1 }.setSeqr q (x.start c p s1.nextTicket (s1.poolOwner c.ctx p.phaser))
      | none => s1.endCode q Poison.refused
    | .fail s1 f => s1.endFail q f
    | .held va => s.seqHold q va
    | .away => s

/-! ### Words (R245-R248, R253, R254) -/

/-- The frame of a stream word: the sequencer whose turn it is must run a program. -/
def streamWord (body : Nat → Seqr → State → State) (s : State) : Out :=
  let x := s.seqr s.curq
  if x.cmd.isNone then .refused .noSequencer else .next (body s.curq x s)

/-- A word that sets the configuration and advances UPC (R246, R247). -/
def confWord (ok : Bool) (f : SConf → SConf) : State → Out :=
  streamWord fun q x s =>
    if ok then s.setSeqr q { x with conf := f { x.conf with upc := x.conf.upc + 1 } } else s.endCode q Poison.refused

/-- Loop counter l. -/
def SConf.counter (c : SConf) (l : Nat) : Nat := c.lc.getD l 0

/-- JMP (R246). -/
def execSJmp (t : BitVec 16) (s : State) : Out :=
  streamWord (fun q x s => s.setSeqr q { x with conf := { x.conf with upc := t.toNat } }) s

/-- LOOP (R246). -/
def execSLoop (l : BitVec 2) (t : BitVec 16) (s : State) : Out :=
  streamWord (fun q x s =>
    let n := x.conf.counter l.toNat
    let c := if n = 0 then { x.conf with upc := x.conf.upc + 1 }
      else { x.conf with lc := x.conf.lc.set l.toNat (n - 1), upc := t.toNat }
    s.setSeqr q { x with conf := c }) s

/-- SETLC (R246). -/
def execSSetlc (l : BitVec 2) (imm : BitVec 24) (s : State) : Out :=
  confWord true (fun c => { c with lc := c.lc.set l.toNat imm.toNat }) s

/-- BRZ (R246). -/
def execSBrz (l : BitVec 2) (t : BitVec 16) (s : State) : Out :=
  streamWord (fun q x s =>
    let upc := if x.conf.counter l.toNat = 0 then t.toNat else x.conf.upc + 1
    s.setSeqr q { x with conf := { x.conf with upc := upc } }) s

/-- WNOW (R253). -/
def execSWnow (imm : BitVec 24) (s : State) : Out :=
  streamWord (fun q x s =>
    s.setSeqr q { x with wnow := max x.wnow (x.par.start + imm.toNat * Config.ns)
                         conf := { x.conf with upc := x.conf.upc + 1 } }) s

/-- WIN (R247). -/
def execSWin (w : BitVec 8) (s : State) : Out :=
  confWord (decide (2 ≤ w.toNat) && decide (w.toNat ≤ 128)) (fun c => { c with wd := w.toNat }) s

/-- GAIN (R247). -/
def execSGain (g : BitVec 5) (s : State) : Out :=
  confWord (decide (8 ≤ g.toNat) && decide (g.toNat ≤ 26)) (fun c => { c with g := g.toNat }) s

/-- FMT (R247). -/
def execSFmt (f : BitVec 2) (s : State) : Out := confWord (f != 3) (fun c => { c with fmt := f.toNat }) s

/-- FMT with A set (R247). -/
def execSFmtA (f : BitVec 2) (s : State) : Out := confWord true (fun c => { c with fmta := f.toNat }) s

/-- SCL (R247). -/
def execSScl (m : BitVec 1) (x : BitVec 8) (s : State) : Out :=
  confWord (m == 0 || x != 0xFF) (fun c => { c with scm := m.toNat, scx := x.toNat }) s

/-- MODE (R260); in a program started with REF every window runs in REFMODE (R239). -/
def execSMode (f : BitVec 1) (s : State) : Out :=
  let ref := (s.seqr s.curq).cmd.any (·.ref)
  confWord true (fun c => { c with mode := ref || f == 1 }) s

/-- ACC (R247). -/
def execSAcc (n : BitVec 2) (s : State) : Out := confWord true (fun c => { c with acc := n.toNat }) s

/-- A word that waits until every window of the program has been accumulated (R247). -/
def waitingWord (body : Nat → Seqr → State → State) : State → Out :=
  streamWord fun q x s => if x.busy.isSome || !x.closed.isEmpty then s else body q x s

/-- A transmitter's program has sent frames that some listener has still to finish (R247, R253). -/
def Seqr.unheard (x : Seqr) : Bool := x.unfreed.any fun u => some (u.run / 2 ^ 32) == x.cmd.map (·.number)

/-- RING (R248); a transmitter's windows are those of its program's frames, which their listeners have still to finish (R247,
R253). A ring whose context holds a soft error poisons (R415). -/
def execSRing (role : BitVec 2) (core : BitVec 7) (ring : BitVec 4) (s : State) : Out :=
  waitingWord (fun q x s =>
    if x.unheard then s
    else
    let key := x.cmd.bind fun c => s.ringOf c.ctx (BitVec.ofNat 64 (core.toNat * 16 + ring.toNat)) false
    let y := { x with conf := { x.conf with upc := x.conf.upc + 1 } }
    match key with
    | none => s.endCode q Poison.refused
    | some k =>
      if s.ringBad k then s.endCode q Poison.soft
      else if role = 0 then s.setSeqr q { y with inr := some k, inq := (s.ring k).free }
      else if role = 1 ∧ isTx q = false then s.setSeqr q { y with str := some k, stq := (s.ring k).fill }
      else s.endCode q Poison.refused) s

/-- SELB (R269): the tile leaves its session and joins the selector's, both at frame boundaries. -/
def execSSelb (sel : BitVec 3) (s : State) : Out :=
  waitingWord (fun q x s =>
    if x.join.isSome ∨ x.leaving = true then s
    else
      match s.selectable sel.toNat ((x.cmd.map fun c => c.ctx.pack / 2 ^ 24).getD 0) with
      | some code => s.endCode q code
      | none => s.setSeqr q { x with leaving := x.sel.isSome
                                     join := some { sel := sel.toNat, since := s.now.toNat, fut := none } }) s

/-- ACLR (R247). -/
def execSAclr (n : BitVec 2) (s : State) : Out :=
  waitingWord (fun q x s =>
    (s.clearAccSet q n.toNat).setSeqr q { x with conf := { x.conf with upc := x.conf.upc + 1 } }) s

/-- ORST (R247). -/
def execSOrst (s : State) : Out :=
  streamWord (fun q x s =>
    s.setSeqr q { x with optr := x.par.obase, conf := { x.conf with upc := x.conf.upc + 1 } }) s

/-- Whether a RUN is refused: no ring, an entry too small, or, for a tile, no registration or REFMODE on an import port
(R249, R254, R260). -/
def State.runRefused (s : State) (q : Nat) (x : Seqr) : Bool :=
  (match x.inr with
    | none => true
    | some key => decide ((s.ring key).eb < runBytes q x.conf))
    || (!isTx q &&
      match x.sel with
      | none => true
      | some sel => decide (4 ≤ sel) && x.conf.mode)

/-- Whether the bus of a sequencer is lost (R265). -/
def State.busLost (s : State) (q : Nat) (x : Seqr) : Bool :=
  match (if isTx q then some (q - 32) else x.sel.filter (· < 4)) with
  | some b => (s.bus b).lost || (s.bus b).off
  | none => false

/-- RUN (R253, R254, R267). -/
def execSRun (k : BitVec 1) (s : State) : Out :=
  streamWord (fun q x s =>
    if s.runRefused q x then s.endCode q Poison.refused
    else if s.busLost q x then s.endCode q Poison.laser
    else
      let w : Window := { conf := x.conf, optr := x.optr, keep := k == 1, bus := 0, ring := 0, q := 0, entry := [],
                          frame := none, lost := 0, margin := 0, alarm := false, rerun := false, missed := false,
                          key := 0, cal := false }
      let s1 := s.setSeqr q { x with run := some w }
      match x.late, x.sel with
      | (number, alarm) :: rest, some sel =>
        if x.busy.isSome then s
        else (s1.setSeqr q { x with run := some w, late := rest }).missWindow q (sel - 4) number alarm
      | _, _ => s1.testRun q) s

/-- The flags and FRAMES to UPC of the completion word (R273). -/
def Seqr.completion (x : Seqr) (tx : Bool) : Nat :=
  let d := x.sdone
  let rx := fun b => boolNat (b && !tx)
  min d.frames 0xFFFFFF * 2 ^ 40 + (if tx then 0 else d.flags.toNat) * 2 ^ 32 + boolNat d.degr * 2 ^ 31 + rx d.sat * 2 ^ 30
    + rx d.promo * 2 ^ 29 + boolNat d.flush * 2 ^ 28 + boolNat d.nansc * 2 ^ 27 + rx d.skew * 2 ^ 26
    + rx (d.anyRun && d.allRef) * 2 ^ 25 + (if tx then 0 else min d.drains 0xFF) * 2 ^ 16
    + x.conf.upc % 65536

/-- Whether a program's region has the optical policy POISON (R263). -/
def State.opticalPoison (s : State) (x : Seqr) : Bool :=
  x.cmd.any fun c => (s.regionOf c.ctx.pack).any (·.poison)

/-- END, once every window of the program has been accumulated (R246, R263, R273). -/
def execSEnd (s : State) : Out :=
  waitingWord (fun q x s =>
    match x.sdone.firstDeg with
    | some w =>
      if isTx q = false ∧ s.opticalPoison x = true then s.endPoison q Poison.laser 0 (w.setWidth 64) 0
      else s.endOne q (fullS (x.completion (isTx q)))
    | none => s.endOne q (fullS (x.completion (isTx q)))) s

/-- A word with no opcode of the sequencer's side (R245). -/
def execBadStreamOp (_w : BitVec 32) (s : State) : Out := streamWord (fun q _ s => s.endCode q Poison.stream) s

/-! ### Drains (R270, R271) -/

/-- The type of a DRAIN. -/
def drainTy (t : Nat) : Ty := if t = 0 then .f32 else if t = 1 then .bf16 else .f16

/-- One element of a DRAIN: its encoding and flags (R270). -/
def drainElem (ty : Ty) (rm : Rm) (x : Seqr) (e : Nat) (acc : BitVec 32) : Nat × Nat :=
  if ty = .f32 then (acc.toNat, 0)
  else
    let rb := bits (hash x.par.srkey (x.par.srctr + BitVec.ofNat 64 (8192 * x.dcnt.toNat + e))) 31 0
    tyRound ty rm rb (fp32.val acc.toNat).exact

/-- The rows' addresses. -/
def Seqr.rowAddr (x : Seqr) (i : Nat) : Word := x.optr + BitVec.ofNat 64 (i * x.par.opitch)

/-- Whether some row lies outside the SC domain (R270); on a held page, where its leaf says that it lies. -/
def State.rowsOutside (s : State) (q : Nat) (x : Seqr) (n : Nat) : Bool :=
  (List.range 64).any fun i =>
    (segmentsOf (x.rowAddr i) (n / 4096 + 2) n).any fun g =>
      ((s.beyondHold (x.agent q) g.1 .store).getD (s.engineLocate (x.agent q) .store g.1)).outside

/-- Room in the trail of a sequencer's pack for n bytes; none while it must wait, which STALLS counts once (R375). -/
def State.seqRoom (s : State) (q : Nat) (n : Nat) : State × Bool :=
  let x := s.seqr q
  match s.admitEntry (x.cmd.bind fun c => s.trailOf c.ctx.pack) n with
  | .go s1 => (s1.setSeqr q { s1.seqr q with stalled := false }, true)
  | .stall s1 => (if x.stalled then s else s1.setSeqr q { x with stalled := true }, false)
  | .hold s1 => (s1, false)
  | .trap => (s, false)

/-- Writes the bytes of a row, page by page; `tr` names the trail that takes its old bytes, which it does not where they lie in
STG (R370, R371). -/
def State.putRow (s : State) (ag : Agent) (tr : Option Region) (gtid : Nat) (va : Word) (bs : List Byte) : State :=
  ((segmentsOf va (bs.length / 4096 + 2) bs.length).foldl (fun (a : State × List Byte) g =>
    match a.1.engineLocate ag .store g.1 with
    | .ok p e =>
      let b := a.1.touch e true
      (b.putBlocks (if b.staged p then none else tr) Kind.drain gtid g.1 p (a.2.take g.2) (g.2 / 256 + 2), a.2.drop g.2)
    | _ => (a.1, a.2.drop g.2)) (s, bs)).1

/-- Bytes of the trail entries of a row: one for every 256-byte block of it that lies outside STG (R369-R371). -/
def State.rowRoom (s : State) (ag : Agent) (va : Word) (n : Nat) : Nat :=
  ((segmentsOf va (n / 4096 + 2) n).map fun g =>
    match s.engineLocate ag .store g.1 with
    | .ok p _ => if s.staged p then 0 else 288 * blocksAt g.1.toNat g.2
    | _ => 0).foldl (· + ·) 0

/-- The BAR action of a drain: n bytes, or the FAULT setting (R271, R283). -/
inductive BarWay where | add (n : Nat) | fault
  deriving DecidableEq, Repr

/-- What the BAR action comes to. -/
inductive Barred where
  | done (s : State)
  | wait (s : State)
  | fail (code reason : Nat)
  deriving DecidableEq, Repr

/-- Takes the BAR action at a sequencer's PHASER; it is held while the phaser's pack is out (R271, R283, R335, R364). -/
def State.drainBar (s : State) (q : Nat) (w : BarWay) : Barred :=
  let x := s.seqr q
  let pack := (x.cmd.map fun c => c.ctx.pack).getD 0
  if s.awayPhaser x.barAt then .wait s
  else
  match s.phaserPlace (x.agent q) x.barAt x.par.phaser with
  | .ok p e =>
    if !p.sc then .fail Poison.fault 0
    else if (s.firstMark p 0 32).isSome then .fail Poison.soft 0
    else
      let (s1, room) := s.seqRoom q (if s.staged p then 0 else 288)
      if room then
        let s2 := s1.touch e (!(s1.ph p).broken)
        let tr := if s2.staged p then none else s2.trailOf pack
        .done (match w with
          | .add n => s2.phAdd tr (x.agent q).asid x.par.phaser p n
          | .fault => s2.phFault tr (x.agent q).asid x.par.phaser p)
      else .wait s1
  | .held =>
    match s.keepHold (x.agent q) x.hold x.par.phaser with
    | some h => .wait (s.setSeqr q { x with hold := some h })
    | none => .fail Poison.fault Reason.held
  | .away => .wait s
  | .fail _ reason => .fail Poison.fault reason
  | _ => .fail Poison.fault 0

/-- The flip that a BAR action of a sequencer has caused waits for room in a trail (R375). -/
def State.barFlips (s : State) (q : Nat) : Bool :=
  let x := s.seqr q
  match s.phaserPlace (x.agent q) x.barAt x.par.phaser with
  | .ok p _ => s.flipWaits p
  | _ => false

/-- A failed drain: under BAR the phaser's FAULT first, with the flip that it causes, then the end of the program (R271, R375). -/
def State.drainFail (s : State) (q : Nat) (bar : Bool) (code : Nat) (addr : Word) (reason : Nat) : State :=
  if !bar then s.endPoison q code addr 0 reason
  else
    match s.drainBar q .fault with
    | .done s1 =>
      if s1.barFlips q then s1.setSeqr q { s1.seqr q with row := 66, drainErr := some (code, addr, reason) }
      else s1.endPoison q code addr 0 reason
    | .wait s1 => s1.setSeqr q { s1.seqr q with drainErr := some (code, addr, reason) }
    | .fail _ _ => s.endPoison q code addr 0 reason

/-- A DRAIN under way waits on a held page, or fails with HELD. -/
def State.drainHold (s : State) (q : Nat) (bar : Bool) (va : Word) : State :=
  let x := s.seqr q
  match s.keepHold (x.agent q) x.hold va with
  | some h => s.setSeqr q { x with hold := some h }
  | none => s.drainFail q bar Poison.fault va Reason.held

/-- Writes the row under way (R270, R371). -/
def State.drainRow (s : State) (q : Nat) (bar : Bool) (rm : Rm) (ty : Ty) (set : Nat) : State :=
  let x := s.seqr q
  let n := 128 * tyBytes ty
  let ag := x.agent q
  let va := x.rowAddr x.row
  match s.paged ag .store va n with
  | .fail f => (s.stick f.hole).drainFail q bar f.code f.addr f.reason
  | .held a => s.drainHold q bar a
  | .away => s
  | .ok =>
    if s.accBad q set x.row then s.drainFail q bar Poison.soft 0 0
    else
      let tr := if x.logged.contains (va.toNat, n) then none else x.cmd.bind fun c => s.trailOf c.ctx.pack
      let (s1, room) := if tr.isSome then s.seqRoom q (s.rowRoom ag va n) else (s, true)
      if !room then s1
      else
        let gtid := (x.cmd.map fun c => c.ctx.gtid).getD 0
        let acc := s1.accSet q set
        let es := tabulate 128 fun j => drainElem ty rm x (128 * x.row + j) (acc.getD (128 * x.row + j) 0)
        let s2 := s1.putRow ag tr gtid va (es.flatMap fun e => natLe (tyBytes ty) e.1)
        let s3 := if x.row < 63 then s2.prefetch ag (x.rowAddr (x.row + 1)) .store else s2
        let y := s3.seqr q
        s3.setSeqr q { y with
          row := x.row + 1, hold := none, logging := if tr.isSome then (va.toNat, n) :: x.logging else x.logging
          sdone := { x.sdone with flags := x.sdone.flags ||| BitVec.ofNat 5 (orFlags es) } }

/-- After the rows: the zeroing, and the advance of OPTR and DCNT (R270). -/
def State.drainDone (s : State) (q : Nat) (bar z : Bool) (set : Nat) : State :=
  let s1 := if z then s.clearAccSet q set else s
  let x := s1.seqr q
  let y := { x with optr := x.optr + x.par.ostep, dcnt := x.dcnt + 1, logged := x.logging ++ x.logged, logging := []
                    sdone := { x.sdone with drains := x.sdone.drains + 1 } }
  s1.setSeqr q (if bar then { y with row := 65 } else { y with row := 0, conf := { x.conf with upc := x.conf.upc + 1 } })

/-- The end of a DRAIN whose BAR action is made: the next word, or, of one that has failed, the end of the program; the flip
that the action caused comes before it (R271, R375). -/
def State.drainOver (s : State) (q : Nat) : State :=
  let x := s.seqr q
  if s.barFlips q then s.setSeqr q { x with row := 66, hold := none }
  else
    match x.drainErr with
    | some (code, addr, reason) => s.endPoison q code addr 0 reason
    | none => s.setSeqr q { x with row := 0, hold := none, conf := { x.conf with upc := x.conf.upc + 1 } }

/-- DRAIN: each turn writes one row, then the drain ends, then its BAR action is taken (R270, R271). -/
def execSDrain (bar z : BitVec 1) (rm ty : BitVec 3) (n : BitVec 2) (s : State) : Out :=
  waitingWord (fun q x s =>
    let b := bar == 1
    let t := drainTy ty.toNat
    if 2 < ty.toNat ∨ rm = 7 then s.endCode q Poison.refused
    else if x.row = 66 then s.drainOver q
    else
      match x.drainErr with
      | some (code, addr, reason) => s.drainFail q b code addr reason
      | none =>
        if x.row = 65 then
          match s.drainBar q (.add (8192 * tyBytes t)) with
          | .done s1 => s1.drainOver q
          | .wait s1 => s1
          | .fail code reason => s.endPoison q code x.par.phaser 0 reason
        else if x.row = 64 then s.drainDone q b (z == 1) n.toNat
        else if x.row = 0 ∧ b = true ∧ ¬(bits x.par.phaser 4 0 = 0 ∧ s.liesSc (x.agent q) x.par.phaser = true) then
          s.endCode q Poison.refused
        else if x.row = 0 ∧ s.rowsOutside q x (128 * tyBytes t) = true then
          s.drainFail q b Poison.refused 0 Reason.refused
        else s.drainRow q b (rmOf rm) t n.toNat) s

/-! ### Commands (R239-R241) -/

/-- A program stands in line for a sequencer; an idle one takes it at once (R239). -/
def State.enqueue (s : State) (q : Nat) (c : SCmd) : State :=
  let x := s.seqr q
  if x.cmd.isNone then s.setSeqr q { x with cmd := some c, row := 0, hold := none }
  else s.setSeqr q { x with line := x.line ++ [c] }


/-- STRM.GO to a sequencer (R239): `mine` says whether the issuer's pack has it, and `fence` whether a fence entry is
written. Neither its program nor its parameter block is a range that WATCH compares (DESIGN CHOICE, notes/assumptions/47.md: R378
speaks of the source and destination ranges that a command's operands name, and these operands name addresses). -/
def strmGo (cls : Nat) (q : Nat) (mine : Pack → Bool) (fence : Bool) (g : Guard) (d a b : Reg6) (ref : Bool) (s : State) :
    Out :=
  control g 8 [rs a, rs b] [rs d] (fun s =>
    let t := s.thr
    if t.dclass && !ref then s.trap (.plain .determinism)
    else
      s.checked (if fence && (s.trailOf t.pack).isSome then 64 else 0) false false [] fun s =>
        s.produce (rs d) cls allBytes 8 fun tag ctx s =>
          if !((s.pack? ctx.pack).any mine) || s.badProgram ctx.agent (t.sreg a) then s.fly tag ctx (poisonOf Poison.refused)
          else
            (match s.trailOf ctx.pack with
              | some r => if fence then s.logFence r 6 0 ctx.gtid else s
              | none => s).enqueue q { tag := tag, ctx := ctx, prog := t.sreg a, arg := t.sreg b, ref := ref,
                                       started := false, number := 0 }) s

/-- STRM.GO to a tile (R239). -/
def execStrmGoTile (g : Guard) (d a b : Reg6) (ref : Bool) (tile : BitVec 5) (s : State) : Out :=
  strmGo Cls.rx tile.toNat (fun p => p.tiles.contains tile.toNat) false g d a b ref s

/-- STRM.GO to a bus (R239). -/
def execStrmGoBus (g : Guard) (d a b : Reg6) (ref : Bool) (bus : BitVec 2) (s : State) : Out :=
  strmGo Cls.tx (txOf bus.toNat) (fun p => p.buses.contains bus.toNat) true g d a b ref s

/-- STRM.REG (R240, R250). -/
def execStrmReg (g : Guard) (d a : Reg6) (tile : BitVec 5) (s : State) : Out :=
  control g 8 [rs a] [rs d] (fun s =>
    let sel := bits (s.thr.sreg a) 2 0
    s.produce (rs d) Cls.rx allBytes 8 fun tag ctx s =>
      let x := s.seqr tile.toNat
      if !((s.pack? ctx.pack).any fun p => p.tiles.contains tile.toNat) || x.sel.isSome || x.join.isSome || x.cmd.isSome then
        s.fly tag ctx (poisonOf Poison.refused)
      else
        match s.selectable sel (ctx.pack / 2 ^ 24) with
        | some code => s.fly tag ctx (poisonOf code)
        | none =>
          s.setSeqr tile.toNat { x with join := some { sel := sel, since := s.now.toNat, fut := some (tag, ctx) } }) s

/-- STRM.DEREG (R240). FRAME and BUS of a word with NONE = 1 are 0 (DESIGN CHOICE, notes/assumptions/53.md: R240 does not say). -/
def execStrmDereg (g : Guard) (d : Reg6) (tile : BitVec 5) (s : State) : Out :=
  control g 8 [] [rs d] (fun s =>
    s.produce (rs d) Cls.rx allBytes 8 fun tag ctx s =>
      let x := s.seqr tile.toNat
      if !((s.pack? ctx.pack).any fun p => p.tiles.contains tile.toNat) then s.fly tag ctx (poisonOf Poison.refused)
      else if x.sel.isNone then s.fly tag ctx (fullS (regWord 0 0 true))
      else s.setSeqr tile.toNat { x with leaving := true, leaves := x.leaves ++ [(tag, ctx)] }) s

/-- The alignment of an import port to its arrival delay (R397). -/
def State.alignPort (s : State) (tag : ITag) (ctx : Ctx) (port : Nat) : State :=
  let off := 0x90A0 + 8 * port
  let delay := tget 0 s.arrivals port
  let slack := min delay (4095 - delay)
  if 4095 < delay then (s.setCfield off 62 62 0).fly tag ctx (poisonOf Poison.dead)
  else ((s.setCfield off 27 16 delay).setCfield off 11 0 slack).fly tag ctx (fullS (delay * 2 ^ 32 + slack * 2 ^ 16))

/-- LNK.ALIGN (R241, R397). -/
def execLnkAlign (g : Guard) (d a : Reg6) (s : State) : Out :=
  control g 8 [rs a] [rs d] (fun s =>
    let port := bits (s.thr.sreg a) 1 0
    s.checked (if (s.trailOf s.thr.pack).isSome then 64 else 0) false false [] fun s =>
      s.produce (rs d) Cls.link allBytes 8 fun tag ctx s =>
        if !((s.regionOf ctx.pack).any (·.link)) || s.cfield (0x90A0 + 8 * port) 63 63 == 0 then
          s.fly tag ctx (poisonOf Poison.refused)
        else
          let s1 := match s.trailOf ctx.pack with
            | some r => s.logFence r 7 0 ctx.gtid
            | none => s
          if s1.cfield (0x90A0 + 8 * port) 62 62 = 0 ∧ tget 0 s1.arrivals port ≤ 4095 then
            s1.fly tag ctx (poisonOf Poison.dead)
          else s1.alignPort tag ctx port) s

/-! ### The turn of a sequencer (R242) -/

/-- What the turn of a sequencer comes to: a word to execute, or a state with nothing to execute. -/
inductive SeqTurn where
  | word (i : Instr) (s : State)
  | done (s : State)
  deriving DecidableEq, Repr

/-- Reads the word at the micro-PC; a DRAIN under way goes on (R242). -/
def State.streamFetch (s : State) (q : Nat) (c : SCmd) : SeqTurn :=
  let x := s.seqr q
  let va := c.prog + BitVec.ofNat 64 (4 * x.conf.upc)
  if x.row ≠ 0 ∨ x.drainErr.isSome then .word (decodeStreamOrFate (isTx q) x.word) s
  else if 0xFFFF < x.conf.upc ∨ s.outsideDevice (x.agent q) va = true then .done (s.endCode q Poison.refused)
  else
    match s.engineRead (x.agent q) va 4 with
    | .data s0 bs =>
      let s1 := s0.fetchAhead (x.agent q) va (4 * (65536 - x.conf.upc)) none .load
      .word (decodeStreamOrFate (isTx q) (leNat bs)) 
        (s1.setSeqr q { s1.seqr q with word := leNat bs, hold := x.hold.filter fun h => h.va != va })
    | .fail s1 f => .done (s1.endFail q f)
    | .held a => .done (s.seqHold q a)
    | .away => .done s

/-- The turn of sequencer q: it starts its program, tests a RUN that waits, or executes its next word. -/
def State.turnStream (s0 : State) (q : Nat) : SeqTurn :=
  let s := { s0 with curq := q }
  let x := s.seqr q
  match x.cmd with
  | none => .done s
  | some c =>
    if !x.goes || !s.retries x.hold || x.join.any (·.fut.isNone) then .done s
    else if !c.started then .done (s.startProgram q c)
    else
      match x.run with
      | some w => .done (if w.frame.isNone then s.testRun q else s)
      | none => s.streamFetch q c

end Sys2Proof.Machine
end

