-- ==== Sys2Proof/Machine/Image.lean ====
section
/-! DEFINITION. The bytes in which a thread's state is saved, by a trail checkpoint (spec/21 R373) and by the kennel
(spec/20 R360, spec/02 R29). -/

namespace Sys2Proof.Machine

/-- The 2-bit state field (R29). -/
def stateCode : RegState → Nat
  | .full => 0
  | .pending _ => 1
  | .poisoned _ => 2

/-- The 64 bytes of STATE (R360). -/
def stateBytes (t : Thread) : List Byte :=
  natLe 36 ((List.range 144).foldl (fun a i => a + stateCode (t.rstate i) * 4 ^ i) 0) ++ List.replicate 28 0

/-- The register values: s0–s63, p0–p15, v0–v63 (R360, R373). -/
def valueBytes (t : Thread) : List Byte :=
  ((List.range 64).flatMap fun i => natLe 8 (t.value i).toNat)
    ++ ((List.range 16).flatMap fun i => natLe 8 (t.value (128 + i)).toNat)
    ++ ((List.range 64).flatMap fun i => natLe 256 (t.value (64 + i)).toNat)

/-- One registration in 16 bytes (R360). -/
def regBytes (r : Registration) : List Byte :=
  natLe 8 r.va.toNat ++ natLe 1 (boolNat r.sig + 2 * boolNat r.wait) ++ natLe 1 r.inc.toNat ++ natLe 2 0
    ++ natLe 4 r.arrived.toNat

/-- The eight registrations in 128 bytes. -/
def regsBytes (t : Thread) : List Byte := slice (t.regs.flatMap regBytes) 0 128

/-- FPRM to UTVEC, each a u64 (R360). -/
def controlBytes (t : Thread) : List Byte :=
  natLe 8 t.fprm.toNat ++ natLe 8 t.fpflags.toNat ++ natLe 8 t.seqdesc.toNat ++ natLe 8 t.seqmode.toNat
    ++ natLe 8 t.seqkey.toNat ++ natLe 8 t.frbase.toNat ++ natLe 8 t.utvec.toNat

/-- The outside-domain counters in the layout of R73. -/
def counterWord (t : Thread) : Nat := t.count.toNat * 2 ^ 32 + t.deadlink.toNat * 2 ^ 16 + t.refused.toNat

/-- The poison values of a checkpoint: 0 where a register is full (R373). -/
def poisonBytes (t : Thread) : List Byte :=
  (List.range 144).flatMap fun i =>
    natLe 4 (match t.rstate i with
      | .poisoned pv => pv.toNat
      | _ => 0)

/-- The body of a checkpoint; `pc` is that of the instruction after TMARK (R373). -/
def checkpoint (t : Thread) (pc : Word) : List Byte :=
  slice (natLe 8 pc.toNat ++ controlBytes t ++ natLe 8 (counterWord t) ++ natLe 8 t.nlaunch.toNat) 0 128
    ++ stateBytes t ++ poisonBytes t ++ valueBytes t ++ regsBytes t

/-- Registers, control registers and registrations read back from a checkpoint body (R373, R374). -/
def restoreCheckpoint (t : Thread) (bs : List Byte) : Thread :=
  let u := fun k => fieldAt bs (8 * k) 8
  let st := fieldAt bs 128 36
  let vals := 128 + 64 + 576
  let regs := slice bs (vals + 512 + 128 + 16384) 128
  { t with
    pc := BitVec.ofNat 64 (u 0), fprm := BitVec.ofNat 3 (u 1), fpflags := BitVec.ofNat 5 (u 2),
    seqdesc := BitVec.ofNat 64 (u 3), seqmode := BitVec.ofNat 64 (u 4), seqkey := BitVec.ofNat 64 (u 5),
    frbase := BitVec.ofNat 64 (u 6), utvec := BitVec.ofNat 64 (u 7),
    count := BitVec.ofNat 32 (u 8 / 2 ^ 32), deadlink := BitVec.ofNat 16 (u 8 / 2 ^ 16), refused := BitVec.ofNat 16 (u 8),
    nlaunch := BitVec.ofNat 32 (u 9)
    st := Vector.ofFn fun i : Fin 144 =>
      if st / 4 ^ i.val % 4 = 2 then .poisoned (BitVec.ofNat 32 (fieldAt bs (192 + 4 * i.val) 4)) else .full
    s := Vector.ofFn fun i : Fin 64 => BitVec.ofNat 64 (fieldAt bs (vals + 8 * i.val) 8)
    p := Vector.ofFn fun i : Fin 16 => BitVec.ofNat 64 (fieldAt bs (vals + 512 + 8 * i.val) 8)
    v := Vector.ofFn fun i : Fin 64 => BitVec.ofNat 2048 (fieldAt bs (vals + 640 + 256 * i.val) 256)
    regs := (tabulate 8 fun i =>
      ({ va := BitVec.ofNat 64 (fieldAt regs (16 * i) 8), sig := fieldAt regs (16 * i + 8) 1 % 2 == 1,
         wait := fieldAt regs (16 * i + 8) 1 / 2 % 2 == 1, inc := BitVec.ofNat 8 (fieldAt regs (16 * i + 9) 1),
         arrived := BitVec.ofNat 32 (fieldAt regs (16 * i + 12) 4) } : Registration)).filter fun r => r.va ≠ 0 }

end Sys2Proof.Machine
end

