-- ==== Sys2Proof/Machine/Sync.lean ====
section
/-! DEFINITION. Phaser instructions, semaphore waits and TMARK (spec/08 R201-R210, spec/13 R281-R288). -/

namespace Sys2Proof.Machine

/-- ACCESS_FAULT of a phaser that lies outside the SC domain, or whose bytes hold an uncorrectable soft error (R203). -/
def phaserFault (va : Word) (reason : Nat) : Fail := ⟨0x11, reason, va, true, none⟩

/-- The checks of the phaser forms other than PH.WAIT (R203): alignment, then the phaser's bytes. The form itself sets A, and D
where it changes the phaser (R334). Each form asks for R and W of its leaf, as an atomic does, whether or not it comes to change
the phaser (DESIGN CHOICE, notes/assumptions/44.md: R333 names no permission for them). -/
def State.withPhaser (s : State) (va : Word) (body : Place → Option TlbEntry → State → State) : State :=
  if bits va 4 0 ≠ 0 then s.trap (.misaligned va)
  else
    match s.locate (s.agentOf s.cur) va .rmw with
    | .ok p e =>
      if !p.sc then s.accessFault (phaserFault va Reason.refused)
      else
        match s.firstMark p 0 32 with
        | some k => s.accessFault (phaserFault (va + BitVec.ofNat 64 k) 0)
        | none => body p e s
    | .held => s.holdWait va
    | .away | .dead _ => s.accessFault (phaserFault va Reason.refused)
    | x =>
      match x.failure va with
      | some f => s.accessFault f
      | none => s

/-- The end of step 6 and the effect of a phaser form that changes the phaser where `acts` says so: room for its trail entry and
watchpoints, A and D, then the effect on the phaser and the thread (R186, R334). -/
def State.onPhaser (s : State) (va : Word) (p : Place) (e : Option TlbEntry) (acts : Bool) (effect : State → State) : State :=
  s.checked (if acts && !s.staged p then 288 else 0) true true [(va.toNat, 32)] fun s => (effect (s.touch e acts)).advance 4

/-- A phaser form that changes the phaser when `acts` holds of the thread and the phaser. -/
def phaserForm (g : Guard) (a : Reg6) (others : List Nat) (acts : State → Word → Place → Bool)
    (effect : State → Word → Place → State) (s : State) : Out :=
  control g 4 (rs a :: others) [] (fun s =>
    let va := s.thr.sreg a
    s.withPhaser va fun p e s => s.onPhaser va p e (acts s va p) fun s => effect s va p) s

/-- The trail of the current thread. -/
def State.curTrail (s : State) : Option Region := s.trailOf s.thr.pack

/-- A registration that is not stale, on a phaser that is not BROKEN. -/
def State.usable (s : State) (va : Word) (p : Place) : Option Registration :=
  if (s.ph p).broken then none else s.thr.liveReg va (s.ph p)

/-- Whether a role other than 0b00 changes the phaser: a role already held does not (R204). -/
def State.roleActs (s : State) (va : Word) (p : Place) (role : Nat) : Bool :=
  match s.usable va p with
  | some r => !(r.sig == (role % 2 == 1) && r.wait == (role / 2 == 1))
  | none => false

/-- PH.REG (R204): role 0b00 has no effect, and a ninth registration is ILLEGAL_OP, on a BROKEN phaser too (DESIGN CHOICE,
notes/assumptions/45.md: two of R204's points meet there). -/
def execPhReg (g : Guard) (a b : Reg6) (s : State) : Out :=
  control g 4 [rs a, rs b] [] (fun s =>
    let va := s.thr.sreg a
    let role := bits (s.thr.sreg b) 1 0
    s.withPhaser va fun p e s =>
      if role = 0 then s.advance 4
      else if (s.thr.liveReg va (s.ph p)).isNone && decide (8 ≤ (s.thr.regs.filter fun r => r.va != va).length) then
        s.trap (.plain .illegalOp)
      else
        let acts := !(s.ph p).broken && ((s.usable va p).isNone || s.roleActs va p role)
        s.onPhaser va p e acts fun s => s.phReg s.cur s.curTrail va p role) s

/-- PH.ROLE (R204). -/
def execPhRole (g : Guard) (a b : Reg6) (s : State) : Out :=
  phaserForm g a [rs b]
    (fun s va p =>
      let role := bits (s.thr.sreg b) 1 0
      if role = 0 then (s.usable va p).isSome else s.roleActs va p role)
    (fun s va p => s.phRole s.cur s.curTrail va p (bits (s.thr.sreg b) 1 0)) s

/-- PH.DEREG (R204). -/
def execPhDereg (g : Guard) (a : Reg6) (s : State) : Out :=
  phaserForm g a [] (fun s va p => (s.usable va p).isSome) (fun s va p => s.phDereg s.cur s.curTrail va p) s

/-- PH.INIT (R208). -/
def execPhInit (g : Guard) (a b : Reg6) (s : State) : Out :=
  phaserForm g a [rs b] (fun _ _ _ => true)
    (fun s va p => s.phInit s.cur s.curTrail va p (bits (s.thr.sreg b) 39 0) ((s.thr.sreg b).getLsbD 63)) s

/-- PH.ARRIVE (R205): a second arrival waits until PHASE changes; on a BROKEN phaser or through a stale registration only
the registration is freed (R282, R287). -/
def execPhArrive (g : Guard) (a : Reg6) (s : State) : Out :=
  control g 4 [rs a] [] (fun s =>
    let va := s.thr.sreg a
    s.withPhaser va fun p e s =>
      let x := s.ph p
      match s.thr.reg? va with
      | none => s.advance 4
      | some r =>
        if x.broken || r.inc != x.inc then s.onPhaser va p e false fun s => s.freeReg s.cur va p
        else if !r.sig then s.onPhaser va p e false id
        else if r.arrived = x.phase then (s.touch e false).wait
        else s.onPhaser va p e true fun s => s.phArrive s.cur s.curTrail va p r) s

/-- PH.WAIT's future on the phaser at a place, once its registration has been checked (R206). -/
def State.awaitFlip (s : State) (tag : ITag) (ctx : Ctx) (va : Word) (p : Place) (token : Nat) : State :=
  let x := s.ph p
  let delta := (x.phase.toNat + 2 ^ 32 - token) % 2 ^ 32
  if x.broken then s.fly tag ctx (.poison Poison.broken 0 0 0)
  else if delta = 0 then
    { s with phWaits := s.phWaits ++ [{ tag := tag, ctx := ctx, va := va, place := p, token := token }] }
  else if delta = 1 ∧ x.lfault then s.fly tag ctx (.poison Poison.phaser 0 0 0)
  else s.fly tag ctx (.full (waitWord x.phase.toNat token))

/-- PH.WAIT on the phaser at a place (R206). -/
def State.waitPhase (s : State) (tag : ITag) (ctx : Ctx) (va : Word) (p : Place) (token : Nat) : State :=
  let x := s.ph p
  let g := ctx.gtid
  let t := s.thread g
  let stale := (t.reg? va).any fun r => r.inc != x.inc
  let s1 := if stale then s.freeReg g va p else s
  if x.broken then s1.fly tag ctx (.poison Poison.broken 0 0 0)
  else if !((t.liveReg va x).any fun r => r.wait) then s1.fly tag ctx (poisonOf Poison.refused)
  else s1.awaitFlip tag ctx va p token

/-- A wait whose word lies at a translated address: its place, or the poison it ends with (R203, R209). PH.WAIT and SEM.WAIT ask
for R alone of their leaf, as a load does (DESIGN CHOICE, notes/assumptions/44.md: R333 names no permission for them). -/
def State.waitAt (s : State) (tag : ITag) (ctx : Ctx) (op : HeldOp) (va : Word) (n : Nat) (body : State → Place → State) :
    State :=
  match s.locate ctx.agent va .load with
  | .ok p e =>
    if !p.sc then s.fly tag ctx (.poison Poison.refused va 0 Reason.refused)
    else
      let s1 := (s.touch e false).lease p n
      match s1.firstMark p 0 n with
      | some k => s1.fly tag ctx (.poison Poison.soft (va + BitVec.ofNat 64 k) 0 0)
      | none => body s1 p
  | .held =>
    { s with held := s.held ++ [{ tag := tag, ctx := ctx, op := op, va := va, got := [], reserved := 0, acq := false,
                                  hold := s.newHold ctx.agent va }] }
  | .away | .dead _ => s.fly tag ctx (.poison Poison.refused va 0 Reason.refused)
  | x =>
    match x.failure va with
    | some f => (s.stick f.hole).fly tag ctx f.result
    | none => s

/-- A PH.WAIT reaches its phaser. -/
def State.startPhWait (s : State) (tag : ITag) (ctx : Ctx) (va : Word) (token : Nat) : State :=
  s.waitAt tag ctx (.phWait token) va 32 fun s p => s.waitPhase tag ctx va p token

/-- A PH.WAIT that was pending when an invalidation covered its page finds its phaser again: it was registered when it issued,
and a role that has changed since does not affect it (R206, R341). -/
def State.restartPhWait (s : State) (tag : ITag) (ctx : Ctx) (va : Word) (token : Nat) : State :=
  s.waitAt tag ctx (.phRewait token) va 32 fun s p => s.awaitFlip tag ctx va p token

/-- PH.WAIT (R203, R206). -/
def execPhWait (g : Guard) (d a b : Reg6) (s : State) : Out :=
  control g 4 [rs a, rs b] [rs d] (fun s =>
    let va := s.thr.sreg a
    let token := bits (s.thr.sreg b) 31 0
    if bits va 4 0 ≠ 0 then s.trap (.misaligned va)
    else
      s.checked 0 true false [(va.toNat, 32)] fun s =>
        s.produce (rs d) Cls.phaser allBytes 4 fun tag ctx s => s.startPhWait tag ctx va token) s

/-- Whether a word meets a condition (R209, R288). -/
def semCond (c : SCond) (w y : Word) : Bool :=
  match c with
  | .eq => w == y
  | .ne => w != y
  | .geu => decide (y.toNat ≤ w.toNat)
  | .ges => decide (y.toInt ≤ w.toInt)
  | .ltu => decide (w.toNat < y.toNat)
  | .maskAll => (w &&& y) == y
  | .maskAny => (w &&& y) != 0

/-- A SEM.WAIT reaches its word: it completes, or it reads on (R209). -/
def State.startSemWait (s : State) (tag : ITag) (ctx : Ctx) (va : Word) (c : SCond) (y : Word) : State :=
  s.waitAt tag ctx (.semWait c y) va 8 fun s p =>
    let w := BitVec.ofNat 64 (s.peekNat p 8)
    if semCond c w y then s.fly tag ctx (fullS w.toNat)
    else { s with semWaits := s.semWaits ++ [{ tag := tag, ctx := ctx, va := va, place := p, y := y, cond := c }] }

/-- SEM.WAIT (R209). -/
def execSemWait (g : Guard) (d a b : Reg6) (c : SCond) (s : State) : Out :=
  control g 4 [rs a, rs b] [rs d] (fun s =>
    let va := s.thr.sreg a
    let y := s.thr.sreg b
    if bits va 2 0 ≠ 0 then s.trap (.misaligned va)
    else
      s.checked 0 true false [(va.toNat, 8)] fun s =>
        s.produce (rs d) Cls.phaser allBytes 4 fun tag ctx s => s.startSemWait tag ctx va c y) s

/-- The pending registers of a thread. -/
def Thread.pendingRegs (t : Thread) : List Nat := (List.range 144).filter fun i => t.isPending i

/-- TMARK (R210): it parks on every pending register; with the trail disabled it returns all ones. -/
def execTmark (g : Guard) (d : Reg6) (s : State) : Out :=
  control g 4 [] [] (fun s =>
    let ps := s.thr.pendingRegs
    if ps ≠ [] then s.park ps
    else
      match s.curTrail with
      | none => s.putS d (BitVec.allOnes 64) 4
      | some r =>
        s.checked (entryLen Kind.ckpt 0) false false [] fun s =>
          let n := s.trailNext r
          let s1 := s.openWindow r Kind.ckpt n d.toNat s.cur fun _ => checkpoint s.thr (s.thr.pc + 4)
          { s1 with ckpts := (r.owner, n, s.thr.pack, s.thr.rank) :: s1.ckpts }.putS d (BitVec.ofNat 64 n) 4) s

end Sys2Proof.Machine
end

