-- ==== Sys2Proof/Machine/Shepherd.lean ====
section
/-! DEFINITION. Queues, regions and the shepherd (spec/18): doorbells, packets, chains, acceptance, LAUNCH, waiting, the order
of service, dispatch, and the ends of packs. -/

namespace Sys2Proof.Machine

/-! ### Packets (R318) -/

/-- A field of the packet. -/
def pkt (bs : List Byte) (off n : Nat) : Nat := fieldAt bs off n

/-- A flag of the packet: 0 TIMED, 1 SEM0, 2 SEM1, 3 CREC, 4 CSIG, 5 BUS. -/
def pktFlag (bs : List Byte) (i : Nat) : Bool := nbits (pkt bs 1 1) i i == 1

/-- The condition that a code names (R288). -/
def condOf : Nat → SCond
  | 0 => .eq
  | 1 => .ne
  | 2 => .geu
  | 3 => .ges
  | 4 => .ltu
  | 5 => .maskAll
  | _ => .maskAny

/-- The first check of R322. -/
def packetOk (bs : List Byte) : Bool :=
  pkt bs 0 1 == 1 && nbits (pkt bs 1 1) 7 6 == 0 && nbits (pkt bs 4 2) 15 9 == 0 && nbits (pkt bs 6 2) 15 9 == 0
    && nbits (pkt bs 0x25 1) 7 4 == 0 && nbits (pkt bs 0x26 1) 7 4 == 0 && pkt bs 0x27 1 == 0
    && decide (pkt bs 0x40 1 < 7) && decide (pkt bs 0x41 1 < 7) && zeroBytes bs 0x42 0x48 && zeroBytes bs 0x68 0x80
    && (pktFlag bs 5 || pkt bs 0x26 1 == 0) && decide (1 ≤ pkt bs 0x20 4) && decide (pkt bs 0x20 4 ≤ 2 ^ 24)
    && pkt bs 0x08 8 % 256 == 0 && pkt bs 0x10 8 % 4 == 0 && pkt bs 0x58 8 % 32 == 0 && pkt bs 0x60 8 % 8 == 0
    && pkt bs 0x30 8 % 8 == 0 && pkt bs 0x48 8 % 8 == 0

/-- A word of the packet as an address. -/
def pktAddr (bs : List Byte) (off : Nat) : Word := BitVec.ofNat 64 (pkt bs off 8)

/-- The semaphores of a packet. -/
def pktSem (bs : List Byte) (flag addr val cond : Nat) : Option Sem :=
  if pktFlag bs flag then
    some { addr := pktAddr bs addr, val := pktAddr bs val, cond := condOf (pkt bs cond 1), ok := false }
  else none

/-- The number of set bits below bit n. -/
def setBits (n x : Nat) : Nat := ((List.range n).filter fun i => nbits x i i == 1).length

/-- The local tiles that TMASK names, in a cluster (R318). -/
def tilesOf (cluster tmask : Nat) : List Nat :=
  ((List.range 4).filter fun i => nbits tmask i i == 1).map fun i => 8 * (cluster / 2) + 4 * (cluster % 2) + i

/-- The buses that a pack on a cluster takes (R318). -/
def busesOf (cluster : Nat) (bus : Bool) (bmask : Nat) : List Nat :=
  if !bus then []
  else if bmask = 0 then [cluster / 2]
  else (List.range 4).filter fun b => nbits bmask b b == 1

/-- The clusters that CLMASK names (R318). -/
def clustersOf (clmask : Nat) : List Nat :=
  (List.range 8).filter fun c => clmask == 0 || nbits clmask c c == 1

/-! ### Regions (R319, R320) -/

/-- An RCB's reserved fields are zero (R319). -/
def rcbOk (bs : List Byte) : Bool :=
  pkt bs 9 1 == 0 && nbits (pkt bs 0x0A 1) 7 4 == 0 && nbits (pkt bs 0x0B 1) 7 6 == 0 && zeroBytes bs 0x0D 0x10
    && zeroBytes bs 0x1C 0x20 && zeroBytes bs 0x38 0x100

/-- What reading a chain comes to. -/
inductive Chain where
  | ok (s : State) (rcbs : List (Nat × List Byte))
  | held (va : Word)
  /-- No chain, with A set in the leaves that were read through (R334). -/
  | bad (s : State)
  deriving DecidableEq, Repr

/-- Reads a chain of at most n RCBs (R320, R322). -/
def State.readChain (s : State) (ag : Agent) (va : Word) : Nat → Chain
  | 0 => .bad s
  | n + 1 =>
    if va.toNat % 256 ≠ 0 then .bad s
    else
      match s.locate ag va .load with
      | .ok (.dev pa) e =>
        let s1 := s.touch e false
        if (s.firstMark (.dev pa) 0 256).isSome then .bad s1
        else
          let bs := s.peekN (.dev pa) 256
          if !rcbOk bs then .bad s1
          else if pkt bs 0 8 = 0 then .ok s1 [(pa, bs)]
          else
            match s1.readChain ag (pktAddr bs 0) n with
            | .ok s2 r => .ok s2 ((pa, bs) :: r)
            | x => x
      | .held => .held va
      | _ => .bad s

/-- The first RCB of a chain whose SETS bit i is set. -/
def firstSet (ch : List (Nat × List Byte)) (i : Nat) : Option (Nat × List Byte) :=
  ch.find? fun x => nbits (pkt x.2 8 2) i i == 1

/-- The effective value of a field (R320). -/
def effect (ch : List (Nat × List Byte)) (i off n hi lo : Nat) : Nat :=
  ((firstSet ch i).map fun x => nbits (pkt x.2 off n) hi lo).getD 0

/-- The RCBs above an owner. -/
def aboveOwner (owner : Nat) : List (Nat × List Byte) → List (Nat × List Byte)
  | [] => []
  | x :: r => if x.1 = owner then r else aboveOwner owner r

/-- The region of a chain with its effective values (R320, R367). -/
def regionOfChain (ch : List (Nat × List Byte)) : Region :=
  let owner := ((firstSet ch 4).map (·.1)).getD 0
  { rcb := (ch.head?.map (·.1)).getD 0
    chain := ch.map (·.1)
    prio := effect ch 0 0x0A 1 3 0
    dclass := effect ch 1 0x0B 1 0 0 == 1
    poison := effect ch 2 0x0B 1 1 1 == 1
    link := effect ch 3 0x0B 1 2 2 == 1
    fdom := effect ch 5 0x0C 1 7 0
    frbase := BitVec.ofNat 64 (effect ch 6 0x28 8 51 6 * 64)
    utvec := BitVec.ofNat 64 (effect ch 7 0x30 8 51 2 * 4)
    cemask := ch.foldl (fun a x => Nat.land a (if pkt x.2 0x13 1 = 0 then 0xFF else pkt x.2 0x13 1)) 0xFF
    limits := ch.map fun x =>
      { rcb := x.1, cores := pkt x.2 0x10 2, tiles := pkt x.2 0x12 1, pool := pkt x.2 0x14 4 }
    trail := effect ch 4 0x0B 1 4 3
    phwin := effect ch 4 0x0B 1 5 5 == 1
    owner := owner
    trailBase := BitVec.ofNat 64 (effect ch 4 0x20 8 63 0)
    trailU := effect ch 4 0x18 4 31 0
    above := ((aboveOwner owner ch).filter fun x => nbits (pkt x.2 8 2) 4 4 == 1 && nbits (pkt x.2 0x0B 1) 4 3 != 0).map
      fun x => (x.1, pkt x.2 0x18 4) }

/-- The smallest nonzero of a list of limits; none where every one is zero. -/
def smallest (ls : List Nat) : Option Nat :=
  (ls.filter (· != 0)).foldl (fun a x => some (match a with
    | none => x
    | some y => min x y)) none

/-- A use that stays within a limit. -/
def within (use : Nat) (limit : Option Nat) : Bool :=
  match limit with
  | none => true
  | some l => decide (use ≤ l)

/-- What one pack holds: cores, tiles, pool units (R320). -/
structure Shape where
  cores : Nat
  tiles : Nat
  pool : Nat
  deriving DecidableEq, Repr

/-- The shape that a packet asks for. -/
def pktShape (bs : List Byte) : Shape :=
  { cores := pkt bs 3 1, tiles := setBits 4 (pkt bs 0x25 1), pool := pkt bs 3 1 * (pkt bs 6 2 - 4 * pkt bs 2 1) }

/-- The shape of a launch's packs. -/
def Launch.shape (l : Launch) : Shape :=
  { cores := l.cores, tiles := setBits 4 l.tmask, pool := l.cores * (l.pb2 - 4 * l.tpc) }

/-- One pack fits a region's limits (R320, R322). -/
def Region.admits (r : Region) (x : Shape) : Bool :=
  within x.cores (smallest (r.limits.map (·.cores))) && within x.tiles (smallest (r.limits.map (·.tiles)))
    && within x.pool (smallest (r.limits.map (·.pool)))

/-- The owner's TRAILU fits what each ancestor with a trail leaves (R320). -/
def State.trailBudget (s : State) (r : Region) : Bool :=
  r.trail == 0 || r.above.all fun a =>
    let others := (s.regions.filter fun q => q.trail != 0 && q.owner != r.owner && q.above.any fun b => b.1 == a.1).foldl
      (fun acc q => if acc.any fun o => o.1 == q.owner then acc else acc ++ [(q.owner, q.trailU)]) ([] : List (Nat × Nat))
    decide ((others.map (·.2)).foldl (· + ·) 0 + r.trailU ≤ a.2)

/-! ### Trails of regions (R367, R368) -/

/-- What translating a trail buffer comes to. -/
inductive Pages where
  | ok (ps : List (Nat × Nat × Nat))
  | held (va : Word)
  | bad
  deriving DecidableEq, Repr

/-- Translates n bytes of a trail buffer from an offset on, page by page. -/
def State.trailPages (s : State) (ag : Agent) (base : Word) (off n : Nat) : Nat → Pages
  | 0 => if n = 0 then .ok [] else .bad
  | fuel + 1 =>
    if n = 0 then .ok []
    else
      let va := base + BitVec.ofNat 64 off
      match s.locate ag va .store with
      | .ok (.dev pa) (some e) =>
        let k := min n (2 ^ e.size - va.toNat % 2 ^ e.size)
        match s.trailPages ag base (off + k) (n - k) fuel with
        | .ok r => .ok ((off, pa, k) :: r)
        | x => x
      | .held => .held va
      | _ => .bad

/-- The trail that a launch in an ASID needs, whose buffer must translate in full: the trail in use, a new one, or none that can
be used (R367). -/
def State.trailFor (s : State) (r : Region) (asid : BitVec 16) : Pages × Option TrailUse :=
  if r.trail = 0 then (.ok [], none)
  else
    let used := s.trails.find? fun u => u.owner == r.owner
    if r.trailU = 0 ∨ r.trailBase.toNat % 2 ^ 21 ≠ 0 ∨ used.any (·.asid != asid) then (.bad, none)
    else
      match s.trailPages { core := 0, lid := 0, pack := none, asid := asid } r.trailBase 0 (r.trailU * 2 ^ 21) (32 * r.trailU)
        with
      | .ok ps =>
        (.ok ps, if used.isSome then none
          else some { owner := r.owner, asid := asid, area := r.area, pages := ps, spoiled := false, failed := false, hold := none })
      | x => (x, none)

/-- A trail comes into use; a header without MAGIC is written (R368). -/
def State.openTrail (s : State) (r : Region) (u : Option TrailUse) : State :=
  match u with
  | none => s
  | some u =>
    let s1 := { s with trails := s.trails ++ [u] }
    if s1.trailHdr r 0 4 = trailMagic then s1
    else
      match s1.trailAt r 0 with
      | some p => s1.putTrail p (natLe 4 trailMagic ++ List.replicate 44 0)
      | none => s1

/-! ### Acceptance (R322) -/

/-- What the checks of R322 decide: accepted into a region, refused with a status, or a held page that is waited for. -/
inductive Verdict where
  | accept (s : State) (r : Region) (u : Option TrailUse)
  | refuse (s : State) (status : Nat)
  | held (va : Word)
  deriving DecidableEq, Repr

/-- The optical tiles are marked lost (R388). -/
def State.tilesLost (s : State) : Bool := s.cfield 0x10 15 8 == 5

/-- Some cluster could ever hold a pack (R322, PLACE). -/
def State.placeable (s : State) (bs : List Byte) : Bool :=
  (clustersOf (pkt bs 0x24 1)).any fun c =>
    (busesOf c (pktFlag bs 5) (pkt bs 0x26 1)).all (fun b => !(s.bus b).lost) && (pkt bs 0x25 1 == 0 || !s.tilesLost)

/-- A semaphore word translates to the SC domain (R322, SEM); a held page is read when its hold ends (R323). -/
def State.semPlaced (s : State) (ag : Agent) (m : Option Sem) : Bool :=
  match m with
  | none => true
  | some m =>
    match s.locate ag m.addr .load with
    | .ok p _ => p.sc
    | .held => true
    | _ => false

/-- Shape, budget, place and semaphores, in the order of R322. -/
def State.judgeShape (s : State) (ag : Agent) (bs : List Byte) (r : Region) (u : Option TrailUse) : Verdict :=
  let tpc := pkt bs 2 1
  let cores := pkt bs 3 1
  if tpc < 1 ∨ 8 < tpc ∨ cores < 1 ∨ 128 < cores ∨ pkt bs 4 2 < 4 * tpc ∨ pkt bs 6 2 < pkt bs 4 2 ∨ 368 < pkt bs 6 2 then
    .refuse s 0x01
  else if !r.admits (pktShape bs) || !s.trailBudget r then .refuse s 0x02
  else if !s.placeable bs then .refuse s 0x05
  else if !s.semPlaced ag (pktSem bs 1 0x30 0x38 0x40) || !s.semPlaced ag (pktSem bs 2 0x48 0x50 0x41) then .refuse s 0x06
  else .accept s r u

/-- The region of a packet: the values kept while it is active, or its chain read now (R321). -/
def State.packetRegion (s : State) (ag : Agent) (va : Word) : Chain × Option Region :=
  match s.locate ag va .load with
  | .ok (.dev pa) _ =>
    match s.region? pa with
    | some r => (.ok s [], some r)
    | none =>
      match s.readChain ag va 8 with
      | .ok s1 ch => (.ok s1 ch, some (regionOfChain ch))
      | x => (x, none)
  | .held => (.held va, none)
  | _ => (.bad s, none)

/-- The checks of R322 in order. `root` is the device physical address that must lie in the chain, and `late` says that a hold
has outlasted TIMEOUT. -/
def State.judge (s : State) (ag : Agent) (root : Option Nat) (late : Word → Bool) (bs : List Byte) : Verdict :=
  if !packetOk bs then .refuse s 0x04
  else
    match s.packetRegion ag (pktAddr bs 8) with
    | (.held va, _) => if late va then .refuse s 0x03 else .held va
    | (.ok s1 _, some r) =>
      if !(root.any fun p => r.chain.contains p) then .refuse s1 0x03
      else
        match s1.trailFor r ag.asid with
        | (.held va, _) => if late va then .refuse s1 0x03 else .held va
        | (.bad, _) => .refuse s1 0x03
        | (.ok _, u) => s1.judgeShape ag bs r u
    | (.ok s1 _, none) | (.bad s1, _) => .refuse s1 0x03

/-- The launch id after another (R322). -/
def nextId (id : Nat) : Nat := if id = 0xFFFFFFFE then 1 else id + 1

/-- The launch of an accepted packet. -/
def launchOf (id : Nat) (src : Source) (parent : Option Parent) (ag : Agent) (region : Nat) (endTag : Option (ITag × Ctx))
    (bs : List Byte) : Launch :=
  { id := id, src := src, parent := parent, asid := ag.asid, rcbVa := pktAddr bs 8, region := region,
    entry := pktAddr bs 0x10, arg := pktAddr bs 0x18, packs := pkt bs 0x20 4, clmask := pkt bs 0x24 1,
    tmask := pkt bs 0x25 1, bus := pktFlag bs 5, bmask := pkt bs 0x26 1, tpc := pkt bs 2 1, cores := pkt bs 3 1,
    pb1 := pkt bs 4 2, pb2 := pkt bs 6 2, start := if pktFlag bs 0 then some (pkt bs 0x28 8) else none,
    sem0 := pktSem bs 1 0x30 0x38 0x40, sem1 := pktSem bs 2 0x48 0x50 0x41,
    crec := if pktFlag bs 3 then some (pktAddr bs 0x58) else none,
    csig := if pktFlag bs 4 then some (pktAddr bs 0x60) else none, endTag := endTag, timeOk := !pktFlag bs 0,
    ready := false, since := 0, readyAt := 0, left := List.range (pkt bs 0x20 4), begun := [], ended := 0, exited := 0,
    deadlink := 0, refused := 0, killed := false, faulted := false, semFail := false, holds := false, passed := [], hold := none,
    stalled := false }

/-- An accepted packet becomes a launch; its region's values and trail are kept (R321, R322, R367). -/
def State.admitLaunch (s : State) (src : Source) (parent : Option Parent) (ag : Agent) (r : Region) (u : Option TrailUse)
    (endTag : Option (ITag × Ctx)) (bs : List Byte) : State :=
  let l := launchOf s.nextLaunch src parent ag r.rcb endTag bs
  let s1 := { s with nextLaunch := nextId s.nextLaunch, launches := s.launches ++ [l],
                     regions := if (s.region? r.rcb).isSome then s.regions else s.regions ++ [r] }
  s1.openTrail r u

/-- The wait of the shepherd for an address on a held page, which has not outlasted TIMEOUT (R335). -/
def State.waitHold (s : State) (ag : Agent) (h : Option Hold) (va : Word) : Hold := (s.keepHold ag h va).getD (s.newHold ag va)

/-- The wait that a write of the shepherd must make before it: for a held page, until TIMEOUT, or for a link (R335, R394). -/
def State.mustWait (s : State) (ag : Agent) (h : Option Hold) (va : Word) (need : Need) : Option Hold :=
  match s.locate ag va need with
  | .held => s.keepHold ag h va
  | .away => some (s.awayHold ag va)
  | _ => none

/-- The record and the signal of a refused packet (R322, R328), or the wait that comes before them; a wait for the signal's page
follows that for the record's. -/
def State.report (s : State) (ag : Agent) (status : Nat) (h : Option Hold) (bs : List Byte) : Except Hold State :=
  let ra := pktAddr bs 0x58
  let sa := pktAddr bs 0x60
  let crec := pktFlag bs 3 && ra.toNat % 32 == 0
  let csig := pktFlag bs 4 && sa.toNat % 8 == 0
  let first := if crec && !(h.any fun x => x.va == sa && sa != ra) then s.mustWait ag h ra .store else none
  match first, if csig then s.mustWait ag h sa .rmw else none with
  | some x, _ => .error x
  | none, some x => .error x
  | none, none =>
    let s1 := if crec then
        match s.engineWrite ag ra (completionRecord status 0xFFFFFFFF s.now.toNat 0 0 0) with
        | .done x => x
        | _ => s
      else s
    .ok (if csig then
        match s1.engineIncr ag sa with
        | .done x => x
        | _ => s1
      else s1)

/-! ### Launch queues (R315-R317) -/

/-- A queue's registers start here. -/
def queueOff (q : Nat) : Nat := 0x1000 + 0x40 * q

/-- Queue q beside its registers. -/
def State.queue (s : State) (q : Nat) : Queue := tget { visible := 0, hold := none } s.queues q

/-- Replaces queue q. -/
def State.setQueue (s : State) (q : Nat) (x : Queue) : State := { s with queues := tset s.queues q x }

/-- The shepherd is enabled (R388). -/
def State.isReady (s : State) : Bool := s.cfield 0x10 7 0 == 6

/-- QCTL (R315): EN going from 0 to 1 clears HEAD, TAIL, NREF and HALT; while EN is 1 only EN takes effect; a LOG2N outside
4-12 leaves EN at 0. -/
def execQctl (s : State) : Out :=
  match s.ev with
  | some (.qctl q v) =>
    let off := queueOff q
    if s.cfield (off + 8) 0 0 = 1 then .next (s.setCfield (off + 8) 0 0 (bits v 0 0))
    else
      let s1 := s.setCreg (off + 8) (plainWrite [⟨63, 48, .rw⟩, ⟨7, 4, .rw⟩] none (s.creg (off + 8)) v)
      let log2n := bits v 7 4
      .next (if bits v 0 0 = 1 ∧ 4 ≤ log2n ∧ log2n ≤ 12 then
          (((((s1.setCfield (off + 8) 0 0 1).setCfield (off + 0x18) 31 0 0).setCfield (off + 0x20) 31 0 0).setCfield
            (off + 0x28) 31 16 0).setCfield (off + 0x28) 7 0 0).setQueue q { visible := 0, hold := none }
        else s1)
  | _ => notNow "QCTL"

/-- A queue halts with a code and signals the host (R316, R387). -/
def State.haltQueue (s : State) (q code : Nat) : State := (s.setCfield (queueOff q + 0x28) 7 0 code).signal 3

/-- DOORBELL (R316, R388). -/
def execDoorbell (s : State) : Out :=
  match s.ev with
  | some (.doorbell q t) =>
    let off := queueOff q
    let head : BitVec 32 := BitVec.ofNat 32 (s.cfield (off + 0x18) 31 0)
    if s.isReady = false ∨ s.cfield (off + 8) 0 0 = 0 ∨ s.cfield (off + 0x28) 7 0 ≠ 0 then .next s
    else if 2 ^ s.cfield (off + 8) 7 4 < (t - head).toNat then .next (s.haltQueue q 1)
    else
      let x := s.queue q
      .next ((s.setCfield (off + 0x20) 31 0 t.toNat).setQueue q
        { x with visible := if (x.visible - head).toNat < (t - head).toNat then t else x.visible })
  | _ => notNow "DOORBELL"

/-- A visible packet of a queue waits for the shepherd (R316). -/
def State.queueWaits (s : State) (q : Nat) : Bool :=
  let off := queueOff q
  s.cfield (off + 8) 0 0 == 1 && s.cfield (off + 0x28) 7 0 == 0 && s.cfield (off + 0x18) 31 0 != (s.queue q).visible.toNat

/-- The packet of a queue is consumed: HEAD advances (R316). -/
def State.consume (s : State) (q : Nat) : State :=
  let off := queueOff q
  (s.setCfield (off + 0x18) 31 0 (s.cfield (off + 0x18) 31 0 + 1)).setQueue q { s.queue q with hold := none }

/-- The shepherd's wait for a queue. -/
def State.queueHold (s : State) (q : Nat) (h : Hold) : State := s.setQueue q { s.queue q with hold := some h }

/-- Whether a hold on an address has outlasted TIMEOUT. -/
def State.lateAt (s : State) (h : Option Hold) (va : Word) : Bool := h.any fun x => x.va == va && s.outlasted x.since

/-- A launch becomes ready when its time and its semaphores allow, and, from a queue, after every earlier packet of the queue
(R323, R324). -/
def Launch.readyAfter (l : Launch) (before : List Launch) : Bool :=
  l.timeOk && !l.ready && !l.semFail && !l.killed && (l.sem0.all (·.ok)) && (l.sem1.all (·.ok))
    && (match l.src with
      | .child _ => true
      | .queue _ => before.all fun x => x.src != l.src || x.ready || x.semFail || x.killed)

/-- Makes ready every launch that may be. -/
def State.makeReady (s : State) : State :=
  s.launches.foldl (fun a l =>
    let before := a.launches.takeWhile fun x => x.id != l.id
    match a.launch? l.id with
    | some x =>
      if x.readyAfter before then a.setLaunch { x with ready := true, since := a.now.toNat, readyAt := a.now.toNat } else a
    | none => a) s

/-- ACCEPTANCE (R317, R322): the shepherd reads a visible packet. -/
def execAcceptance (s : State) : Out :=
  match s.ev with
  | some (.acceptance q) =>
    let off := queueOff q
    let x := s.queue q
    if !s.queueWaits q || !s.retries x.hold then notNow "ACCEPTANCE"
    else
      let pa := s.cfield off 47 12 * 4096 + 128 * (s.cfield (off + 0x18) 31 0 % 2 ^ s.cfield (off + 8) 7 4)
      let ag : Agent := { core := 0, lid := 0, pack := none, asid := BitVec.ofNat 16 (s.cfield (off + 8) 63 48) }
      if Config.deviceBytes < pa + 128 ∨ (s.firstMark (.dev pa) 0 128).isSome = true then .next (s.haltQueue q 2)
      else
        let bs := s.peekN (.dev pa) 128
        let late := s.lateAt x.hold
        let wait := s.waitHold ag x.hold
        let hold := x.hold
        let qrcb : Word := BitVec.ofNat 64 (s.cfield (off + 0x10) 51 8 * 256)
        let x := s.locate ag qrcb .load
        let root := match x with
          | .ok (.dev p) _ => some p
          | _ => none
        match if x = .held ∧ late qrcb = false then Verdict.held qrcb else s.judge ag root late bs with
        | .held va => .next (s.queueHold q (wait va))
        | .accept s1 r u =>
          let s2 := (s1.admitLaunch (.queue q) none ag r u none bs).consume q
          .next ((s2.setCfield (off + 0x28) 63 32 s1.nextLaunch).makeReady)
        | .refuse s1 status =>
          match s1.report ag status hold bs with
          | .error h => .next (s.queueHold q h)
          | .ok s2 =>
            let nref := s2.cfield (off + 0x28) 31 16
            .next ((s2.consume q).setCfield (off + 0x28) 31 16 (min 0xFFFF (nref + 1)))
  | _ => notNow "ACCEPTANCE"

/-! ### LAUNCH (R238) -/

/-- The LAUNCH's agent for its packet, record and signal. -/
def ChildReq.agent (c : ChildReq) : Agent := c.ctx.agent

/-- A child is refused with a shepherd status: the future is poisoned with 0x0011, and the record holds the status. -/
def State.refuseChild (s : State) (c : ChildReq) (status : Nat) : State :=
  s.fly c.tag c.ctx (.poison Poison.refused c.va (BitVec.ofNat 64 status) Reason.refused)

/-- A LAUNCH waits. -/
def State.childHold (s : State) (c : ChildReq) (h : Hold) : State :=
  { s with childReqs := s.childReqs ++ [{ c with hold := some h }] }

/-- A LAUNCH whose packet lies on a held page waits, or fails with HELD (R335). -/
def State.childHeld (s : State) (c : ChildReq) (va : Word) : State :=
  match s.keepHold c.agent c.hold va with
  | some h => s.childHold c h
  | none => s.fly c.tag c.ctx (.poison Poison.fault va 0 Reason.held)

/-- The packet of a LAUNCH is checked (R238, R322). -/
def State.judgeChild (s : State) (c : ChildReq) (bs : List Byte) : State :=
  let ag := c.agent
  let late := s.lateAt c.hold
  match s.judge { ag with pack := none } ((s.launch? ag.lid).map fun l => l.region) late bs with
  | .held va => s.childHold c (s.waitHold ag c.hold va)
  | .accept s1 r u =>
    let id := s1.nextLaunch
    let parent : Parent := { lid := ag.lid, pack := c.ctx.pack % 2 ^ 24, rank := c.rank, call := c.call, ordered := c.ordered }
    let s2 := (s1.admitLaunch (.child ag.lid) (some parent) { ag with pack := none } r u
      (if c.endd then some (c.tag, c.ctx) else none) bs).makeReady
    let s3 := match s2.trailOf c.ctx.pack with
      | some t => s2.logFence t 5 0 c.ctx.gtid
      | none => s2
    if c.endd then s3 else s3.fly c.tag c.ctx (fullS (id * 2 ^ 32))
  | .refuse s1 status =>
    match s1.report { ag with pack := none } status c.hold bs with
    | .error h => s.childHold c h
    | .ok s2 => s2.refuseChild c status

/-- A LAUNCH reaches the shepherd: its packet lies 64-byte aligned in the SC domain (R238). -/
def State.startChild (s : State) (c : ChildReq) : State :=
  if c.va.toNat % 64 ≠ 0 then s.refuseChild c 0x04
  else
    let mk := fun (n : Nat) => s.locate c.agent (c.va + BitVec.ofNat 64 n) .load
    match mk 0, mk 64 with
    | .ok p e, .ok p' e' =>
      if !p.sc || !p'.sc then s.refuseChild c 0x04
      else
        match s.firstMark p 0 64, s.firstMark p' 64 64 with
        | none, none =>
          ((((s.touch e false).touch e' false).lease p 64).lease p' 64).judgeChild c (s.peekN p 64 ++ s.peekN p' 64)
        | some k, _ => (s.touch e false).fly c.tag c.ctx (.poison Poison.soft (c.va + BitVec.ofNat 64 k) 0 0)
        | _, some k =>
          ((s.touch e false).touch e' false).fly c.tag c.ctx (.poison Poison.soft (c.va + BitVec.ofNat 64 k) 0 0)
    | .fail code why, _ => s.fly c.tag c.ctx (.poison code c.va 0 why)
    | .refused _, _ | .dead _, _ | .away, _ | .hole _, _ => s.refuseChild c 0x04
    | _, .fail code why => s.fly c.tag c.ctx (.poison code (c.va + 64) 0 why)
    | _, .refused _ | _, .dead _ | _, .away | _, .hole _ => s.refuseChild c 0x04
    | .held, _ => s.childHeld c c.va
    | _, .held => s.childHeld c (c.va + 64)

/-- The LAUNCHes that wait on held pages try again where they may. -/
def State.retryChildren (s : State) : State :=
  s.childReqs.foldl (fun a c =>
    if a.retries c.hold then { a with childReqs := a.childReqs.filter fun x => x.tag ≠ c.tag }.startChild c else a) s

/-- LAUNCH (R238): the call index is taken whatever becomes of the child; an n of 2^30 or more refuses it. -/
def execLaunch (g : Guard) (d a : Reg6) (unord endd : Bool) (s : State) : Out :=
  control g 8 [rs a] [rs d] (fun s =>
    let t := s.thr
    let va := t.sreg a
    if t.dclass && unord then s.trap (.plain .determinism)
    else
      let room := if (s.trailOf t.pack).isSome then 64 else 0
      s.checked room true false [(va.toNat, 128)] fun s =>
        s.produce (rs d) Cls.shepherd allBytes 8 fun tag ctx s =>
          let n := t.nlaunch.toNat
          let s1 := s.onThr fun x => { x with nlaunch := satInc x.nlaunch }
          let c : ChildReq :=
            { tag := tag, ctx := ctx, va := va, call := (t.pack % 2 ^ 24 * 2 ^ 10 + t.rank) * 2 ^ 30 + n, rank := t.rank,
              ordered := !unord, endd := endd, reserved := room, hold := none }
          if 2 ^ 30 ≤ n then s1.fly tag ctx (poisonOf Poison.refused) else s1.startChild c) s

/-! ### Waiting (R323, R324) -/

/-- What a read of a semaphore word comes to. -/
inductive SemRead where
  | sat (s : State)
  | unsat (s : State)
  | held
  | fail (s : State)
  deriving DecidableEq, Repr

/-- The shepherd reads a semaphore word (R209, R323). -/
def State.readSem (s : State) (l : Launch) (m : Sem) : SemRead :=
  match s.locate l.agent m.addr .load with
  | .ok p e =>
    if !p.sc then .fail s
    else if (s.firstMark p 0 8).isSome then .fail (s.touch e false)
    else
      let s1 := (s.touch e false).lease p 8
      if semCond m.cond (BitVec.ofNat 64 (s1.peekNat p 8)) m.val then .sat s1 else .unsat s1
  | .held => .held
  | _ => .fail s

/-- A semaphore of a launch that has not been read satisfied. -/
def Launch.openSem (l : Launch) (which : Nat) : Option Sem :=
  ((if which = 0 then l.sem0 else l.sem1).filter fun m => !m.ok).filter fun _ => !l.ready && !l.semFail && !l.killed

/-- The launch with a semaphore satisfied. -/
def Launch.satisfy (l : Launch) (which : Nat) (m : Sem) : Launch :=
  if which = 0 then { l with sem0 := some { m with ok := true } } else { l with sem1 := some { m with ok := true } }

/-- SEMAPHORE_READ (R323): a satisfied semaphore stays satisfied; a read that fails ends the launch with status SEM. -/
def execSemaphoreRead (s : State) : Out :=
  match s.ev with
  | some (.semaphoreRead lid which) =>
    match s.launch? lid with
    | none => notNow "SEMAPHORE_READ"
    | some l =>
      match l.openSem which with
      | none => notNow "SEMAPHORE_READ"
      | some m =>
        match s.readSem l m with
        | .sat s1 => .next ((s1.setLaunch (l.satisfy which m)).makeReady)
        | .unsat s1 => .next s1
        | .held => .next s
        | .fail s1 => .next (((s1.setLaunch { l with semFail := true, left := [] }).tryEnd lid).makeReady)
  | _ => notNow "SEMAPHORE_READ"

/-- START (R324): NOW has reached a launch's start time. -/
def execStart (s : State) : Out :=
  match s.ev with
  | some (.start lid) =>
    match s.launch? lid with
    | none => notNow "START"
    | some l =>
      if !l.timeOk && l.start.all (fun t => decide (t ≤ s.now.toNat)) then
        .next ((s.setLaunch { l with timeOk := true }).makeReady)
      else notNow "START"
  | _ => notNow "START"

/-! ### Order of service (R289, R326) -/

/-- The region priority of a launch, without aging. -/
def State.prioOf (s : State) (l : Launch) : Nat := ((s.region? l.region).map (·.prio)).getD 0

/-- Units of NOW in 100 µs. -/
def agingUnit : Nat := 100000 * Config.ns

/-- Effective priority (R326). -/
def State.effective (s : State) (l : Launch) : Nat := min 15 (s.prioOf l + (s.now.toNat - l.since) / agingUnit)

/-- A rank of a pack has ended by EXIT or by a kill. -/
def State.rankEnded (s : State) (p : Pack) (rank : Nat) : Bool :=
  p.gone.contains rank || p.killing
    || (p.out.isNone && (s.threadsOf p).all fun g => (s.thread g).rank != rank || (s.thread g).status == .exited)

/-- Every thread of a launch with a (PACK, RANK) below the given one has ended (R289). -/
def State.lowerEnded (s : State) (lid pack rank : Nat) : Bool :=
  match s.launch? lid with
  | none => true
  | some l =>
    let ranks := l.cores * l.tpc
    let ended := fun (k n : Nat) =>
      match s.pack? (lid * 2 ^ 24 + k) with
      | some p => (List.range n).all (s.rankEnded p)
      | none => !(l.left.contains k)
    (List.range pack).all (fun k => ended k ranks) && ended pack rank

/-- An ordered child's turn has come (R289). -/
def State.childTurn (s : State) (l : Launch) : Bool :=
  match l.parent with
  | none => true
  | some p =>
    !p.ordered
      || ((s.launches.all fun x => x.id == l.id || !(x.parent.any fun q => q.lid == p.lid && q.ordered && decide (q.call < p.call))
              || x.begun.length == x.packs)
          && s.lowerEnded p.lid p.pack p.rank)

/-- The region of a launch is halted (R379). -/
def State.isHalted (s : State) (l : Launch) : Bool := (s.region? l.region).any s.regionHalted

/-- A launch whose next pack the shepherd may place. -/
def State.servable (s : State) (l : Launch) : Bool :=
  l.ready && !l.killed && !l.semFail && !l.left.isEmpty && s.childTurn l && !s.isHalted l

/-! ### Room (R25, R311, R320, R325) -/

/-- The packs that hold places: the resident ones. -/
def State.resident (s : State) : List Pack := s.packs.filter fun p => p.out.isNone

/-- The cores of a cluster that hold none of the packs, lowest first. -/
def freeCores (ps : List Pack) (cluster : Nat) : List Nat :=
  (tabulate 128 fun i => cluster * 128 + i).filter fun c => !(ps.any fun p => p.cores.contains c)

/-- The tiles and the buses are held by none of the packs. -/
def freeOf (ps : List Pack) (tiles buses : List Nat) : Bool :=
  !(ps.any fun p => p.tiles.any (tiles.contains ·) || p.buses.any (buses.contains ·))

/-- The use of a limit by packs: those whose launch's region has its RCB in its chain (R320). -/
def State.used (s : State) (ps : List Pack) (rcb : Nat) (f : Shape → Nat) : Nat :=
  (ps.map fun p =>
    match s.launch? (p.key / 2 ^ 24) with
    | some l => if (s.region? l.region).any fun r => r.chain.contains rcb then f l.shape else 0
    | none => 0).foldl (· + ·) 0

/-- A pack fits the remaining budget of its region and its ancestors beside packs (R320, R325). -/
def State.budgetFits (s : State) (ps : List Pack) (l : Launch) : Bool :=
  match s.region? l.region with
  | none => false
  | some r => r.limits.all fun m =>
    (m.cores == 0 || decide (s.used ps m.rcb (·.cores) + l.shape.cores ≤ m.cores))
      && (m.tiles == 0 || decide (s.used ps m.rcb (·.tiles) + l.shape.tiles ≤ m.tiles))
      && (m.pool == 0 || decide (s.used ps m.rcb (·.pool) + l.shape.pool ≤ m.pool))

/-- A launch has waited at effective priority 15 for 1 ms (R326). -/
def State.mayHold (s : State) (l : Launch) : Bool :=
  l.ready && !l.holds && !l.left.isEmpty
    && decide (l.since + (15 - s.prioOf l) * agingUnit + 10 * agingUnit ≤ s.now.toNat)

/-- A cluster is held by a launch of higher effective priority (R326): from the end of its 1 ms on, and after HOLD_CLUSTERS until
one of its packs is dispatched. -/
def State.clusterHeld (s : State) (l : Launch) (cluster : Nat) : Bool :=
  s.launches.any fun x => (x.holds || s.mayHold x) && x.id != l.id && (clustersOf x.clmask).contains cluster
    && decide (s.effective l < s.effective x)

/-- The places that the next pack of a launch takes on a cluster beside packs: cores, tiles, buses; none where it does not
fit (R311, R325, R327). -/
def State.placesOn (s : State) (ps : List Pack) (l : Launch) (cluster : Nat) : Option (List Nat × List Nat × List Nat) :=
  match l.left with
  | [] => none
  | k :: _ =>
    if !(clustersOf l.clmask).contains cluster || !s.budgetFits ps l || s.clusterHeld l cluster then none
    else
      let fresh :=
        let cs := (freeCores ps cluster).take l.cores
        let tiles := tilesOf cluster l.tmask
        let buses := busesOf cluster l.bus l.bmask
        if cs.length = l.cores ∧ freeOf ps tiles buses = true then some (cs, tiles, buses) else none
      match s.pack? (l.id * 2 ^ 24 + k) with
      | none => fresh
      | some p =>
        if p.out.isSome && p.fixed then
          if p.cluster == cluster && p.cores.all (fun c => !(ps.any fun q => q.cores.contains c)) && freeOf ps p.tiles p.buses
            then some (p.cores, p.tiles, p.buses) else none
        else fresh

/-- The next pack of a launch fits somewhere now. -/
def State.fits (s : State) (l : Launch) : Bool := (List.range 8).any fun c => (s.placesOn s.resident l c).isSome

/-! ### Who is served (R326) -/

/-- The place of a source in the fixed cycle: host queues by number, then children by parent id. -/
def Source.key : Source → Nat
  | .queue q => q
  | .child p => 64 + p

/-- How far a source lies behind the one served last. -/
def State.distance (s : State) (src : Source) : Nat :=
  match s.served with
  | none => src.key
  | some x => (src.key + 2 ^ 33 - x.key - 1) % 2 ^ 33

/-- Whether launch x goes before launch y (R326). -/
def State.goesFirst (s : State) (x y : Launch) : Bool :=
  if s.effective x ≠ s.effective y then decide (s.effective y < s.effective x)
  else if s.distance x.src ≠ s.distance y.src then decide (s.distance x.src < s.distance y.src)
  else decide (x.readyAt < y.readyAt)

/-- Whether the launch window has room, or needs none (R375). -/
def State.windowRoom (s : State) (l : Launch) : Bool :=
  match (s.region? l.region).filter fun r => r.trail != 0 with
  | none => true
  | some r => l.begun != [] || s.windowFits r

/-- The launch that is served next (R326): one whose launch window waits for room lets the others pass (R26, R375). -/
def State.nextServed (s : State) : Option Launch :=
  (s.launches.filter fun l => s.servable l && s.fits l && s.windowRoom l).foldl (fun a l =>
    match a with
    | none => some l
    | some b => if s.goesFirst l b then some l else some b) none

/-- HOLD_CLUSTERS (R326). -/
def execHoldClusters (s : State) : Out :=
  match s.ev with
  | some (.holdClusters lid) =>
    match s.launch? lid with
    | some l => if s.mayHold l then .next (s.setLaunch { l with holds := true }) else notNow "HOLD_CLUSTERS"
    | none => notNow "HOLD_CLUSTERS"
  | _ => notNow "HOLD_CLUSTERS"

/-! ### Dispatch (R325) -/

/-- The state of a thread of a new pack (R13, R17, R18). -/
def startThread (l : Launch) (r : Option Region) (key rank : Nat) : Thread :=
  let parent := match l.parent with
    | none => 0xFFFFFFFF
    | some p => p.lid
  { idleThread with
    status := .ready, pc := l.entry, s := idleThread.s.set 1 l.arg
    packinfo := BitVec.ofNat 64 (key % 2 ^ 24 * 2 ^ 40 + l.cores * 2 ^ 24 + l.tpc * 2 ^ 20 + rank)
    launchid := BitVec.ofNat 64 (parent * 2 ^ 32 + l.id), rcbaddr := l.rcbVa
    frbase := (r.map (·.frbase)).getD 0, utvec := (r.map (·.utvec)).getD 0, dclass := r.any (·.dclass)
    asid := l.asid, pack := key, rank := rank }

/-- Writes zero into the bytes [lo, hi) of a core's pool (R325). -/
def State.zeroPool (s : State) (core lo hi : Nat) : State :=
  let a := core * 2 ^ 21 + lo
  let b := core * 2 ^ 21 + hi
  let t := s.ltime + 1
  let row := fun (k : Nat) => decide (2 ^ 42 + core * 2 ^ 14 + lo / 128 ≤ k) && decide (k < 2 ^ 42 + core * 2 ^ 14 + hi / 128)
  { s with
    pool := mclear s.pool a b, ltime := t
    marks := s.marks.filter fun m => match m with
      | .pool g => !(decide (a ≤ 8 * g) && decide (8 * g < b))
      | _ => true
    lines := s.lines.map fun x => if row x.1 then (x.1, (t, x.2.2)) else x }

/-- One core of a new pack (R19, R25, R226, R325). -/
def State.startCore (s : State) (l : Launch) (key core index : Nat) : State :=
  let k := s.core core
  let s1 := (s.setCore core { k with pack := some key, pb0 := 4 * l.tpc, pb1 := l.pb1, pb2 := l.pb2 }).zeroPool core
    (4 * l.tpc * 4096) (l.pb2 * 4096)
  let s1 := { s1 with seqCaches := s1.seqCaches.filter fun x => x.1 ≠ core }.dropUnfreed fun k => k / 16 == core
  (List.range 8).foldl (fun a i =>
    a.setThread (core * 8 + i)
      (if i < l.tpc then startThread l (s.region? l.region) key (index * l.tpc + i) else idleThread)) (s1.freshRings core)

/-- A sequencer of a new pack: registrations are cleared. A program that an earlier pack left running stays ahead
(R27, R325). -/
def State.startSeqr (s : State) (q : Nat) : State :=
  let x := s.seqr q
  if x.cmd.isNone then s.setSeqr q { idleSeqr with unfreed := x.unfreed }
  else
    match x.sel with
    | some sel => s.leaveNow q sel
    | none => s

/-- A tile of a new pack (R243, R325). -/
def State.startTile (s : State) (t : Nat) : State :=
  (List.range 4).foldl (fun a k => a.clearAccSet t k) (s.startSeqr t)

/-- A bus of a new pack: FRAME is 0 (R325). -/
def State.startBus (s : State) (b : Nat) : State :=
  let s1 := s.startSeqr (txOf b)
  s1.setBus b { s1.bus b with frame := 0 }

/-- The launch window of a launch's first pack (R370, R372). -/
def State.launchWindow (s : State) (l : Launch) : State :=
  match (s.region? l.region).filter fun r => r.trail != 0 with
  | none => s
  | some r =>
    if l.begun ≠ [] then s
    else
      let s1 := s.makeRoom r 64
      s1.openWindow r Kind.lwin (l.id * 2 ^ 32 + s1.trailNext r) 0 0xFFFF fun _ => []

/-- Accounts of a launch whose next pack has been placed (R326). -/
def State.placed (s : State) (l : Launch) (k : Nat) : State :=
  { s.setLaunch { l with left := l.left.filter (· != k), begun := if l.begun.contains k then l.begun else l.begun ++ [k],
                         since := s.now.toNat, holds := false, stalled := false } with
    served := some l.src, nextOrder := s.nextOrder + 1 }

/-- A thread in the state of a checkpoint whose window and register are given (R373, R374). -/
def Thread.ofCheckpoint (t : Thread) (body : List Byte) (dest window : Nat) : Thread :=
  (restoreCheckpoint t body).setS (BitVec.ofNat 6 dest) (BitVec.ofNat 64 window)

/-- A pack that a REWIND to a checkpoint has given back starts with its thread in the checkpoint's state; its other threads have
ended (R374; DEDUCED, notes/assumptions/30.md). -/
def State.applyRevival (s : State) (key : Nat) (cores : List Nat) : State :=
  match s.revived.find? fun x => x.key == key with
  | none => s
  | some x =>
    let mine := (cores.flatMap fun c => tabulate 8 fun i => c * 8 + i).filter fun g => (s.thread g).status != .idle
    mine.foldl (fun a g =>
      let t := a.thread g
      a.setThread g (if t.rank = x.rank then t.ofCheckpoint x.body x.dest x.window else { t with status := .exited }))
      { s with revived := s.revived.filter fun y => y.key != key }

/-- Places pack k of a launch (R325). -/
def State.dispatchPack (s : State) (l : Launch) (k cluster : Nat) (cores tiles buses : List Nat) : State :=
  let key := l.id * 2 ^ 24 + k
  let s1 := s.launchWindow l
  let s2 := cores.zipIdx.foldl (fun a c => a.startCore l key c.1 c.2) s1
  let s3 := tiles.foldl State.startTile s2
  let s4 := buses.foldl State.startBus s3
  let p : Pack := { key := key, cluster := cluster, cores := cores, tiles := tiles, buses := buses, out := none, kennel := none,
                    units := 0, gone := [], astray := [], unacked := [], saved := [], fixed := false, savedAt := 0,
                    order := s4.nextOrder, saving := false, killing := false }
  ({ s4 with packs := s4.packs ++ [p] }.placed l k).applyRevival key cores

/-- The pack that a launch runs next is out: a restore serves it (R327). -/
def State.nextIsOut (s : State) (l : Launch) : Bool :=
  match l.left with
  | [] => false
  | k :: _ => (s.pack? (l.id * 2 ^ 24 + k)).any fun p => p.out.isSome

/-- A launch that could run but for its launch window waits for room in the trail, which STALLS counts once (R375). -/
def State.stallLaunch (s : State) (l : Launch) : Option State :=
  if l.stalled || !(s.servable l && s.fits l) || s.windowRoom l then none
  else (s.region? l.region).map fun r => (s.countStall r 64).setLaunch { l with stalled := true }

/-- DISPATCH (R325, R326): the launch that is served next places its next pack on a cluster where it fits. -/
def execDispatch (s : State) : Out :=
  match s.ev with
  | some (.dispatch lid cluster) =>
    match (s.launch? lid).bind s.stallLaunch with
    | some s1 => .next s1
    | none =>
      match s.nextServed with
      | none => notNow "DISPATCH"
      | some l =>
        if l.id ≠ lid ∨ s.nextIsOut l = true then notNow "DISPATCH"
        else
          match l.left, s.placesOn s.resident l cluster with
          | k :: _, some (cores, tiles, buses) => .next (s.dispatchPack l k cluster cores tiles buses)
          | _, _ => notNow "DISPATCH"
  | _ => notNow "DISPATCH"

/-! ### The end of a pack (R154, R328) -/

/-- Every thread of a resident pack has exited, and its accesses are performed: those outside the domain, and those that still
wait on a held page (R154, R290). -/
def State.packDone (s : State) (p : Pack) : Bool :=
  p.out.isNone && !p.killing && !(s.held.any fun h => h.op.orders && h.ctx.pack == p.key)
    && (s.threadsOf p).all fun g => (s.thread g).status == .exited && (s.thread g).unacked.isEmpty

/-- PACK_END (R154, R328). -/
def execPackEnd (s : State) : Out :=
  match s.ev with
  | some (.packEnd key) =>
    match s.pack? key with
    | some p => if s.packDone p then .next ((s.freePack p true).makeReady) else notNow "PACK_END"
    | none => notNow "PACK_END"
  | _ => notNow "PACK_END"

/-! ### Region kill (R355) -/

/-- Kills that have become complete: DONE advances for each (R355). -/
def State.finishKills (s : State) : State :=
  let ended := fun (ids : List Nat) => ids.all fun i => (s.launch? i).isNone
  let done := s.cfield 0x3030 63 32 + (s.kills.filter ended).length
  { s with kills := s.kills.filter fun ids => !ended ids }.setCfield 0x3030 63 32 done

/-- The launches whose chain holds an RCB. -/
def State.launchesUnder (s : State) (rcb : Nat) : List Nat :=
  (s.launches.filter fun l => (s.region? l.region).any fun r => r.chain.contains rcb).map fun l => l.id

/-- A region kill reaches the RCB that it names (R355): every launch whose chain holds it is killed. An RCB on a held page is
waited for (R335). -/
def State.regionKill (s : State) (asid : BitVec 16) (rcb : Word) (h : Option Hold) : State :=
  let ag : Agent := { core := 0, lid := 0, pack := none, asid := asid }
  let kill := fun (a : State) (ids : List Nat) =>
    let b := ids.foldl (fun x i => x.killLaunch i) a
    { b with kills := b.kills ++ [ids] }.finishKills.makeReady
  match s.locate ag rcb .load with
  | .ok (.dev pa) _ => kill s (s.launchesUnder pa)
  | .held =>
    match s.keepHold ag h rcb with
    | some x => { s with killWaits := s.killWaits ++ [(asid, rcb, x)] }
    | none => kill s []
  | _ => kill s []

/-- The region kills that wait for a held page try again where they may. -/
def State.retryKills (s : State) : State :=
  s.killWaits.foldl (fun a k =>
    if a.retries (some k.2.2) then { a with killWaits := a.killWaits.erase k }.regionKill k.1 k.2.1 (some k.2.2) else a) s

/-- REGION_KILL (R355). -/
def execRegionKill (s : State) : Out :=
  match s.ev with
  | some (.regionKill asid rcb) =>
    .next ((s.setCfield 0x3030 31 0 (s.cfield 0x3030 31 0 + 1)).regionKill asid rcb none)
  | _ => notNow "REGION_KILL"

end Sys2Proof.Machine
end

