-- ==== Sys2Proof/Machine/Blocks.lean ====
section
/-! DEFINITION. The bytes of thread blocks, ring contexts, tile blocks and bus blocks, which the kennel and the readback
window share (spec/20 R359-R362, spec/22 R390), and reading them back with the checks of R365. -/

namespace Sys2Proof.Machine

/-! ### Thread blocks (R360) -/

/-- The TAG field: the tag of a pending register, the poison value of a poisoned one, 0 of a full one. -/
def tagBytes (t : Thread) (tag : Nat → Nat) : List Byte :=
  (List.range 144).flatMap fun i =>
    natLe 4 (match t.rstate i with
      | .full => 0
      | .pending _ => tag i
      | .poisoned pv => pv.toNat)

/-- A thread block up to its completion slots. -/
def threadHead (t : Thread) (tag : Nat → Nat) : List Byte :=
  slice (slice (natLe 8 t.pc.toNat ++ natLe 1 (boolNat (t.status == .parked)) ++ natLe 1 0 ++ natLe 2 t.rank ++ natLe 2 t.asid.toNat
      ++ natLe 2 t.trapidx.toNat ++ controlBytes t ++ natLe 8 (counterWord t) ++ natLe 4 t.nlaunch.toNat) 0 0x60
    ++ regsBytes t) 0 0x100
  ++ stateBytes t ++ tagBytes t tag ++ valueBytes t

/-- The thread block of a resident thread: pending tags carry KEN = 0 (R390). -/
def residentBlock (t : Thread) : List Byte :=
  slice (threadHead t fun i => match t.rstate i with
    | .pending b => b.toNat
    | _ => 0) 0 0xF000

/-- A tag with KEN = 1 (R30, R51). -/
def kennelTag (epoch cls slot : Nat) : Nat := epoch % 256 * 2 ^ 24 + cls % 16 * 2 ^ 20 + 2 ^ 19 + slot

/-- A completion slot as a save leaves it (R361). -/
def slotBytes (tag reg : Nat) (old : Vec) : List Byte :=
  slice (slice (natLe 4 tag ++ natLe 1 0 ++ natLe 1 reg) 0 0x20 ++ natLe 256 old.toNat) 0 288

/-- The kennel tag of the n-th pending register, i, of a thread: EPOCH and CLASS are kept (R51). -/
def savedTag (t : Thread) (n i : Nat) : Nat :=
  match t.rstate i with
  | .pending b => kennelTag (bits b 31 24) (bits b 23 20) n
  | _ => 0

/-- The thread block of a save (R310, R360, R361). -/
def savedBlock (t : Thread) : List Byte :=
  let ps := t.pendingRegs
  slice (threadHead t (fun i => savedTag t (ps.idxOf i) i)
    ++ (ps.zipIdx.flatMap fun x => slotBytes (savedTag t x.2 x.1) x.1 (t.value x.1))) 0 0xF000

/-! ### Ring contexts (R359) -/

/-- The 1,024 bytes of marks. -/
def markBytes (r : Ring) : List Byte :=
  tabulate 1024 fun k => BitVec.ofNat 8 (tget 0 r.marks (4 * k) + 4 * tget 0 r.marks (4 * k + 1)
    + 16 * tget 0 r.marks (4 * k + 2) + 64 * tget 0 r.marks (4 * k + 3))

/-- A ring context: 1,152 bytes. -/
def ringBlock (r : Ring) (bound : Bool) : List Byte :=
  slice (natLe 8 r.base.toNat ++ natLe 1 r.log2n ++ natLe 1 0 ++ natLe 2 (r.eb / 128) ++ natLe 4 r.fill.toNat
    ++ natLe 4 r.free.toNat ++ natLe 1 (boolNat r.reset + 2 * boolNat bound)) 0 0x40 ++ slice (markBytes r) 0 1088

/-- A sequencer is bound to a ring (R226). -/
def State.ringBound (s : State) (key : Nat) : Bool :=
  (List.range 36).any fun q => (s.seqr q).inr == some key || (s.seqr q).str == some key

/-- The sixteen ring contexts of a core. -/
def State.ringBlocks (s : State) (core : Nat) : List Byte :=
  (List.range 16).flatMap fun r => ringBlock (s.ring (core * 16 + r)) (s.ringBound (core * 16 + r))

/-- The marks of 1,024 bytes: the entries that are not empty. -/
def marksOf (bs : List Byte) : Table Nat :=
  (List.range 4096).filterMap fun q =>
    let m := nbits (fieldAt bs (q / 4) 1) (2 * (q % 4) + 1) (2 * (q % 4))
    if m = 0 then none else some (q, m)

/-- A ring context read back; none where it is corrupt (R365). -/
def ringOfBytes (bs : List Byte) (asid : BitVec 16) : Option Ring :=
  let r : Ring :=
    { base := BitVec.ofNat 64 (fieldAt bs 0 8), asid := asid, log2n := fieldAt bs 8 1, eb := fieldAt bs 0x0A 2 * 128,
      fill := BitVec.ofNat 32 (fieldAt bs 0x0C 4), free := BitVec.ofNat 32 (fieldAt bs 0x10 4),
      marks := marksOf (slice bs 0x40 1024), reset := fieldAt bs 0x14 1 % 2 == 1 }
  if (r.marks.any fun m => m.2 == 3)
      || (r.reset && !(decide (1 ≤ r.log2n) && decide (r.log2n ≤ 12) && decide (1 ≤ r.eb / 128) && decide (r.eb / 128 ≤ 8192)))
    then none
  else some r

/-! ### Sequencers (R362) -/

/-- A ring reference in 11 bits; 2^11 says unbound (DESIGN CHOICE, notes/assumptions/13.md). -/
def refOf (key : Option Nat) : Nat :=
  match key with
  | none => 2 ^ 11
  | some k => k % 2 ^ 11

/-- u64 values, one after another. -/
def words64 (xs : List Nat) : List Byte := xs.flatMap (natLe 8)

/-- The address of the program that runs; 0 without one. -/
def Seqr.program (x : Seqr) : Nat :=
  match x.cmd with
  | none => 0
  | some c => c.prog.toNat

/-- The registration field: [3] registered, [2:0] selector. -/
def Seqr.registration (x : Seqr) : Nat :=
  match x.sel with
  | none => 0
  | some k => 8 + k

/-- The u64 values of a tile block. -/
def tileWords (x : Seqr) : List Nat :=
  let c := x.conf
  [c.upc] ++ c.lc ++ [c.wd, c.g, c.fmt, c.fmta, c.scm, c.scx, boolNat c.mode, c.acc, refOf x.inr, x.inq.toNat, refOf x.str,
    x.stq.toNat, x.windex.toNat, x.optr.toNat, x.dcnt.toNat, x.registration, x.program, x.par.obase.toNat, x.par.ostep.toNat,
    x.par.opitch, x.par.phaser.toNat, x.par.srkey.toNat, x.par.srctr.toNat, x.completion false]

/-- A tile block: 132 KiB. -/
def State.tileBlock (s : State) (t : Nat) : List Byte :=
  slice (words64 (tileWords (s.seqr t))) 0 0x1000
    ++ (List.range 4).flatMap fun k => (s.accSet t k).flatMap fun a => natLe 4 a.toNat

/-- The u64 values of a bus block. -/
def busWords (b frame : Nat) (x : Seqr) : List Nat :=
  let c := x.conf
  [b, c.upc] ++ c.lc ++ [c.wd, c.fmt, c.scm, c.scx, refOf x.inr, x.inq.toNat, x.windex.toNat, frame, x.par.start, x.program,
    x.completion true]

/-- A bus block: 4 KiB. -/
def State.busBlock (s : State) (b : Nat) : List Byte :=
  slice (words64 (busWords b (s.bus b).frame.toNat (s.seqr (32 + b)))) 0 0x1000

/-- The fields gathered so far, from a partial completion word; REFALL (bit 25) is the two facts that it is made of (R273). -/
def SDone.ofWord (d : SDone) (w : Nat) (tx : Bool) : SDone :=
  let b := fun i => nbits w i i == 1
  if tx then { d with frames := nbits w 63 40, degr := b 31, flush := b 28, nansc := b 27 }
  else { d with frames := nbits w 63 40, flags := BitVec.ofNat 5 (nbits w 36 32), degr := b 31, sat := b 30, promo := b 29,
                flush := b 28, nansc := b 27, skew := b 26, drains := nbits w 23 16, anyRun := d.anyRun || b 25
                allRef := b 25 || (d.allRef && !d.anyRun) }

/-- A ring reference read back, for a cluster. -/
def refBack (cluster k : Nat) : Option Nat := if k = 2 ^ 11 then none else some (cluster * 2 ^ 11 + k)

/-- The limits of R243 and R245 that both sides share. -/
def confLimits (upc wd fmt scm scx inr inq windex : Nat) (lc : List Nat) : Bool :=
  decide (upc < 2 ^ 16) && lc.all (fun l => decide (l < 2 ^ 32)) && decide (2 ≤ wd) && decide (wd ≤ 128) && decide (fmt < 3)
    && decide (scm < 2) && decide (scx < 256) && (scm == 0 || decide (scx ≤ 0xFE)) && decide (inr ≤ 2 ^ 11)
    && decide (inq < 2 ^ 32) && decide (windex < 2 ^ 32)

/-- The command with the program address as read back. -/
def Seqr.cmdAt (x : Seqr) (prog : Nat) : Option SCmd := x.cmd.map fun c => { c with prog := BitVec.ofNat 64 prog }

/-- A receive sequencer read back from a tile block; none where it is corrupt (R365). -/
def seqrOfTile (x : Seqr) (cluster : Nat) (bs : List Byte) : Option Seqr :=
  let w := fun k => fieldAt bs (8 * k) 8
  let lc := [w 1, w 2, w 3, w 4]
  if confLimits (w 0) (w 5) (w 7) (w 9) (w 10) (w 13) (w 14) (w 17) lc && decide (8 ≤ w 6) && decide (w 6 ≤ 26) && decide (w 8 < 4)
      && decide (w 11 < 2) && decide (w 12 < 4) && decide (w 15 ≤ 2 ^ 11) && decide (w 16 < 2 ^ 32) && decide (w 19 < 2 ^ 32)
      && decide (w 20 < 16) && decide (w 24 < 2 ^ 32) then
    some { x with
      cmd := x.cmdAt (w 21)
      conf := { upc := w 0, lc := lc, wd := w 5, g := w 6, fmt := w 7, fmta := w 8, scm := w 9, scx := w 10,
                mode := w 11 == 1, acc := w 12 }
      inr := refBack cluster (w 13), inq := BitVec.ofNat 32 (w 14), str := refBack cluster (w 15), stq := BitVec.ofNat 32 (w 16)
      windex := BitVec.ofNat 32 (w 17), optr := BitVec.ofNat 64 (w 18), dcnt := BitVec.ofNat 32 (w 19)
      sel := if 8 ≤ w 20 then some (w 20 - 8) else none
      par := { x.par with obase := BitVec.ofNat 64 (w 22), ostep := BitVec.ofNat 64 (w 23), opitch := w 24,
                          phaser := BitVec.ofNat 64 (w 25), srkey := BitVec.ofNat 64 (w 26), srctr := BitVec.ofNat 64 (w 27) }
      sdone := x.sdone.ofWord (w 28) false, stop := false, rests := false }
  else none

/-- A transmit sequencer and its FRAME read back from a bus block; none where it is corrupt (R365). -/
def seqrOfBus (x : Seqr) (cluster : Nat) (bs : List Byte) : Option (Seqr × BitVec 32) :=
  let w := fun k => fieldAt bs (8 * k) 8
  let lc := [w 2, w 3, w 4, w 5]
  if confLimits (w 1) (w 6) (w 7) (w 8) (w 9) (w 10) (w 11) (w 12) lc && decide (w 13 < 2 ^ 32) then
    some ({ x with
      cmd := x.cmdAt (w 15)
      conf := { x.conf with upc := w 1, lc := lc, wd := w 6, fmt := w 7, scm := w 8, scx := w 9 }
      inr := refBack cluster (w 10), inq := BitVec.ofNat 32 (w 11), windex := BitVec.ofNat 32 (w 12)
      par := { x.par with start := w 14 }
      sdone := x.sdone.ofWord (w 16) true, stop := false, rests := false }, BitVec.ofNat 32 (w 13))
  else none

end Sys2Proof.Machine
end

