-- ==== Sys2Proof/Machine/Kennel.lean ====
section
/-! DEFINITION. Pre-emption, save and restore (spec/18 R327, spec/20 R357-R366, spec/10 R266, spec/17 R310, R311). -/

namespace Sys2Proof.Machine

/-! ### The arena (R357, R358) -/

/-- Units of the kennel of a pack of a launch (R358). -/
def kennelUnits (l : Launch) (tiles buses : Nat) : Nat :=
  (4096 + l.cores * coreBlockBytes l.tpc l.pb2 + tiles * 0x21000 + buses * 4096 + 2 ^ 21 - 1) / 2 ^ 21

/-- Whether units [u, u + n) of the arena are held by no kennel. -/
def State.unitsFree (s : State) (u n : Nat) (more : List (Nat × Nat)) : Bool :=
  let held := (s.packs.filterMap fun p => p.kennel.map fun k => (k, p.units)) ++ more
  held.all fun h => decide (u + n ≤ h.1) || decide (h.1 + h.2 ≤ u)

/-- The lowest n contiguous free units of the arena, beside units that are about to be taken. -/
def State.findUnits (s : State) (n : Nat) (more : List (Nat × Nat)) : Option Nat :=
  let size := s.cfield 0x3008 31 0
  (0 :: (s.packs.filterMap fun p => p.kennel.map fun k => k + p.units) ++ more.map fun m => m.1 + m.2).foldl (fun a u =>
    if u + n ≤ size && s.unitsFree u n more then
      some (match a with
        | none => u
        | some v => min u v)
    else a) none

/-! ### Pre-emption (R266, R327) -/

/-- The session buses that a pack holds a member of, whether or not the transmitter runs a program (R250, R266). -/
def State.sessionsOf (s : State) (p : Pack) : List Nat := p.buses ++ p.tiles.filterMap fun t => (s.seqr t).sel

/-- The packs of the same launch that hold a member of a session of p, p first (R266). -/
def State.fellows (s : State) (p : Pack) : List Pack :=
  let grow := fun (ps : List Pack) =>
    let buses := ps.flatMap s.sessionsOf
    s.resident.filter fun q =>
      q.key == p.key || (q.key / 2 ^ 24 == p.key / 2 ^ 24 && (s.sessionsOf q).any fun b => buses.contains b)
  let all := (List.range 32).foldl (fun ps _ => grow ps) [p]
  p :: all.filter fun q => q.key != p.key

/-- Kennels for packs, one after another; none where one does not fit the free arena (R358). -/
def State.reserveAll (s : State) (more : List (Nat × Nat)) : List Pack → Option (List (Nat × Nat × Nat) × List (Nat × Nat))
  | [] => some ([], more)
  | p :: r =>
    match s.launch? (p.key / 2 ^ 24) with
    | none => none
    | some l =>
      let n := kennelUnits l p.tiles.length p.buses.length
      match s.findUnits n more with
      | none => none
      | some u => (s.reserveAll ((u, n) :: more) r).map fun x => ((p.key, u, n) :: x.1, x.2)

/-- What forming a list of victims comes to: the packs with their kennels, the victims passed over, and whether the pack then
fits (R327, R358). -/
structure Victims where
  taken : List (Nat × Nat × Nat)
  more : List (Nat × Nat)
  /-- The highest region priority and the number of the victims. -/
  prio : Nat
  count : Nat
  denied : List Nat
  fits : Bool
  deriving DecidableEq, Repr

/-- The region priority of a pack. -/
def State.packPrio (s : State) (p : Pack) : Nat := ((s.regionOf p.key).map (·.prio)).getD 0

/-- x put before the first element that does not come before it. -/
def insertBy {α : Type} (before : α → α → Bool) (x : α) : List α → List α
  | [] => [x]
  | y :: r => if before x y then x :: y :: r else y :: insertBy before x r

/-- The buses that a restore of a launch's next pack is held for: those that it left (R311). -/
def State.leftBuses (s : State) (l : Launch) : List Nat :=
  ((l.left.head?.bind fun k => s.pack? (l.id * 2 ^ 24 + k)).filter fun p => p.out.isSome && p.fixed).toList.flatMap (·.buses)

/-- The packs of a cluster that a launch may pre-empt, and those that hold a bus that its next pack left, wherever they are
(R311): lowest region priority first, then the most recently dispatched (R327); a halted region's packs are not pre-empted
(R379). -/
def State.candidates (s : State) (l : Launch) (cluster : Nat) : List Pack :=
  let left := s.leftBuses l
  let before := fun (a b : Pack) =>
    decide (s.packPrio a < s.packPrio b) || (s.packPrio a == s.packPrio b && decide (b.order ≤ a.order))
  (s.resident.filter fun p => (p.cluster == cluster || p.buses.any left.contains) && !p.killing && !p.saving
    && decide (s.packPrio p + 2 ≤ s.prioOf l)
      && !((s.launch? (p.key / 2 ^ 24)).any s.isHalted)).foldr (insertBy before) []

/-- The packs that stay when those that leave, and the victims, are gone. -/
def State.staying (s : State) (v : Victims) : List Pack :=
  s.resident.filter fun p => !p.killing && !p.saving && !(v.taken.any fun x => x.1 == p.key)

/-- Takes victims in order until the pack fits on the cluster. -/
def State.takeVictims (s : State) (l : Launch) (cluster : Nat) (v : Victims) : List Pack → Victims
  | [] => v
  | p :: r =>
    if v.fits then v
    else if v.taken.any fun x => x.1 == p.key then s.takeVictims l cluster v r
    else
      let group := (s.fellows p).filter fun q => !(v.taken.any fun x => x.1 == q.key) && !q.saving && !q.killing
      match s.reserveAll v.more group with
      | none => s.takeVictims l cluster { v with denied := v.denied ++ [p.key] } r
      | some (got, more) =>
        let w := { v with taken := v.taken ++ got, more := more, prio := max v.prio (s.packPrio p), count := v.count + 1 }
        s.takeVictims l cluster { w with fits := (s.placesOn (s.staying w) l cluster).isSome } r

/-- The victims on a cluster. -/
def State.victimsOn (s : State) (l : Launch) (cluster : Nat) : Victims :=
  s.takeVictims l cluster { taken := [], more := [], prio := 0, count := 0, denied := [], fits := false } (s.candidates l cluster)

/-- Whether a list of victims is the better choice (R327). -/
def Victims.better (a b : Victims) : Bool := decide (a.prio < b.prio) || (a.prio == b.prio && decide (a.count < b.count))

/-- Whether pre-emption on a cluster is what R327 gives for a launch: its pack fits nowhere, nor will it once the packs that
are leaving have left, and no other cluster is the better choice. -/
def State.mayPreempt (s : State) (l : Launch) (cluster : Nat) : Bool :=
  let none_ : Victims := { taken := [], more := [], prio := 0, count := 0, denied := [], fits := false }
  let v := s.victimsOn l cluster
  s.servable l && !s.fits l && !((List.range 8).any fun c => (s.placesOn (s.staying none_) l c).isSome) && v.fits
    && (clustersOf l.clmask).all fun c => !((s.victimsOn l c).fits && (s.victimsOn l c).better v)

/-- A victim will be saved: its kennel is reserved, and its sequencers stop at the next frame boundary (R363). -/
def State.chooseVictim (s : State) (x : Nat × Nat × Nat) : State :=
  match s.pack? x.1 with
  | none => s
  | some p =>
    let s1 := s.setPack { p with saving := true, kennel := some x.2.1, units := x.2.2 }
    let s2 := s1.setCfield 0x3010 31 0 (s1.cfield 0x3010 31 0 + x.2.2)
    p.seqrs.foldl (fun a q => a.setSeqr q { a.seqr q with stop := true }) s2

/-- The victims passed over that DENIED does not count yet: a launch passes over a pack once. -/
def Victims.fresh (v : Victims) (l : Launch) : List Nat := v.denied.filter fun k => !l.passed.contains k

/-- DENIED advances for each victim passed over (R357, R358). -/
def State.deny (s : State) (l : Launch) (ks : List Nat) : State :=
  (s.setCfield 0x3018 31 0 (s.cfield 0x3018 31 0 + ks.length)).setLaunch { l with passed := l.passed ++ ks }

/-- PRE_EMPTION (R327). -/
def execPreEmption (s : State) : Out :=
  match s.ev with
  | some (.preEmption lid cluster) =>
    match s.launch? lid with
    | none => notNow "PRE_EMPTION"
    | some l =>
      let v := s.victimsOn l cluster
      if s.mayPreempt l cluster then .next ((v.taken.foldl State.chooseVictim s).deny l (v.fresh l))
      else if s.servable l && !s.fits l && !v.fits && !(v.fresh l).isEmpty then .next (s.deny l (v.fresh l))
      else notNow "PRE_EMPTION"
  | _ => notNow "PRE_EMPTION"

/-! ### Names of what moves with a pack -/

/-- Replaces cores in the places of waits, of registered phasers and of flips, and in the rings that commands and sequencers
name. -/
def State.moveCores (s : State) (f : Nat → Nat) : State :=
  let pl := fun (p : Place) => match p with
    | .pool c z o => Place.pool (f c) z o
    | x => x
  let key := fun (k : Nat) => f (k / 16) * 16 + k % 16
  { s with
    phWaits := s.phWaits.map fun w => { w with place := pl w.place }
    semWaits := s.semWaits.map fun w => { w with place := pl w.place }
    phasers := s.phasers.map pl
    phOwners := s.phOwners.map fun o => (pl o.1, o.2)
    flips := s.flips.map fun x => { x with place := pl x.place }
    ringWaits := s.ringWaits.map fun w => { w with ring := key w.ring }
    copies := s.copies.map fun c => { c with ring := c.ring.map key }
    seqrs := s.seqrs.map fun x =>
      (x.1, { x.2 with inr := x.2.inr.map key, str := x.2.str.map key
                       unfreed := x.2.unfreed.map fun u => { u with ring := key u.ring } }) }

/-- Replaces the issuer in everything that a pack's commands keep of it. -/
def State.moveCtx (s : State) (f : Ctx → Ctx) : State :=
  let t := fun (x : ITag × Ctx) => (x.1, f x.2)
  let cmd := fun (c : SCmd) => { c with ctx := f c.ctx }
  let run := fun (r : CollRun) => { r with ctx := f r.ctx }
  { s with
    flying := s.flying.map fun x => { x with ctx := f x.ctx }
    phWaits := s.phWaits.map fun x => { x with ctx := f x.ctx }
    semWaits := s.semWaits.map fun x => { x with ctx := f x.ctx }
    ringWaits := s.ringWaits.map fun x => { x with ctx := f x.ctx }
    held := s.held.map fun x => { x with ctx := f x.ctx }
    probes := s.probes.map fun x => { x with ctx := f x.ctx }
    copies := s.copies.map fun x => { x with ctx := f x.ctx }
    arming := s.arming.map fun x => { x with ctx := f x.ctx }
    disarming := s.disarming.map fun x => { x with ctx := f x.ctx }
    collBars := s.collBars.map fun x => { x with ctx := f x.ctx }
    childReqs := s.childReqs.map fun x => { x with ctx := f x.ctx }
    launches := s.launches.map fun l => { l with endTag := l.endTag.map t }
    colls := s.colls.map fun x => (x.1, { x.2 with ctx := f x.2.ctx, run := x.2.run.map run })
    seqrs := s.seqrs.map fun x =>
      (x.1, { x.2 with cmd := x.2.cmd.map cmd, line := x.2.line.map cmd, leaves := x.2.leaves.map t
                       join := x.2.join.map fun j => { j with fut := j.fut.map t } }) }

/-! ### Writing a kennel -/

/-- Replaces device memory in [lo, hi) by cells, as writes of the D4: timestamps, marks, phasers with a registration and
trail entries are treated as every write treats them. -/
def State.bulk (s : State) (lo hi : Nat) (cells : List Host.Cell) : State :=
  let t := s.ltime + 1
  let s0 := s.spoil (.dev lo) (hi - lo)
  let hit := s0.phasers.filter fun p => match p with
    | .dev a => decide (lo ≤ a) && decide (a < hi)
    | _ => false
  let s1 := { s0 with
    mem := cells.foldl (fun m c => mset m c.1 c.2) (mclear s0.mem lo hi)
    ltime := t + 1
    marks := s0.marks.filter fun m => match m with
      | .hbm g => !(decide (lo ≤ 32 * g) && decide (32 * g < hi))
      | .l2 g => !(decide (lo ≤ 8 * g) && decide (8 * g < hi))
      | _ => true
    lines := s0.lines.map fun x => if lo / 128 ≤ x.1 ∧ x.1 < hi / 128 then (x.1, (t, x.2.2)) else x }
  hit.foldl (fun a p => a.breakPhaser p) s1

/-- The bytes of a core's SPM and STG as cells of a kennel whose core block starts at pa. -/
def State.poolCells (s : State) (core lo hi pa : Nat) : List Host.Cell :=
  (s.pool.filter fun c => decide (core * 2 ^ 21 + lo ≤ c.1) && decide (c.1 < core * 2 ^ 21 + hi)).map fun c =>
    (c.1 - (core * 2 ^ 21 + lo) + (pa + 0x5000), c.2)

/-- Soft-error marks of the pool and of accumulators move to the kennel's lines, where a restore finds them (R365, R415). -/
def State.poolMarks (s : State) (core lo hi pa : Nat) : List Mark :=
  s.marks.filterMap fun m => match m with
    | .pool g =>
      if core * 2 ^ 21 + lo ≤ 8 * g ∧ 8 * g < core * 2 ^ 21 + hi then
        some (.l2 ((8 * g - (core * 2 ^ 21 + lo) + (pa + 0x5000)) / 8))
      else none
    | _ => none

/-- The marks of a core's ring contexts as marks of its core block at pa (R359). -/
def State.ringMarks (s : State) (core pa : Nat) : List Mark :=
  s.marks.filterMap fun m => match m with
    | .ring k n => if k / 16 = core then some (.l2 ((pa + 0x100 + 1152 * (k % 16) + 8 * n) / 8)) else none
    | _ => none

/-- The marks of a tile's accumulators as marks of its tile block at pa. -/
def State.tileMarks (s : State) (tile pa : Nat) : List Mark :=
  s.marks.filterMap fun m => match m with
    | .acc t n => if t = tile then some (.l2 ((pa + 0x1000 + 8 * n) / 8)) else none
    | _ => none

/-- The u64 values of the pack header (R358). -/
def packHeader (p : Pack) (l : Launch) (now : Nat) : List Byte :=
  let mask := p.buses.foldl (fun a b => a + 2 ^ b) 0
  slice (slice (words64 [0x4B4E0004, l.id, p.key % 2 ^ 24, l.cores, l.tpc, l.pb1, l.pb2, l.tmask, mask, p.cluster, l.asid.toNat,
      l.rcbVa.toNat, now]) 0 0x100
    ++ slice (p.cores.flatMap fun c => natLe 1 (c % 128)) 0 0x80 ++ ((p.tiles ++ p.buses).flatMap (natLe 1))) 0 0x1000

/-- Where the core blocks, tile blocks and bus blocks of a kennel start (R358). -/
def coreBlockAt (base : Nat) (l : Launch) (i : Nat) : Nat := base + 4096 + i * coreBlockBytes l.tpc l.pb2
/-- Tile block i. -/
def tileBlockAt (base : Nat) (l : Launch) (i : Nat) : Nat := coreBlockAt base l l.cores + i * 0x21000
/-- Bus block i. -/
def busBlockAt (base : Nat) (l : Launch) (tiles i : Nat) : Nat := tileBlockAt base l tiles + i * 4096
/-- Thread block j of core block i. -/
def threadBlockAt (base : Nat) (l : Launch) (i j : Nat) : Nat :=
  coreBlockAt base l i + 0x5000 + (l.pb2 - 4 * l.tpc) * 4096 + j * 0xF000

/-- The core header: number, boundaries, bindings saved pending (R359). -/
def State.coreHeader (s : State) (core : Nat) : List Byte :=
  let k := s.core core
  let n := ((List.range 8).map fun i => (s.thread (core * 8 + i)).pendingRegs.length).foldl (· + ·) 0
  slice (words64 [core % 128, k.pb0, k.pb1, k.pb2, n]) 0 0x100

/-- A thread whose pending registers show the EPOCH and CLASS of their issue tags, which a kennel keeps (R34, R51). -/
def State.issueThread (s : State) (g : Nat) : Thread :=
  (s.thread g).pendingRegs.foldl (fun t i =>
    match s.binds.find? fun b => b.loc == .reg g i with
    | some b => t.setState i (.pending (tagBits b.tag.epoch b.tag.cls b.tag.slot))
    | none => t) (s.thread g)

/-- The kennel image of a pack at a base address (R358-R362). -/
def State.writeKennel (s : State) (p : Pack) (l : Launch) (base units : Nat) : State :=
  let lo := 4 * l.tpc * 4096
  let hi := l.pb2 * 4096
  let cells := p.cores.zipIdx.flatMap fun c => s.poolCells c.1 lo hi (coreBlockAt base l c.2)
  let marks := (p.cores.zipIdx.flatMap fun c =>
      s.poolMarks c.1 lo hi (coreBlockAt base l c.2) ++ s.ringMarks c.1 (coreBlockAt base l c.2))
    ++ p.tiles.zipIdx.flatMap fun t => s.tileMarks t.1 (tileBlockAt base l t.2)
  let s1 := s.bulk base (base + units * 2 ^ 21) cells
  let s2 := s1.pokeN (.dev base) (packHeader p l s.now.toNat)
  let s3 := p.cores.zipIdx.foldl (fun a c =>
    let b := (a.pokeN (.dev (coreBlockAt base l c.2)) (s.coreHeader c.1 ++ s.ringBlocks c.1))
    (List.range l.tpc).foldl (fun d j => d.pokeN (.dev (threadBlockAt base l c.2 j)) (savedBlock (s.issueThread (c.1 * 8 + j)))) b) s2
  let s4 := p.tiles.zipIdx.foldl (fun a t => a.pokeN (.dev (tileBlockAt base l t.2)) (s.tileBlock t.1)) s3
  let s5 := p.buses.zipIdx.foldl (fun a b => a.pokeN (.dev (busBlockAt base l p.tiles.length b.2)) (s.busBlock b.1)) s4
  { s5 with marks := s5.marks ++ marks }

/-! ### Save (R363) -/

/-- The oldest outside-domain access of a thread is acknowledged (R72, R73). -/
def Thread.acked (t : Thread) : Thread :=
  match t.unacked with
  | [] => t
  | .done :: r => { t with unacked := r }
  | .dead :: r => { t with unacked := r, deadlink := satInc t.deadlink }
  | .refused :: r => { t with unacked := r, refused := satInc t.refused }

/-- Whether a copy command still writes into the pool of one of the cores. -/
def Copy.writesInto (cores : List Nat) (c : Copy) : Bool :=
  let ended := c.stage == .bar || c.stage == .flip
  (!ended && c.stage != .bins && intoPool cores c.ctx c.dst (spanBytes c.rowBytes c.rows c.dpitch))
    || (c.hist && !ended && intoPool cores c.ctx c.haddr 256)

/-- Whether a DRAIN under way still writes into the pool of one of the cores. -/
def Seqr.writesInto (cores : List Nat) (x : Seqr) : Bool :=
  decide (0 < x.row) && decide (x.row < 64) && x.cmd.any fun c => intoPool cores c.ctx x.optr (spanBytes 512 64 x.par.opitch)

/-- A sequencer's windows that are over have been accumulated, but for one that waits for room in its status ring or for a held
page: that one stays with its sequencer. -/
def State.settled (s : State) (x : Seqr) : Bool := x.closed.isEmpty || !s.statusRoom x 0 || x.hold.isSome

/-- The pack has reached the point of step 1 of R363: no frame of a session holds it. Its threads stop from here on (step 2). -/
def State.sessionsQuiet (s : State) (p : Pack) : Bool :=
  p.seqrs.all fun q =>
    let x := s.seqr q
    x.busy.isNone && s.settled x && (x.run.all fun w => w.frame.isNone) && !x.draining

/-- A save waits for a copy command: it is the pack's own and needs its rings, SPM or STG, or it is another's that writes there.
It does not wait for one that stays queued at its engine, for one held at the phaser of a pack that is out, nor for one that
waits for its own pack to come back (R363, R364). -/
def State.saveAwaits (s : State) (p : Pack) (c : Copy) : Bool :=
  ((c.ctx.pack == p.key && c.needsPack) || c.writesInto p.cores) && !s.queuedCopies.contains c
    && !(c.stage == .bar && c.bar && s.awayPhaser c.barAt) && !(c.needsPack && s.packOut c.ctx.pack)

/-- The pack has reached the point of step 4 of R363: its sessions are quiet, and no engine, of whatever pack, writes into its
SPM and STG. -/
def State.saveReady (s : State) (p : Pack) : Bool :=
  s.sessionsQuiet p && !(s.copies.any (s.saveAwaits p)) && !(s.seqrs.any fun x => x.2.writesInto p.cores)

/-- A thread whose pack is being saved has stopped at an instruction boundary (R363). -/
def State.stopped (s : State) (g : Nat) : Bool :=
  (s.pack? (s.thread g).pack).any fun p => p.saving && s.sessionsQuiet p

/-- Whether the saved state binds a pack to the places that it left (R311, R366). -/
def State.isFixed (s : State) (p : Pack) : Bool :=
  (p.cores.any fun c => (List.range 16).any fun r => (s.ring (c * 16 + r)).reset)
    || p.seqrs.any fun q =>
      let x := s.seqr q
      x.cmd.isSome || x.sel.isSome || x.join.isSome || x.inr.isSome || x.str.isSome

/-- The waits of the threads' instructions are abandoned. -/
def State.stopThreads (s : State) (p : Pack) : State :=
  (s.threadsOf p).foldl (fun a g => a.setThread g { a.thread g with hold := none }) s

/-- The accesses of a pack's threads that are not acknowledged yet, by rank: their acknowledgements are still to arrive, and a
release and a FENCE after the restore wait for them (R69, R72). -/
def State.unackedOf (s : State) (p : Pack) : List (Nat × List Fate) :=
  (s.threadsOf p).filterMap fun g =>
    let t := s.thread g
    if t.unacked = [] then none else some (t.rank, t.unacked)

/-- The bindings of a pack's registers move to completion slots; the pending-table entries come free (R51, R361). -/
def State.moveBinds (s : State) (p : Pack) (l : Launch) : State :=
  let own := fun (g : Nat) => p.cores.contains (coreOf g) && (s.thread g).pack == p.key
  { s with binds := s.binds.map fun b =>
      match b.loc with
      | .reg g i =>
        if own g then { b with loc := .slot p.key (p.cores.idxOf (coreOf g) * l.tpc + g % 8) ((s.thread g).pendingRegs.idxOf i) }
        else b
      | _ => b }

/-- RING.RESETs on their way to the pack's rings take effect before the save. -/
def State.landResets (s : State) (p : Pack) : State :=
  let mine := fun (f : Flight) => match f.res with
    | .reset key _ _ _ => p.cores.contains (key / 16)
    | _ => false
  (s.flying.filter mine).foldl (fun a f => a.arrive f) { s with flying := s.flying.filter fun f => !mine f }

/-- k put at the head of the remaining packs, in ascending order among those that are out (R327). -/
def insertPack (k : Nat) : List Nat → List Nat
  | [] => [k]
  | x :: r => if k < x then k :: x :: r else x :: insertPack k r

/-- Saves a pack into its kennel (R363). -/
def State.savePack (s0 : State) (p : Pack) (l : Launch) (unit : Nat) : State :=
  let s := (s0.landResets p).stopThreads p
  let gone := ((s.threadsOf p).filter fun g => (s.thread g).status == .exited).map fun g => (s.thread g).rank
  let astray := ((s.threadsOf p).filter fun g => !(s.thread g).positioned).map fun g => (s.thread g).rank
  let fixed := s.isFixed p
  let late := s.unackedOf p
  let s1 := (s.writeKennel p l (s.kennelPa unit) p.units).moveBinds p l
  let saved := p.seqrs.map fun q => (q, s1.seqr q)
  let s2 := p.seqrs.foldl (fun a q => a.setSeqr q idleSeqr) s1
  let s3 := p.tiles.foldl (fun a t => (List.range 4).foldl (fun b k => b.clearAccSet t k) a) s2
  let s4 := p.cores.foldl State.freshRings s3
  let s5 := (s4.emptyCores p).moveCores fun c => if p.cores.contains c then p.away c else c
  let s6 := s5.setPack { p with out := some unit, saving := false, gone := gone, astray := astray, saved := saved, fixed := fixed,
                                unacked := late, savedAt := s.now.toNat }
  let s7 := s6.setCfield 0x3018 63 32 (s6.cfield 0x3018 63 32 + 1)
  s7.setLaunch { l with left := insertPack (p.key % 2 ^ 24) l.left, since := s.now.toNat, holds := l.holds || s.mayHold l }

/-- SAVE (R363). -/
def execSave (s : State) : Out :=
  match s.ev with
  | some (.save key) =>
    match s.pack? key, s.launch? (key / 2 ^ 24) with
    | some p, some l =>
      match p.kennel with
      | some u => if p.saving && !p.killing && s.saveReady p then .next ((s.savePack p l u).makeReady) else notNow "SAVE"
      | none => notNow "SAVE"
    | _, _ => notNow "SAVE"
  | _ => notNow "SAVE"

/-! ### Restore (R53, R365) -/

/-- The checks of a thread block's registers (R365). -/
def threadCorrupt (bs : List Byte) : Bool :=
  ((List.range 144).any fun i =>
      let st := nbits (fieldAt bs (0x100 + i / 4) 1) (2 * (i % 4) + 1) (2 * (i % 4))
      let n := fieldAt bs (0x140 + 4 * i) 4 % 2 ^ 19
      let slot := 0x4600 + 288 * n
      st == 3 || (st == 1 && decide (n ≤ 140) && (decide (3 ≤ fieldAt bs (slot + 4) 1) || fieldAt bs (slot + 5) 1 != i)))
    || (List.range 8).any fun i =>
      fieldAt bs (0x60 + 16 * i) 8 != 0 && fieldAt bs (0x68 + 16 * i) 1 % 4 == 0

/-- A field of a kennel's header differs from that of the pack (R365). -/
def headerCorrupt (p : Pack) (l : Launch) (bs : List Byte) : Bool :=
  let want := packHeader p l p.savedAt
  let differs := fun (off n : Nat) => slice bs off n != slice want off n
  differs 0 104 || differs 0x100 p.cores.length || differs 0x180 (p.tiles.length + p.buses.length)

/-- What a restore's checks find (R365): a code of 0, or 0x50 for a soft error; none when the kennel is whole. -/
def State.kennelCorrupt (s : State) (p : Pack) (l : Launch) (base : Nat) : Option Nat :=
  let n := busBlockAt base l p.tiles.length p.buses.length - base
  if (s.firstMark (.dev base) 0 n).isSome then some 0x50
  else
    let at_ := fun (pa n : Nat) => s.peekN (.dev pa) n
    let rings := (List.range l.cores).any fun i => (List.range 16).any fun r =>
      (ringOfBytes (at_ (coreBlockAt base l i + 0x100 + 1152 * r) 1152) l.asid).isNone
    let threads := (List.range l.cores).any fun i => (List.range l.tpc).any fun j =>
      threadCorrupt (at_ (threadBlockAt base l i j) 0xF000)
    let tiles := (List.range p.tiles.length).any fun i => (seqrOfTile idleSeqr p.cluster (at_ (tileBlockAt base l i) 0x1000)).isNone
    let buses := (List.range p.buses.length).any fun i =>
      (seqrOfBus idleSeqr p.cluster (at_ (busBlockAt base l p.tiles.length i) 0x1000)).isNone
    if headerCorrupt p l (at_ base 4096) || rings || threads || tiles || buses then some 0 else none

/-- The fault record of a corrupt kennel, and the kill (R365). -/
def State.killCorrupt (s : State) (p : Pack) (l : Launch) (code : Nat) : State :=
  let frbase := ((s.region? l.region).map (·.frbase)).getD 0
  let (s1, idx) := s.writeRecord l.agent frbase
    { kind := 3, cause := 0, code := code, pc := 0, addr := 0, info := 0, w0 := 0, w1 := 0, gtid := 0, cls := 0,
      reason := Reason.corrupt, lid := l.id }
  let s2 := (s1.markFaulted p.key).killPack p.key
  if idx = 0xFFFF then s2 else s2.signal 2

/-- A pack's pool image, marks apart, goes back to a core (R365). -/
def State.restorePool (s : State) (core lo hi pa : Nat) : State :=
  let a := core * 2 ^ 21 + lo
  let cells := (s.mem.filter fun c => decide (pa + 0x5000 ≤ c.1) && decide (c.1 < pa + 0x5000 + (hi - lo))).map fun c =>
    (c.1 - (pa + 0x5000) + a, c.2)
  let s1 := s.zeroPool core lo hi
  { s1 with pool := cells.foldl (fun m c => mset m c.1 c.2) s1.pool }

/-- The state of register i in a thread block: full, poisoned, or pending with the kennel slot that it names. -/
def blockState (bs : List Byte) (i : Nat) : Nat := nbits (fieldAt bs (0x100 + i / 4) 1) (2 * (i % 4) + 1) (2 * (i % 4))

/-- The thread that a block holds, its pending registers left full (R365); reserved bits of its control registers do not go back
(R5). -/
def threadOfBlock (t : Thread) (bs : List Byte) : Thread :=
  let u := fun k => fieldAt bs (0x10 + 8 * k) 8
  let w := fun k => (BitVec.ofNat 64 (u k) : Word)
  let t := [(0x00, 0), (0x01, 1), (0x28, 2), (0x29, 3), (0x2A, 4), (0x30, 5), (0x38, 6)].foldl (fun a x => a.cwrite x.1 (w x.2)) t
  { t with
    pc := BitVec.ofNat 64 (fieldAt bs 0 8), asid := BitVec.ofNat 16 (fieldAt bs 0x0C 2), trapidx := BitVec.ofNat 16 (fieldAt bs 0x0E 2)
    packinfo := putBits t.packinfo 9 0 (fieldAt bs 0x0A 2)
    count := BitVec.ofNat 32 (u 7 / 2 ^ 32), deadlink := BitVec.ofNat 16 (u 7 / 2 ^ 16), refused := BitVec.ofNat 16 (u 7)
    nlaunch := BitVec.ofNat 32 (fieldAt bs 0x50 4)
    regs := regsOfBytes (slice bs 0x60 128)
    st := Vector.ofFn fun i : Fin 144 =>
      if blockState bs i.val = 2 then .poisoned (BitVec.ofNat 32 (fieldAt bs (0x140 + 4 * i.val) 4)) else .full
    s := Vector.ofFn fun i : Fin 64 => BitVec.ofNat 64 (fieldAt bs (0x380 + 8 * i.val) 8)
    p := Vector.ofFn fun i : Fin 16 => BitVec.ofNat 64 (fieldAt bs (0x580 + 8 * i.val) 8)
    v := Vector.ofFn fun i : Fin 64 => BitVec.ofNat 2048 (fieldAt bs (0x600 + 256 * i.val) 256) }

/-- A binding that a restored register waits under: its new entry. -/
def rebindReg (tag : ITag) (core e g i : Nat) (x : Bind) : Bind :=
  if x.tag = tag then { x with entryCore := core, entry := e, loc := .reg g i } else x

/-- The lowest entry of a core's pending table that no binding holds; a core that a pack returns to always has one (R53). -/
def State.spareSlot (s : State) (core : Nat) : Nat :=
  (findFrom (fun i => !(s.binds.any fun b => b.holder.isSome && b.entryCore == core && b.entry == i)) 0 512).getD 0

/-- A register that a save left pending: it takes what its slot holds, or, while the slot is empty, a new pending-table entry;
one whose tag names no binding stays pending (R53, R365). -/
def State.restoreReg (s : State) (key rank g : Nat) (bs : List Byte) (i : Nat) : State :=
  let tag := fieldAt bs (0x140 + 4 * i) 4
  let n := tag % 2 ^ 19
  let slot := 0x4600 + 288 * n
  let t := s.thread g
  let named := n ≤ 140 ∧ fieldAt bs slot 4 = tag
  if named ∧ fieldAt bs (slot + 4) 1 = 1 then s.setThread g (t.setValue i (BitVec.ofNat 2048 (fieldAt bs (slot + 0x20) 256)))
  else if named ∧ fieldAt bs (slot + 4) 1 = 2 then
    s.setThread g (t.setState i (.poisoned (BitVec.ofNat 32 (fieldAt bs (slot + 0x20) 4))))
  else
    match s.binds.find? fun b => b.loc == .slot key rank n && b.tag.epoch == tag / 2 ^ 24 % 256 && b.tag.cls == tag / 2 ^ 20 % 16 with
    | none => s.setThread g (t.setState i (.pending (BitVec.ofNat 32 tag)))
    | some b =>
      let core := coreOf g
      let e := s.spareSlot core
      let ep := (s.epoch core e + 1) % 256
      let s1 := { s with
        epochs := tset s.epochs (core * 512 + e) ep
        binds := s.binds.map (rebindReg b.tag core e g i) }
      s1.setThread g ((s1.thread g).setState i (.pending (tagBits ep b.tag.cls e)))

/-- A thread goes back to a core: one that had exited stays ended, and one that a REWIND left unpositioned stays so. -/
def State.restoreThread (s : State) (p : Pack) (l : Launch) (g rank : Nat) (bs : List Byte) : State :=
  let t0 := startThread l (s.region? l.region) p.key rank
  let t1 := threadOfBlock { t0 with positioned := !p.astray.contains rank,
                                    unacked := ((p.unacked.find? fun x => x.1 == rank).map (·.2)).getD [],
                                      halted := s.isHalted l, status := if p.gone.contains rank then .exited else .ready } bs
  let ps := (List.range 144).filter fun i => blockState bs i == 1 && !isConst i
  ps.foldl (fun a i => a.restoreReg p.key rank g bs i) (s.setThread g t1)

/-- A sequencer goes back (R365); `old` is where it was, `new` where it goes. -/
def Pack.savedSeqr (p : Pack) (old : Nat) : Seqr := ((p.saved.find? fun x => x.1 == old).map (·.2)).getD idleSeqr

/-- Restores a tile (R362, R365). -/
def State.restoreTile (s : State) (p : Pack) (cluster old new pa : Nat) : State :=
  let bs := s.peekN (.dev pa) 0x1000
  let x := (seqrOfTile (p.savedSeqr old) cluster bs).getD idleSeqr
  (List.range 4).foldl (fun a k =>
    a.setAccSet new k (tabulate 8192 fun i => BitVec.ofNat 32 (s.peekNat (.dev (pa + 0x1000 + 0x8000 * k + 4 * i)) 4)))
    (s.setSeqr new x)

/-- Restores a bus (R362, R365): its FRAME goes back with it. -/
def State.restoreBus (s : State) (p : Pack) (cluster old new pa : Nat) : State :=
  match seqrOfBus (p.savedSeqr (txOf old)) cluster (s.peekN (.dev pa) 0x1000) with
  | some (x, frame) => (s.setSeqr (txOf new) x).setBus new { s.bus new with frame := frame }
  | none => s

/-- The thread id that a rank's old one becomes. -/
def newGtid (old new : List Nat) (g : Nat) : Nat :=
  if old.contains (g / 8) then new.getD (old.idxOf (g / 8)) (g / 8) * 8 + g % 8 else g

/-- Byte additions and FAULT settings held for a pack take effect before its first instruction (R364): of the copies that wait in
their last stage for one of its phasers; sequencers that wait so with a DRAIN take the next turns. -/
def State.heldEffects (s : State) (key : Nat) : State :=
  let aimed := fun (o : Option (Nat × Nat)) => o.any fun x => x.1 == key
  let s1 := (s.copies.filter fun c => c.stage == CpStage.bar && c.bar && aimed c.barAt).foldl
    (fun a c =>
      match a.copies.find? fun x => x.id == c.id with
      | some x => (a.copyStep x).getD a
      | none => a) s
  let waits := s1.seqrs.filter fun x => (x.2.row == 65 || x.2.drainErr.isSome) && aimed x.2.barAt
  { s1 with agenda := (waits.map fun x => Turn.stream x.1) ++ s1.agenda }

/-- The pool boundaries that a core block holds (R19, R359, R365). -/
def Core.bounded (k : Core) (bs : List Byte) : Core :=
  { k with pb0 := fieldAt bs 8 8 % 512, pb1 := fieldAt bs 16 8 % 512, pb2 := fieldAt bs 24 8 % 512 }

/-- Restores a pack to cores, tiles and buses (R365). -/
def State.restorePack (s : State) (p : Pack) (l : Launch) (base cluster : Nat) (cores tiles buses : List Nat) : State :=
  let lo := 4 * l.tpc * 4096
  let hi := l.pb2 * 4096
  let q : Pack := { p with cluster := cluster, cores := cores, tiles := tiles, buses := buses, out := none, kennel := none, units := 0,
                           order := s.nextOrder }
  let s1 := cores.zipIdx.foldl (fun a c =>
    let pa := coreBlockAt base l c.2
    let k := { a.core c.1 with pack := some p.key }.bounded (s.peekN (.dev pa) 32)
    let b := (a.setCore c.1 k).restorePool c.1 lo hi pa
    (List.range 16).foldl (fun d r =>
      (d.ringClean (c.1 * 16 + r)).setRing (c.1 * 16 + r) ((ringOfBytes (s.peekN (.dev (pa + 0x100 + 1152 * r)) 1152) l.asid).getD idleRing)) b) s
  let s2 := tiles.zipIdx.foldl (fun a t => a.restoreTile p cluster (p.tiles.getD t.2 t.1) t.1 (tileBlockAt base l t.2)) s1
  let s3 := buses.zipIdx.foldl (fun a b =>
    a.restoreBus p cluster (p.buses.getD b.2 b.1) b.1 (busBlockAt base l tiles.length b.2)) s2
  let s4 := cores.zipIdx.foldl (fun a c =>
    (List.range 8).foldl (fun d j =>
      if j < l.tpc then
        d.restoreThread p l (c.1 * 8 + j) (c.2 * l.tpc + j) (s.peekN (.dev (threadBlockAt base l c.2 j)) 0xF000)
      else d.setThread (c.1 * 8 + j) idleThread) a) s3
  let back := fun (c : Nat) => match p.cores.find? fun o => p.away o == c with
    | some o => cores.getD (p.cores.idxOf o) c
    | none => c
  let s5 := (s4.moveCores back).moveCtx fun x =>
    if x.pack = p.key then { x with gtid := newGtid p.cores cores x.gtid } else x
  let still := s5.isHalted l
  let s5 := q.seqrs.foldl (fun a k => a.setSeqr k { a.seqr k with halt := still, rests := still }) s5
  let s6 := (s5.setPack { q with gone := [], astray := [], unacked := [], saved := [], fixed := false }).setCfield 0x3010 31 0
    (s5.cfield 0x3010 31 0 - p.units)
  let s7 := s6.placed l (p.key % 2 ^ 24)
  let s8 := (s7.heldEffects p.key)
  (cores.flatMap fun c => tabulate 16 fun r => c * 16 + r).foldl (fun a k => a.ringWake k) s8

/-- What a RESTORE of a pack gives. -/
def State.restoreAs (s : State) (p : Pack) (l : Launch) (cluster : Nat) (x : List Nat × List Nat × List Nat) : Out :=
  match p.out with
  | none => notNow "RESTORE"
  | some u =>
    match s.kennelCorrupt p l (s.kennelPa u) with
    | some code => .next ((s.killCorrupt p l code).makeReady)
    | none => .next ((s.restorePack p l (s.kennelPa u) cluster x.1 x.2.1 x.2.2).makeReady)

/-- A REPLAY waits for a pack to come back (R382). -/
def State.replayWants (s : State) (key : Nat) : Bool := s.replay.any fun r => r.pack == key && r.gtid.isNone

/-- RESTORE (R326, R365): the launch that is served next takes back its next pack, which is out; or a REPLAY takes back the pack
of its thread (R382). -/
def execRestore (s : State) : Out :=
  match s.ev with
  | some (.restore key cluster) =>
    match s.pack? key, s.launch? (key / 2 ^ 24) with
    | some p, some l =>
      let turn := s.replayWants key || ((s.nextServed.map fun x => x.id) == some l.id && l.left.head? == some (key % 2 ^ 24))
      match s.placesOn s.resident { l with left := [key % 2 ^ 24] } cluster with
      | some x => if turn then s.restoreAs p l cluster x else notNow "RESTORE"
      | none => notNow "RESTORE"
    | _, _ => notNow "RESTORE"
  | _ => notNow "RESTORE"

end Sys2Proof.Machine
end

