-- ==== Sys2Proof/Machine/Seq.lean ====
section
/-! DEFINITION. The sequence unit: Sobol points, the direction-word cache and counter-based bits (spec/04 R101-R106,
spec/09 R231-R233). -/

namespace Sys2Proof.Machine

/-- ADDR × 128 of SEQDESC (R102). -/
def tableAddr (desc : Word) : Word := desc &&& 0x000FFFFFFFFFFF80

/-- DIMSM1 (R102). -/
def dimsm1 (mode : Word) : Nat := bits mode 47 32

/-- The Gray code of an index (R104). -/
def gray (i : Nat) : BitVec 32 := BitVec.ofNat 32 i ^^^ (BitVec.ofNat 32 i >>> 1)

/-- Point i of a dimension whose direction words are given, before scrambling (R104). -/
def sobol (v : List Nat) (i : Nat) : BitVec 32 :=
  v.zipIdx.foldl (fun y x => if (gray i).getLsbD x.2 then y ^^^ BitVec.ofNat 32 x.1 else y) 0

/-- Nested uniform scrambling of a digit and the digits below it (R105). -/
def owen (sd : BitVec 64) (y : BitVec 32) : Nat → BitVec 32 → BitVec 32
  | 0, z => z
  | j + 1, z =>
    let pre := BitVec.ofNat 64 (y.toNat / 2 ^ (j + 1))
    let fl := (hash sd (BitVec.ofNat 64 (j * 2 ^ 32) ||| pre)).getLsbD 0
    owen sd y j (z ||| BitVec.ofNat 32 (boolNat (y.getLsbD j != fl) * 2 ^ j))

/-- The scramble of a point (R105). -/
def scramble (mode key : Word) (d : Nat) (y : BitVec 32) : BitVec 32 :=
  match bits mode 1 0 with
  | 1 => y ^^^ BitVec.ofNat 32 (bits (hash key (0x4000000000000000 + BitVec.ofNat 64 d)) 31 0)
  | 2 => owen (hash key (0x8000000000000000 + BitVec.ofNat 64 d)) y 32 0
  | _ => y

/-- An empty cache. -/
def noSeqCache : SeqCache := { lid := 0, table := 0, block := 0, words := [] }

/-- The cache of a core when it holds a block of a launch's table (R106, R279). -/
def State.seqCache (s : State) (core lid : Nat) (table : Word) (block : Nat) : SeqCache :=
  let c := tget noSeqCache s.seqCaches core
  if c.lid = lid ∧ c.table = table ∧ c.block = block then c else { lid := lid, table := table, block := block, words := [] }

/-- Puts the direction words of a dimension into a cache. -/
def SeqCache.put (c : SeqCache) (d : Nat) (ws : List Nat) : SeqCache :=
  ws.zipIdx.foldl (fun a x => { a with words := tset a.words (32 * d + x.2) x.1 }) c

/-- The direction words that a QSEQ uses: each as read from memory, or as cached, word by word; which of the two is a free
value where they could differ (R106). -/
def pickWords (c : SeqCache) (ctr d : Nat) (mem : List Nat) : List Nat :=
  mem.zipIdx.map fun x => if Config.usesCached ctr x.2 then tget x.1 c.words (32 * d + x.2) else x.1

/-- The u32 values of bytes. -/
def words32 (bs : List Byte) (n : Nat) : List Nat := tabulate n fun i => fieldAt bs (4 * i) 4

/-- The parts of a sequence-unit read. -/
def seqParts (table : Word) (op : HeldOp) : List Part :=
  match op with
  | .qseq _ _ d _ => partsOf (table + BitVec.ofNat 64 (128 * d)) 128
  | .qtbl d n => partsOf (table + BitVec.ofNat 64 (128 * d)) (128 * n)
  | _ => []

/-- The completion of a sequence-unit command whose words have been read. -/
def State.finishSeq (s : State) (tag : ITag) (ctx : Ctx) (table : Word) (op : HeldOp) (bs : List Byte) : State :=
  let core := tag.core
  let lid := ctx.pack / 2 ^ 24
  match op with
  | .qseq mode key d idx =>
    let c := s.seqCache core lid table (d / 64)
    let ws := pickWords c s.freeCtr d (words32 bs 32)
    let v := vecOf 32 (idx.map fun i => (scramble mode key d (sobol ws i)).toNat)
    { s with freeCtr := s.freeCtr + 1, seqCaches := tset s.seqCaches core (c.put d ws) }.fly tag ctx (.full v)
  | .qtbl d n =>
    let c := (List.range n).foldl (fun a i => a.put (d + i) (words32 (slice bs (128 * i) 128) 32))
      (s.seqCache core lid table (d / 64))
    { s with seqCaches := tset s.seqCaches core c }.fly tag ctx (fullS (d / 64 * 2 ^ 32 + 32 * n))
  | _ => s

/-- The first word of a table that lies outside the SC domain, where no part before it fails (R277). -/
def State.tableOutside (s : State) (ag : Agent) (ps : List Part) : Option Word :=
  ((ps.map fun p => (p.va, s.locate ag p.va .load)).find? fun x => x.2.outside || (x.2.failure x.1).isSome).bind fun x =>
    if x.2.outside then some x.1 else none

/-- Reads the table and completes, waits for a held page, or poisons (R103, R231, R232, R277). -/
def State.readTable (s : State) (tag : ITag) (ctx : Ctx) (table : Word) (op : HeldOp) : State :=
  match s.tableOutside ctx.agent (seqParts table op) with
  | some va => s.fly tag ctx (.poison Poison.refused va 0 Reason.refused)
  | none =>
  match s.getParts ctx op (seqParts table op) with
  | (s1, .error f) => (s1.stick f.hole).fly tag ctx f.result
  | (s1, .ok got) =>
    match got.find? fun g => g.2.isNone with
    | some g =>
      { s1 with held := s1.held ++ [{ tag := tag, ctx := ctx, op := op, va := table, got := [], reserved := 0, acq := false,
                                      hold := s1.newHold ctx.agent g.1.va }] }
    | none => s1.finishSeq tag ctx table op (got.flatMap fun g => g.2.getD [])

/-- The frame of a sequence-unit command: ILLEGAL_OP while SCRAMBLE is 0b11 (R103). -/
def seqCommand (g : Guard) (i : Nat) (reads : List Nat) (body : Thread → ITag → Ctx → State → State) (s : State) : Out :=
  control g 4 reads [i] (fun s =>
    let t := s.thr
    if bits t.seqmode 1 0 = 3 then s.trap (.plain .illegalOp)
    else s.inOrder fun s => s.produce i Cls.seq allBytes 4 (body t)) s

/-- QSEQ and QSEQ.LANE (R231): the sequence registers are captured at issue. -/
def qseqForm (g : Guard) (d : Reg6) (src : Nat) (b : Reg6) (idx : Thread → Nat → Nat) (s : State) : Out :=
  seqCommand g (rv d) [src, rs b] (fun t tag ctx s =>
    let dm := (t.sreg b).toNat
    let is := tabulate 64 (idx t)
    if is.any (fun i => decide (2 ^ 32 ≤ i)) || decide (dimsm1 t.seqmode < dm) then s.fly tag ctx (poisonOf Poison.refused)
    else s.readTable tag ctx (tableAddr t.seqdesc) (.qseq t.seqmode t.seqkey dm is)) s

/-- QSEQ (R231). -/
def execQseq (g : Guard) (d a b : Reg6) (s : State) : Out :=
  qseqForm g d (rs a) b (fun t i => (t.sreg a).toNat + i) s

/-- QSEQ.LANE (R231). -/
def execQseqLane (g : Guard) (d a b : Reg6) (s : State) : Out :=
  qseqForm g d (rv a) b (fun t i => elem 32 (t.vreg a) i) s

/-- QTBL (R232). -/
def execQtbl (g : Guard) (d a b : Reg6) (s : State) : Out :=
  seqCommand g (rs d) [rs a, rs b] (fun t tag ctx s =>
    let first := (t.sreg a).toNat
    let n := (t.sreg b).toNat
    if n = 0 ∨ 64 < n ∨ first / 64 ≠ (first + n - 1) / 64 ∨ dimsm1 t.seqmode < first + n - 1 then
      s.fly tag ctx (poisonOf Poison.refused)
    else s.readTable tag ctx (tableAddr t.seqdesc) (.qtbl first n)) s

/-- VRAND (R233). -/
def execVrand (g : Guard) (d a b : Reg6) (s : State) : Out :=
  control g 4 [rs a, rs b] [rv d] (fun s =>
    let t := s.thr
    s.produce (rv d) Cls.seq allBytes 4 fun tag ctx s =>
      s.fly tag ctx (.full (vecOf 32 (tabulate 64 (rbits (t.sreg a) (t.sreg b)))))) s

end Sys2Proof.Machine
end

