-- ==== Sys2Proof/Machine/Xlate.lean ====
section
/-! DEFINITION. Invalidations, and accesses that wait on held pages (spec/19 R335, R340-R342), rebases (spec/03 R66), and
acknowledgements of outside-domain accesses (R69, R73). -/

namespace Sys2Proof.Machine

/-! ### Waits on held pages (R335) -/

/-- A held access waits on at an address, for its page or for a link; once the hold has outlasted TIMEOUT it fails (R335, R394).
-/
def State.waitOn (s : State) (h : Held) (va : Word) (need : Need) : State :=
  if s.locate h.ctx.agent va need = .away then { s with held := s.held ++ [{ h with hold := s.awayHold h.ctx.agent va }] }
  else
    match s.keepHold h.ctx.agent (some h.hold) va with
    | some x => { s with held := s.held ++ [{ h with hold := x }] }
    | none => s.fly h.tag h.ctx (heldFail va).result

/-- Reads the parts of a load that stayed open, in ascending order as far as one is held again; those that were read keep their
bytes (R63). -/
def State.getOpen (s : State) (c : Ctx) (op : HeldOp) :
    List (Part × Option (List Byte)) → State × Except Fail (List (Part × Option (List Byte)))
  | [] => (s, .ok [])
  | (p, some bs) :: r =>
    let (s1, x) := s.getOpen c op r
    (s1, x.map fun l => (p, some bs) :: l)
  | (p, none) :: r =>
    match s.getPart c op p with
    | .fail s0 f => (s0, .error f)
    | .held => (s, .ok ((p, none) :: r))
    | .ok s0 bs =>
      let (s1, x) := s0.getOpen c op r
      (s1, x.map fun l => (p, some bs) :: l)

/-- The first address at which a wait, an atomic or a table read would wait again. -/
def State.heldAt (s : State) (h : Held) : Option Word :=
  match h.op with
  | .atom _ _ _ _ =>
    match s.locate h.ctx.agent h.va .rmw with
    | .held | .away => some h.va
    | _ => none
  | .qseq _ _ _ _ | .qtbl _ _ =>
    ((seqParts h.va h.op).find? fun p => s.locate h.ctx.agent p.va .load == .held).map (·.va)
  | _ => if s.locate h.ctx.agent h.va .load = .held then some h.va else none

/-- One more in a counter of n bytes of a kennel, saturating (R73, R360). -/
def State.kennelCount (s : State) (pa n : Nat) : State :=
  s.pokeN (.dev pa) (natLe n (min (2 ^ (8 * n) - 1) (s.peekNat (.dev pa) n + 1)))

/-- An access outside the SC domain of an atomic that was held (R73, R186): its issuer counts it, in its thread block while its
pack is out, with the outcome at once. -/
def State.lateAtom (s : State) (ctx : Ctx) (va : Word) (x : Xlat) : State :=
  let s1 := match s.trailOf ctx.pack with
    | some r => s.logFence r (fenceSub x) va ctx.gtid
    | none => s
  match s1.threadBlockPa ctx.pack ctx.rank with
  | some pa =>
    let s2 := s1.kennelCount (pa + 0x4C) 4
    match atomFate x with
    | .done => s2
    | .dead => s2.kennelCount (pa + 0x4A) 2
    | .refused => s2.kennelCount (pa + 0x48) 2
  | none =>
    let t := s1.thread ctx.gtid
    if t.pack = ctx.pack then s1.setThread ctx.gtid { t with count := satInc t.count, unacked := t.unacked ++ [atomFate x] } else s1

/-- A held access walks again: it goes on, fails, or waits on (R335). It is performed now, in the place that the package order
gives it: no later access of its thread has been performed (R62; DEDUCED, notes/assumptions/41.md). -/
def State.retryHeld (s0 : State) (h : Held) : State :=
  let s1 := { s0 with held := s0.held.filter fun x => x.tag ≠ h.tag }
  let s := if h.acq then s1.acquire h.ctx else s1
  match h.op with
  | .load _ | .vload _ =>
    match s.getOpen h.ctx h.op h.got with
    | (s1, .error f) => (s1.stick f.hole).fly h.tag h.ctx f.result
    | (s1, .ok got) =>
      match got.find? fun g => g.2.isNone with
      | none => s1.fly h.tag h.ctx (h.op.result got)
      | some g => s1.waitOn { h with got := got } g.1.va .load
  | op =>
    match s.heldAt h with
    | some va => s.waitOn h va (match op with
      | .atom _ _ _ _ => .rmw
      | _ => .load)
    | none =>
      match op with
      | .atom o w x y =>
        let loc := s.locate h.ctx.agent h.va .rmw
        (if loc.outside then s.lateAtom h.ctx h.va loc else s).performAtom h.tag h.ctx o w x.toNat y.toNat h.va loc
      | .phWait token => s.startPhWait h.tag h.ctx h.va token
      | .phRewait token => s.restartPhWait h.tag h.ctx h.va token
      | .semWait c y => s.startSemWait h.tag h.ctx h.va c y
      | _ => s.readTable h.tag h.ctx h.va op

/-- Whether a held access may walk again: its page does, and the pack of a wait on a phaser whose registration is still to be
checked is resident. -/
def State.mayRetry (s : State) (h : Held) : Bool :=
  s.retries (some h.hold) && match h.op with
    | .phWait _ => !s.packOut h.ctx.pack
    | _ => true

/-- The held accesses that may try again do so, in the order of their issue. -/
def State.retryHelds (s : State) : State :=
  s.held.foldl (fun a h => if a.mayRetry h then a.retryHeld h else a) s

/-- A PROBE that waits on a held page tries again, or poisons with HELD. -/
def State.retryProbe (s : State) (p : Probe) : State :=
  match p.hold with
  | none => s
  | some h =>
    let s1 := { s with probes := s.probes.filter fun x => x.tag ≠ p.tag }
    let held := match s.walk p.ctx.asid p.lo (probeNeed p.write) with
      | .leaf e => bits e.leaf 7 7 == 1
      | .fail _ _ => false
    if !held then s1.probe { p with hold := none }
    else
      match s.keepHold p.ctx.agent (some h) (BitVec.ofNat 64 p.lo) with
      | some h' => { s1 with probes := s1.probes ++ [{ p with hold := some h' }] }
      | none => s1.fly p.tag p.ctx (heldFail (BitVec.ofNat 64 p.lo)).result

/-- The PROBEs that may try again do so. -/
def State.retryProbes (s : State) : State :=
  s.probes.foldl (fun a p => if p.hold.isSome && a.retries p.hold then a.retryProbe p else a) s

/-- HOLD TIMEOUT: the i-th held access has waited longer than TIMEOUT (R335). -/
def execHoldTimeout (s : State) : Out :=
  match s.ev with
  | some (.holdTimeout i) =>
    match s.held[i]? with
    | some h => if s.outlasted h.hold.since then .next (s.retryHeld h) else notNow "HOLD_TIMEOUT"
    | none => notNow "HOLD_TIMEOUT"
  | _ => notNow "HOLD_TIMEOUT"

/-! ### Invalidations (R340, R341) -/

/-- Accepts a command, unless 16 are outstanding. -/
def State.acceptInval (s : State) (x : Inval) : State :=
  if 16 ≤ s.invs.length then s.setCfield 0x2040 0 0 1
  else { s.setCfield 0x2048 31 0 (s.cfield 0x2048 31 0 + 1) with invs := s.invs ++ [x] }

/-- INV_ALL (R340). -/
def execInvAll (s : State) : Out :=
  match s.ev with
  | some .invAll => .next (s.acceptInval { asid := none, lo := 0, hi := 2 ^ 52 })
  | _ => notNow "INV_ALL"

/-- INV_ASID (R340). -/
def execInvAsid (s : State) : Out :=
  match s.ev with
  | some (.invAsid a) => .next (s.acceptInval { asid := some a, lo := 0, hi := 2 ^ 52 })
  | _ => notNow "INV_ASID"

/-- INV_RANGE (R340): NPAGES 0 is refused. -/
def execInvRange (s : State) : Out :=
  match s.ev with
  | some (.invRange a n) =>
    if n = 0 then .next (s.setCfield 0x2040 1 1 1)
    else
      let lo := s.cfield 0x2030 51 16 * 65536
      .next (s.acceptInval { asid := some a, lo := lo, hi := lo + n.toNat * 65536 })
  | _ => notNow "INV_RANGE"

/-- Whether an invalidation covers bytes [lo, hi) of an address space. -/
def Inval.covers (x : Inval) (asid : BitVec 16) (lo hi : Nat) : Bool :=
  x.asid.all (· == asid) && decide (lo < x.hi) && decide (x.lo < hi)

/-- A wait on a page that the invalidation covers walks again (R335). -/
def Inval.mark (x : Inval) (asid : BitVec 16) (h : Hold) : Hold :=
  let page := h.va.toNat / 2 ^ h.size * 2 ^ h.size
  if x.covers asid page (page + 2 ^ h.size) then { h with again := true } else h

/-- Every wait on a held page that an invalidation covers walks again (R335, R341). -/
def State.markHolds (s : State) (x : Inval) : State :=
  let f := fun (asid : BitVec 16) (h : Option Hold) => h.map (x.mark asid)
  let g := fun (c : Ctx) (h : Option Hold) => f c.asid h
  { s with
    threads := s.threads.map fun t => (t.1, { t.2 with hold := f t.2.asid t.2.hold })
    held := s.held.map fun h => { h with hold := x.mark h.ctx.asid h.hold }
    copies := s.copies.map fun c => { c with hold := g c.ctx c.hold }
    probes := s.probes.map fun p => { p with hold := g p.ctx p.hold }
    arming := s.arming.map fun a => { a with hold := g a.ctx a.hold }
    collBars := s.collBars.map fun b => { b with hold := g b.ctx b.hold }
    childReqs := s.childReqs.map fun c => { c with hold := g c.ctx c.hold }
    colls := s.colls.map fun c => (c.1, { c.2 with run := c.2.run.map fun r => { r with hold := g r.ctx r.hold } })
    seqrs := s.seqrs.map fun q => (q.1, { q.2 with hold := f (q.2.agent q.1).asid q.2.hold })
    trails := s.trails.map fun u => { u with hold := f u.asid u.hold }
    packs := s.packs.map fun p => { p with saved := p.saved.map fun q => (q.1, { q.2 with hold := f (q.2.agent q.1).asid q.2.hold }) }
    flips := s.flips.map fun w => { w with hold := f w.asid w.hold }
    killWaits := s.killWaits.map fun k => (k.1, k.2.1, x.mark k.1 k.2.2)
    dbgWait := s.dbgWait.map fun d => (d.1, d.2.1, x.mark d.2.1 d.2.2)
    launches := s.launches.map fun l => { l with hold := f l.asid l.hold }
    queues := s.queues.map fun q => (q.1, { q.2 with hold := f (BitVec.ofNat 16 (s.cfield (queueOff q.1 + 8) 63 48)) q.2.hold }) }

/-- Whether an invalidation covers the page of an address: the one that its walk finds, or one that a TLB holds. -/
def State.covered (s : State) (x : Inval) (ag : Agent) (va : Word) : Bool :=
  let sizes := (s.newHold ag va).size :: (s.tlb.filter fun e => e.asid == ag.asid && va.toNat / 2 ^ e.size == e.page).map (·.size)
  !isLocal va && sizes.any fun z => x.covers ag.asid (va.toNat / 2 ^ z * 2 ^ z) ((va.toNat / 2 ^ z + 1) * 2 ^ z)

/-- Waits for a flip, and flips that wait, whose phaser's translation an invalidation covers find their phaser again (R341). -/
def State.rewait (s : State) (x : Inval) : State :=
  let hit := fun (w : PhWait) => s.covered x w.ctx.agent w.va
  let flipAgent := fun (f : HeldFlip) => ({ core := 0, lid := 0, pack := none, asid := f.asid } : Agent)
  { s with
    flips := s.flips.map fun f =>
      if s.covered x (flipAgent f) f.va then
        { f with hold := some { f.hold.getD (s.newHold (flipAgent f) f.va) with again := true } }
      else f
    phWaits := s.phWaits.filter fun w => !hit w
    held := s.held ++ (s.phWaits.filter hit).map fun w =>
      { tag := w.tag, ctx := w.ctx, op := .phRewait w.token, va := w.va, got := [], reserved := 0, acq := false,
        hold := { s.newHold w.ctx.agent w.va with again := true } } }

/-- A transfer on its way was translated in an address space that an invalidation covers, or one that its run has left behind is
still on its way in this package: it is performed before the invalidation completes (R341). -/
def State.transfersUnder (s : State) (x : Inval) : Bool :=
  !s.ownXfers.isEmpty
    || s.sent.any fun t => s.colls.any fun c => c.1 == t.key && c.2.run.any fun r => x.asid.all (· == r.ctx.asid)

/-- The trails in use find the places of their buffers again, through which a write that strikes an entry is known (R341, R367).
-/
def State.refreshTrails (s : State) (x : Inval) : State :=
  { s with trails := s.trails.map fun u =>
      match s.regions.find? fun r => r.owner == u.owner && r.trail != 0 && x.asid.all (· == u.asid) with
      | none => u
      | some r =>
        { u with pages := match s.trailPages (s.trailAgent r) r.trailBase 0 (r.trailU * 2 ^ 21) (32 * r.trailU) with
            | .ok ps => ps
            | _ => [] } }

/-- INVALIDATION_COMPLETE (R340, R341): the oldest invalidation completes. No translation that it covers is used from here on,
DONE advances, and the note word takes it. -/
def execInvalidationComplete (s : State) : Out :=
  match s.ev with
  | some .invalidationComplete =>
    match s.invs with
    | [] => notNow "INVALIDATION_COMPLETE"
    | x :: r =>
      if s.transfersUnder x then notNow "INVALIDATION_COMPLETE"
      else
      let s0 := (s.markHolds x).rewait x
      let s1 := { s0 with invs := r, tlb := s0.tlb.filter fun e =>
                            !x.covers e.asid (e.page * 2 ^ e.size) ((e.page + 1) * 2 ^ e.size) }
      let done := (s1.cfield 0x2040 63 32 + 1) % 2 ^ 32
      let s2 := (s1.setCfield 0x2040 63 32 done).refreshTrails x
      let pa := s2.cfield 0x2050 47 3 * 8
      .next (if s2.cfield 0x2050 0 0 = 0 then s2
        else if Config.deviceBytes < pa + 8 then s2.stick (some pa)
        else s2.put (.dev pa) (natLe 8 done))
  | _ => notNow "INVALIDATION_COMPLETE"

/-! ### Rebase (R66) -/

/-- The timestamp that none may exceed (R66). -/
def topStamp : Nat := 0xFFFF00000000

/-- The common amount by which a rebase lowers every timestamp (DESIGN CHOICE, notes/assumptions/14.md). -/
def rebaseAmount : Nat := 0x800000000000

/-- Every window of a trail is recycled (R66, R375). -/
def State.recycleAll (s : State) (r : Region) : State :=
  if s.trailFailed r then s
  else
    let n := s.trailNext r - s.trailOld r
    let s1 := s.setTrailHdr r 0x08 8 (s.trailTail r)
    let s2 := s1.setTrailHdr r 0x1C 4 (s1.trailNext r)
    s2.setTrailHdr r 0x20 8 (min (2 ^ 64 - 1) (s2.trailHdr r 0x20 8 + n))

/-- One region for each trail in use. -/
def State.trailRegions (s : State) : List Region :=
  (s.regions.filter fun r => r.trail != 0).foldl
    (fun acc r => if acc.any fun q => q.owner == r.owner then acc else acc ++ [r]) []

/-- REBASE (R66). -/
def execRebase (s : State) : Out :=
  match s.ev with
  | some .rebase =>
    if s.rebaseDue = false then notNow "REBASE"
    else
      let low := fun (t : Nat) => t - rebaseAmount
      let s1 := { s with ltime := low s.ltime, rebaseDue := false
                         lines := s.lines.map fun (x : Nat × Nat × Nat) => (x.1, (low x.2.1, low x.2.2)) }
      let s2 := s1.trailRegions.foldl (fun a r => a.recycleAll r) s1
      let s3 := s2.count 0
      .next (s3.health 0x0A 0 (s3.creg 0x8A00).toNat 0)
  | _ => notNow "REBASE"

/-! ### Acknowledgements (R69, R72, R73) -/

/-- ACKNOWLEDGEMENT: the oldest outside-domain access of a thread is acknowledged, or its failure is reported. -/
def execAcknowledgement (s : State) : Out :=
  match s.ev with
  | some (.acknowledgement g) =>
    let t := s.thread g
    if t.unacked = [] then notNow "ACKNOWLEDGEMENT" else .next (s.setThread g t.acked)
  | _ => notNow "ACKNOWLEDGEMENT"

end Sys2Proof.Machine
end

