-- ==== Sys2Proof/Machine/Optics.lean ====
section
/-! DEFINITION. Calibration, background activity and health (spec/24): the ring heaters' tracker and moves, RETIRE, comb lines,
shadow checks, soft errors, and the registers of R408-R417. -/

namespace Sys2Proof.Machine

/-! ### Reset, boot and trips (R385, R388, R425) -/

/-- BOOTSTAT takes a stage and an error code; the change signals the host (R387, R388). -/
def State.bootAt (s : State) (stage err : Nat) : State := ((s.setCfield 0x10 7 0 stage).setCfield 0x10 15 8 err).signal 0

/-- Everything that a reset clears. NOW, the memories, the flash, the measurements and the link stay; the model's own agenda and
counters stay too. -/
def State.cleared (s : State) : State :=
  { State.reset with
    agenda := s.agenda, coreTurn := s.coreTurn, freeCtr := s.freeCtr, now := s.now, mem := s.mem, hostMem := s.hostMem,
    remoteMem := s.remoteMem, peerLinks := s.peerLinks, flash := s.flash, meas1 := s.meas1, meas2 := s.meas2, linkUp := s.linkUp,
    msix := s.msix, heaters := [], answer := s.answer }

/-- A junction at 105 °C or above: signed, in 1/16 °C (R408, R425). -/
def tooHot (temp : BitVec 16) : Bool := decide (105 * 16 ≤ signed 16 temp.toNat)

/-- A die trips (R425): the dies and HBM4 lose power, and boot stops at stage ROM until the junction has cooled. -/
def State.tripped (s : State) : State := { s.cleared with fwRun := s.fwRun, fwAsked := s.fwAsked, mem := [] }.bootAt 1 0x10

/-! ### Rings (R403, R404) -/

/-- The anchor channel of a ring (R403). -/
def anchor (ring : Nat) : Nat := if ring < 64 then ring else 16 * (ring - 64) + 8

/-- HREQ of a ring for a channel at a drift (R403). -/
def State.hreq (s : State) (tile col ring chan : Nat) (drift : Int) : Int :=
  s.freeOffset tile col ring + 512 * ((chan : Int) - anchor ring) - drift

/-- The tracking band (R403). -/
def inBand (h : Int) : Bool := decide (192 ≤ h) && decide (h ≤ 3903)

/-! ### Moves (R405, R406) -/

/-- The rings of a column that a channel may move to, with their HS. -/
def State.moveTargets (s : State) (tile col old : Nat) : List (Nat × Int) :=
  let h := s.heater tile col old
  ((List.range 68).filter fun r =>
      let x := s.heater tile col r
      !x.drop && !x.dead && !(s.moves.any fun m => m.tile == tile && m.col == col && m.new == r)).filterMap fun r =>
    let hs : Int := (h.hc : Int) + s.freeOffset tile col r - s.freeOffset tile col old + 512 * ((anchor old : Int) - anchor r)
    if inBand hs then some (r, hs) else none

/-- The candidate nearest 2,048, the lower ring on a tie. -/
def nearest (cs : List (Nat × Int)) : Option (Nat × Int) :=
  cs.foldl (fun a c => match a with
    | none => some c
    | some b => if (c.2 - 2048).natAbs < (b.2 - 2048).natAbs then some c else some b) none

/-- A ring's channel starts to move; none where no candidate qualifies (R405). -/
def State.startMove (s : State) (tile col old : Nat) (retire : Bool) : Option State :=
  (nearest (s.moveTargets tile col old)).map fun c =>
    let m : Move := { tile := tile, col := col, old := old, new := c.1, chan := (s.heater tile col old).chan, hs := c.2,
                      since := s.now.toNat, retire := retire }
    { s.setHeater tile col c.1 { s.heater tile col c.1 with hc := c.2.toNat } with moves := s.moves ++ [m] }

/-- The channel of a ring is on its way to another. -/
def State.isMoving (s : State) (tile col ring : Nat) : Bool :=
  s.moves.any fun m => m.tile == tile && m.col == col && m.old == ring

/-- No ring takes the channel of a saturated one: NOSPARE, its event, and CAL (R406). -/
def State.noSpare (s : State) (tile col ring : Nat) (hreq : Int) : State :=
  let off := tileOff tile
  let s1 := s.setCfield off 31 16 (min 0xFFFF (s.cfield off 31 16 + 1))
  let s2 := { s1 with uncal := if s1.uncal.contains tile then s1.uncal else tile :: s1.uncal }
  s2.health 0x02 (tile * 128 + col) (ring + 256 * (s.heater tile col ring).chan) (hreq % 2 ^ 64).toNat

/-- Skew calibration is complete 20 ms after the optics started, and every ring has been tracked by then (R423; DESIGN CHOICE,
notes/assumptions/15.md). -/
def State.skewDone (s : State) : State :=
  match s.skewSince with
  | some t => if 20000000 * Config.ns ≤ s.now.toNat - t then { s with skewSince := none, unlocked := false } else s
  | none => s

/-- TRACKER_SERVICE (R403-R405): the tracker measures a ring that holds a channel, and adjusts its heater. A ring that becomes
saturated, or that took its channel saturated, starts a move. While the tracker stands still, in OPTOFF too, TEMP alone follows
the junction (R407, R408, R422). A die whose junction it finds at 105 °C trips (R425). -/
def execTrackerService (s : State) : Out :=
  match s.ev with
  | some (.trackerService tile col ring drift temp) =>
    let h := s.heater tile col ring
    if tooHot temp then .next s.tripped
    else if !h.drop || s.cfield (tileOff tile) 0 0 == 0 || s.optOff then
      .next ((s.setCfield (tileOff tile) 63 48 temp.toNat).setCal tile)
    else
      let req := s.hreq tile col ring h.chan drift
      let err := req - h.hc
      let hc := (min (max ((h.hc : Int) + max (-32) (min 32 err)) 0) 4095).toNat
      let sat := !inBand req
      let s1 := (s.skewDone.setHeater tile col ring
        { h with hc := hc, err := err, lock := decide (err.natAbs ≤ 4), sat := sat }).setCfield (tileOff tile) 63 48 temp.toNat
      let s2 := if sat && (!h.sat || s.unserviced tile col ring) && !s1.isMoving tile col ring then
          match s1.startMove tile col ring false with
          | some a => a
          | none => s1.noSpare tile col ring req
        else s1
      .next (s2.setCal tile)
  | _ => notNow "TRACKER_SERVICE"

/-- A tile's bus has no frame in flight, or it hears none (R405). -/
def State.atBoundary (s : State) (tile : Nat) : Bool :=
  match (s.seqr tile).sel with
  | some bus => (s.bus bus).flight.isNone
  | none => true

/-- A settled move takes place (R405): the channel passes to the new ring. -/
def State.finishMove (s : State) (m : Move) : State :=
  let old := s.heater m.tile m.col m.old
  let new := s.heater m.tile m.col m.new
  let s1 := (s.setHeater m.tile m.col m.old
      { old with drop := false, chan := 0, hc := 0, lock := false, sat := false, err := 0, dead := old.dead || m.retire }).setHeater
    m.tile m.col m.new { new with drop := true, chan := m.chan, lock := true, sat := false, err := 0 }
  let off := tileOff m.tile
  let s2 := s1.setCfield off 47 32 (s1.cfield off 47 32 + 1)
  let s3 := { s2 with uncal := s2.uncal.filter (· != m.tile) }
  let s4 := s3.health 0x01 (m.tile * 128 + m.col) (m.old + 256 * m.new + 65536 * m.chan) (m.hs % 2 ^ 64).toNat
  (if m.retire && !(s4.moves.any (·.retire)) then s4.setCfield 0x8810 0 0 0 else s4).setCal m.tile

/-- MOVE_SETTLE (R405): 50 µs have passed, and the tile is at a frame boundary. -/
def execMoveSettle (s : State) : Out :=
  match s.ev with
  | some (.moveSettle i) =>
    match s.moves[i]? with
    | some m =>
      if 50000 * Config.ns ≤ s.now.toNat - m.since ∧ s.atBoundary m.tile = true then
        .next ({ s with moves := s.moves.eraseIdx i }.finishMove m)
      else notNow "MOVE_SETTLE"
    | none => notNow "MOVE_SETTLE"
  | _ => notNow "MOVE_SETTLE"

/-- RETIRE (R410): an HCMD write. -/
def execRetire (s : State) : Out :=
  match s.ev with
  | some (.retire v) =>
    let tile := s.cfield 0x8800 4 0
    let col := bits v 14 8
    let ring := bits v 6 0
    let refuse := s.setCfield 0x8810 1 1 1
    if s.cfield 0x8810 0 0 = 1 then .next s
    else if bits v 31 24 ≠ 1 ∨ 67 < ring then .next refuse
    else
      let h := s.heater tile col ring
      if !h.drop then .next (s.setHeater tile col ring { h with dead := true })
      else if s.isMoving tile col ring then
        let marked : State := { s with moves := s.moves.map fun m =>
          if m.tile = tile ∧ m.col = col ∧ m.old = ring then { m with retire := true } else m }
        .next (marked.setCfield 0x8810 0 0 1)
      else
        match s.startMove tile col ring true with
        | some a => .next (a.setCfield 0x8810 0 0 1)
        | none => .next refuse
  | _ => notNow "RETIRE"

/-! ### Comb lines (R400, R412) -/

/-- LINE_LOW_TIMEOUT (R400, R412): a line that has been low for 1 ms claims comb 4, or fails for good. -/
def execLineLowTimeout (s : State) : Out :=
  match s.ev with
  | some (.lineLowTimeout comb line) =>
    let due := s.lowLines.any fun x => x.1 == comb && x.2.1 == line && decide (1000000 * Config.ns ≤ s.now.toNat - x.2.2)
    if !due || s.deadLines.contains (comb, line) || s.cfield (0x88A8 + 8 * comb) 1 0 == 2 || s.combDark comb then
      notNow "LINE_LOW_TIMEOUT"
    else if comb < 4 ∧ (s.claimComb comb).isSome = true then .next (s.loseComb comb)
    else .next ({ s with deadLines := s.deadLines ++ [(comb, line)] }.domainEvent (s.combFdom comb) comb)
  | _ => notNow "LINE_LOW_TIMEOUT"

/-! ### Shadow checks (R413) -/

/-- SHADOW_CHECK (R413): the check path has formed the ideal codes of the window that it captured, and compares. -/
def execShadowCheck (s : State) : Out :=
  match s.ev with
  | some (.shadowCheck tile) =>
    match s.shadows.find? fun x => x.1 == tile with
    | none => notNow "SHADOW_CHECK"
    | some (_, w) =>
      let off := tileOff tile + 0x10
      let s1 := { s with shadows := s.shadows.filter fun x => x.1 ≠ tile }
      .next ((s1.setCfield off 63 32 (s.cfield off 63 32 + 1)).setCfield off 31 0 (s.cfield off 31 0 + w.outside))
  | _ => notNow "SHADOW_CHECK"

/-! ### Soft errors (R414, R415) -/

/-- A granule is marked: UE, and its event (R415, R417). -/
def State.ueAt (s : State) (pa die kind : Nat) : State := (s.count 8).health 0x08 die pa kind

/-- A granule with an uncorrectable error is marked; one that is marked already stays as it is (R415). -/
def State.markGranule (s : State) (m : Mark) (pa die kind : Nat) : State :=
  if s.marks.contains m then s else { s with marks := m :: s.marks }.ueAt pa die kind

/-- The word at an address of a thread's code; none where it cannot be fetched (R352). -/
def State.codeWord (s : State) (g : Nat) (va : Word) : Option Nat :=
  match s.locate (s.agentOf g) va .fetch with
  | .ok p _ => if (s.firstMark p 0 4).isSome then none else some (s.peekNat p 4)
  | _ => none

/-- WORD0 and WORD1 of a record at a thread's pc: 0 where a word cannot be fetched, or is none (R352). -/
def State.codeWords (s : State) (g : Nat) : Nat × Nat :=
  let pc := (s.thread g).pc
  match s.codeWord g pc with
  | none => (0, 0)
  | some w => (w, if isLong w then (s.codeWord g (pc + 4)).getD 0 else 0)

/-- An uncorrectable error in a register that holds a value: it becomes poisoned with 0x0050 and a fault record (R415). -/
def State.spoilReg (s : State) (g i : Nat) : State :=
  let t := s.thread g
  let k := s.core (coreOf g)
  let w := s.codeWords g
  let ctx : Ctx := { gtid := g, asid := t.asid, pc := t.pc, w0 := BitVec.ofNat 32 w.1, w1 := BitVec.ofNat 32 w.2
                     frbase := t.frbase, pack := t.pack, rank := t.rank, bounds := (k.pb0, k.pb2) }
  if t.status = .idle ∨ isConst i ∨ t.rstate i ≠ .full then s
  else
    let (s1, pv) := s.poisonRecord ctx 0 Poison.soft 0 0 0
    (s1.setThread g ((s1.thread g).setState i (.poisoned pv))).ueAt (144 * g + i) (dieOf (coreOf g))
      (if 64 ≤ i ∧ i < 128 then 2 else 3)

/-- An uncorrectable error in entry e of a core's pending table: it is the binding's that holds the entry (R415). -/
def State.spoilEntry (s : State) (core e : Nat) : State :=
  match s.binds.find? fun b => b.holder.isSome && b.entryCore == core && b.entry == e with
  | some b => s.markGranule (.pending b.tag) (512 * core + e) (dieOf core) 3
  | none => s

/-- PATROL_SCRUB (R414, R415): a granule is read; a correctable error is corrected, an uncorrectable one marks the granule.
Beside the memories and the accumulators, it reads registers, pending tables and ring contexts (DESIGN CHOICE,
notes/assumptions/57.md: their numbering). -/
def execPatrolScrub (s : State) : Out :=
  match s.ev with
  | some (.patrolScrub m n correctable) =>
    if correctable then .next (s.count (if m = .hbm then 6 else 7))
    else
      .next (match m with
        | .hbm => s.markGranule (.hbm n) (32 * n) (32 * n / Config.dieBytes) 0
        | .l2 => s.markGranule (.l2 n) (8 * n) (8 * n / Config.dieBytes) 1
        | .pool => s.markGranule (.pool n) (8 * n) (dieOf (8 * n / 2 ^ 21)) 2
        | .acc => s.markGranule (.acc (n / 16384) (n % 16384)) (8 * n) (n / 16384 / 8) 3
        | .reg => s.spoilReg (n / 144) (n % 144)
        | .pending => s.spoilEntry (n / 512) (n % 512)
        | .ring => s.markGranule (.ring (n / 144) (n % 144)) n (dieOf (n / 144 / 16)) 3)
  | _ => notNow "PATROL_SCRUB"

/-! ### Registers (R408, R417) -/

/-- MINM (R408): a write of SKEW sets MINM to 0xFFFF. -/
def execMinm (s : State) : Out :=
  match s.ev with
  | some (.minm t) => .next (s.setCfield (tileOff t + 8) 31 16 0xFFFF)
  | _ => notNow "MINM"

/-- COUNTER_CLEAR (R417). -/
def execCounterClear (s : State) : Out :=
  match s.ev with
  | some (.counterClear k) => .next (s.setCreg (0x8A00 + 8 * k) 0)
  | _ => notNow "COUNTER_CLEAR"

/-! ### Optics off and on (R422, R423) -/

/-- OPTREQ_CLEAR (R423): it takes effect at the next frame boundary of each bus. -/
def execOptreqClear (s : State) : Out :=
  match s.ev with
  | some .optreqClear => .next (s.setCfield 0x20 0 0 0)
  | _ => notNow "OPTREQ_CLEAR"

/-- The lasers of a comb come on: comb 4 serves when it is claimed (R398, R412). -/
def State.combOn (s : State) (comb : Nat) : State :=
  let off := 0x88A8 + 8 * comb
  if s.cfield off 1 0 ≠ 0 then s
  else s.setCfield off 1 0 (if comb = 4 ∧ s.cfield 0x9050 61 61 = 1 then 3 else 1)

/-- OPTREQ_SET (R423): the lasers and the heaters start; calibration completes later, and a line of which the power stays low
has been so since now (R412). Before boot stage READY nothing has gone off (R422). -/
def execOptreqSet (s : State) : Out :=
  match s.ev with
  | some .optreqSet =>
    let s1 := s.setCfield 0x20 0 0 1
    if s.cfield 0x20 0 0 = 1 then .next s
    else if s.cfield 0x10 7 0 ≠ 6 then .next s1
    else
      let s2 := (List.range 4).foldl (fun a b => a.setBus b { a.bus b with off := false }) (s1.setCfield 0x20 33 32 1)
      let s3 := (List.range 5).foldl (fun a d => a.combOn d) s2
      .next ({ s3 with skewSince := some s.now.toNat
                       lowLines := s.lowLines.map fun x => (x.1, x.2.1, s.now.toNat) } : State).setCals
  | _ => notNow "OPTREQ_SET"

end Sys2Proof.Machine
end

