-- ==== Sys2Proof/Machine/Fabric.lean ====
section
/-! DEFINITION. The fabric (spec/23): the timetable's banks, beacons, forwarding, spares and failover, and time. -/

namespace Sys2Proof.Machine

/-! ### The timetable (R392-R394) -/

/-- The port whose timetable entries a port carries: that of a port which it has taken over, else its own (R399). -/
def State.serves (s : State) (port : Nat) : Nat :=
  ((List.range 18).find? fun e => e != port && s.carrier e == some port).getD port

/-- NOW at which the next slot begins (R392). -/
def State.nextSlot (s : State) : Nat :=
  let len := s.tt.slotNs * Config.ns
  if len = 0 then s.now.toNat else s.tt.start + ((s.now.toNat - s.tt.start) / len + 1) * len

/-- The committed move of a spare takes effect (R398). -/
def State.takeCommit (s : State) (k : Nat) : State :=
  let off := 0x9040 + 8 * k
  if s.cfield off 63 63 = 0 then s
  else
    let target := s.cfield off 7 0
    let s1 := (((s.setCfield off 61 61 1).setCfield off 15 8 target).setCfield off 63 63 0).setCfield off 62 62 0
    if k ≠ 2 then { s1 with claimFrom := tset s1.claimFrom k 0 }
    else
      match s1.busOfComb target with
      | some b => (s1.setBus b { s1.bus b with comb := 4 }).setCfield 0x88C8 1 0
          (if (s1.bus b).off ∨ s1.cfield (0x88A8 + 8 * target) 1 0 = 0 then 0 else 3)
      | none => s1

/-- BANK_SWAP (R392, R394, R398): NOW has reached START. Values outside the limits leave the old bank active. -/
def execBankSwap (s : State) : Out :=
  match s.ev with
  | some .bankSwap =>
    let start := (s.creg 0x9010).toNat
    let n := s.cfield 0x9008 6 0
    let ns := s.cfield 0x9008 31 16
    if s.ttDue = false ∨ s.now.toNat < start then notNow "BANK_SWAP"
    else if n < 1 ∨ 64 < n ∨ ns < 200 then .next { s with ttDue := false }
    else
      let t : Timetable := { epoch := s.cfield 0x9008 63 32, slotNs := ns, nslot := n, start := start }
      let s1 := { s.setCfield 0x9008 8 8 (1 - s.cfield 0x9008 8 8) with tt := t, ttDue := false, portSeen := [], portQuar := [] }
      .next ((List.range 3).foldl State.takeCommit s1)
  | _ => notNow "BANK_SWAP"

/-- NOW at which the slot under way began (R392). -/
def State.slotBegan (s : State) : Nat :=
  let len := s.tt.slotNs * Config.ns
  if len = 0 then s.tt.start else s.tt.start + (s.now.toNat - s.tt.start) / len * len

/-- Every port that is not lost sends a beacon as a slot begins: module id, port, EPOCH and NOW (R394, R401). -/
def State.sendBeacons (s : State) : State :=
  if s.tt.nslot = 0 ∨ s.now.toNat < s.tt.start then s
  else if s.beacons.any fun x => decide (s.slotBegan ≤ x.2.now) then s
  else
    { s with beacons := ((List.range 18).filter fun p => !s.lostPorts.contains p).map fun p =>
        (p, { module := s.module, port := p, epoch := s.tt.epoch, now := s.now.toNat }) }

/-! ### Time (R401) -/

/-- TSTAT takes a state and an offset. -/
def State.setTime (s : State) (st : Nat) (offs : BitVec 32) : State :=
  (s.setCfield 0x9020 63 62 st).setCfield 0x9020 31 0 offs.toNat

/-- HOLDOVER of the clock: NOW runs on its own oscillator (R401). -/
def State.holdTime (s : State) (offs : BitVec 32) : State :=
  { s.setTime 3 offs with slew := 0 }.health 0x09 0 offs.toNat 0

/-- NOW is disciplined by an offset in ns (R401): before READY it may be stepped, never back; from READY on it is slewed, and an
offset above 1 ms sets STATE to holdover. -/
def State.discipline (s : State) (st : Nat) (offs : BitVec 32) : State :=
  let ready := s.cfield 0x10 7 0 = 6
  if ready ∧ 1000000 < offs.toInt.natAbs then s.holdTime offs
  else if ready then { s.setTime st offs with slew := -offs.toInt * Config.ns }
  else { s.setTime st offs with now := s.now + BitVec.ofNat 64 ((-offs.toInt).toNat * Config.ns), slew := 0 }

/-- The offset in ns from a NOW that a peer sent, saturating. -/
def State.offsetFrom (s : State) (stamp : Nat) : BitVec 32 :=
  BitVec.ofInt 32 (max (-(2 ^ 31)) (min (2 ^ 31 - 1) (((s.now.toNat : Int) - stamp) / Config.ns)))

/-- A beacon that has matched disciplines NOW: that of a locked peer, under FABSRC and without a PTP lock (R401). -/
def State.followPeer (s : State) (stamp : Nat) (locked : Bool) : State :=
  if locked ∧ s.cfield 0x9028 8 8 = 1 ∧ s.cfield 0x9020 63 62 ≠ 1 then s.discipline 2 (s.offsetFrom stamp) else s

/-- BEACON (R394, R401): a port checks the beacon that it receives at the start of a slot; data moves on it from then on, or the
port is quarantined in the slot. -/
def execBeacon (s : State) : Out :=
  match s.ev with
  | some (.beacon port module peer epoch stamp locked) =>
    if s.tt.nslot = 0 ∨ s.tt.slotNs = 0 then notNow "BEACON"
    else
      let slot := s.slotNow
      let e := s.ttEntry slot (s.serves port)
      let same := nbits e 31 31 == 1 && nbits e 15 0 == module && nbits e 20 16 == peer && epoch == s.tt.epoch
      if s.portQuar.contains (port, slot) then .next s
      else if same then
        .next ((if s.portSeen.contains (port, slot) then s else { s with portSeen := (port, slot) :: s.portSeen }).followPeer
          stamp locked)
      else
        .next (({ s with portQuar := (port, slot) :: s.portQuar }.count 4).health 0x06 port slot
          (module % 2 ^ 16 * 2 ^ 32 + peer % 2 ^ 5 * 2 ^ 16 + epoch % 2 ^ 16))
  | _ => notNow "BEACON"

/-- FORWARD (R393): a packet of module src for module dst goes on from this module in a slot of a port to dst. No thread and no
register takes part. -/
def execForward (s : State) : Out :=
  match s.ev with
  | some (.forward _ dst port) =>
    let linked := (List.range s.tt.nslot).any fun slot => s.connects slot (s.serves port) dst && s.checkedIn slot port
    if linked then .next s else notNow "FORWARD"
  | _ => notNow "FORWARD"

/-! ### Spares (R398, R399) -/

/-- RESV (R398): a write that sets RESV takes effect only when CLAIMED is 0. -/
def execResv (s : State) : Out :=
  match s.ev with
  | some (.resv k target) =>
    let off := 0x9040 + 8 * k
    if s.cfield off 61 61 = 1 then .next s else .next ((s.setCfield off 62 62 1).setCfield off 7 0 target.toNat)
  | _ => notNow "RESV"

/-- COMMIT (R398): it takes effect only when RESV is 1 and CLAIMED is 0. -/
def execCommit (s : State) : Out :=
  match s.ev with
  | some (.commit k) =>
    let off := 0x9040 + 8 * k
    .next (s.setCfield off 63 63 (boolNat (s.cfield off 62 62 == 1 && s.cfield off 61 61 == 0)))
  | _ => notNow "COMMIT"

/-- The spare port that failover claims for a port: an unclaimed one without a reservation, else one whose reservation is not
committed (R399). -/
def State.sparePort (s : State) (port : Nat) : Option Nat :=
  let free := [0x9040, 0x9048].filter fun o =>
    s.cfield o 61 61 == 0 && s.cfield o 23 16 != port && !s.lostPorts.contains (s.cfield o 23 16)
  match free.find? fun o => s.cfield o 62 62 == 0 with
  | some o => some o
  | none => free.find? fun o => s.cfield o 63 63 == 0

/-- The fault domain of a port (R391). -/
def State.portFdom (s : State) (port : Nat) : Nat := s.config.portDom.getD port 0

/-- A port is lost (R399, R400): the spare that it claims takes over its entries from the next slot. -/
def State.losePort (s : State) (port : Nat) : State :=
  if s.lostPorts.contains port then s
  else
    let s1 := { s with lostPorts := port :: s.lostPorts }
    match s1.sparePort port with
    | none => s1.domainEvent (s1.portFdom port) port
    | some o =>
      let s2 := { (s1.setCfield o 61 61 1).setCfield o 15 8 port with
        claimFrom := tset s1.claimFrom ((o - 0x9040) / 8) s1.nextSlot }
      if s.cfield o 62 62 = 1 then (s2.setCfield o 62 62 0).setCfield o 60 60 1 else s2

/-- FAILOVER (R399): a port or a comb is lost, and claims a spare. -/
def execFailover (s : State) : Out :=
  match s.ev with
  | some (.failover comb n) => .next (if comb then s.loseComb n else s.losePort n)
  | _ => notNow "FAILOVER"

/-- PTP_MESSAGE (R401): NOW is disciplined by an offset in ns from the grandmaster of the PTP domain that TCFG names; a message of
another domain has no effect. -/
def execPtpMessage (s : State) : Out :=
  match s.ev with
  | some (.ptpMessage domain offs) => .next (if domain = s.cfield 0x9028 7 0 then s.discipline 1 offs else s)
  | _ => notNow "PTP_MESSAGE"

/-- HOLDOVER (R401): lock is lost, or the offset exceeds 1 ms. -/
def execHoldover (s : State) : Out :=
  match s.ev with
  | some (.holdover offs) =>
    if s.cfield 0x9020 63 62 = 1 ∨ s.cfield 0x9020 63 62 = 2 then .next (s.holdTime offs) else notNow "HOLDOVER"
  | _ => notNow "HOLDOVER"

end Sys2Proof.Machine
end

