-- ==== Sys2Proof/Machine/Boot.lean ====
section
/-! DEFINITION. The host's side (spec/22): reset and boot, the link, the mailbox and the SPDM responder, host and fabric accesses
to device memory, and register writes (spec/00 R4); trips (spec/25 R425). -/

namespace Sys2Proof.Machine

/-! ### Reset and boot (R385, R388, R389, R425) -/

/-- The slot of the flash that the boot ROM runs: of those whose image verifies the newer one; a transferred image takes part
once Activate FW has been asked for, or where no other verifies (R389; DEDUCED, notes/assumptions/16.md). -/
def State.bootSlot (s : State) : Option Nat :=
  let good := fun (k : Nat) => (s.flash[k]?).any fun f => f.verifies
  let ver := fun (k : Nat) => ((s.flash[k]?).map fun f => f.version.toNat).getD 0
  let cur := s.fwRun.getD 0
  let oth := 1 - cur
  if good cur ∧ (s.fwAsked = false ∨ good oth = false ∨ ver oth ≤ ver cur) then some cur
  else if good oth then some oth
  else none

/-- The boot ROM (R388): it verifies and measures the firmware image. -/
def State.rom (s : State) : State :=
  let c := s.cleared
  match s.bootSlot with
  | none => { c with fwRun := s.fwRun }.bootAt 1 1
  | some k =>
    let f := (s.flash[k]?).getD { bytes := [], verifies := false, version := 0 }
    { c.setCfield 0x10 63 32 f.version.toNat with
      fwRun := some k, meas1 := Config.sm3 (f.bytes.map fun (b : Byte) => b.toNat) }.bootAt 1 0

/-- A reset: boot begins, but not while a die that tripped is hot (R385, R425). -/
def State.restart (s : State) : State :=
  if s.cfield 0x10 15 8 = 0x10 then { s.cleared with fwRun := s.fwRun, fwAsked := s.fwAsked }.bootAt 1 0x10 else s.rom

/-- POWER_ON (R385). -/
def execPowerOn (s : State) : Out :=
  match s.ev with
  | some .powerOn => .next s.restart
  | _ => notNow "POWER_ON"

/-- CONVENTIONAL_RESET (R385): every launch ends without a record, and boot begins. -/
def execConventionalReset (s : State) : Out :=
  match s.ev with
  | some .conventionalReset => .next s.restart
  | _ => notNow "CONVENTIONAL_RESET"

/-- The stage that boot has reached without an error, with the measured image. -/
def State.bootedTo (s : State) (stage : Nat) : Bool :=
  s.cfield 0x10 7 0 == stage && s.cfield 0x10 15 8 == 0 && s.fwRun.isSome

/-- The configuration record as the numbers that its digest is formed of. -/
def configNats (c : SignedConfig) : List Nat :=
  [c.moduleId.toNat, c.spareA, c.spareB] ++ c.domain.map (·.toNat) ++ c.portDom ++ c.combDom
    ++ c.fr.flatMap fun x => [x.1, (x.2 % 2 ^ 64).toNat]

/-- Firmware applies a verified configuration record (R388, R391, R398). -/
def State.applyConfig (s : State) (c : SignedConfig) : State :=
  let s1 := { s with config := c, meas2 := Config.sm3 (configNats c) }
  let s2 := (s1.setCfield 0x9000 47 32 c.moduleId.toNat).setCfield 0x9000 3 0 c.domain.length
  (s2.setCfield 0x9040 23 16 c.spareA).setCfield 0x9048 23 16 c.spareB

/-- CONFIG (R388). -/
def execConfig (s : State) : Out :=
  match s.ev with
  | some (.config ok c) =>
    if !s.bootedTo 1 then notNow "CONFIG"
    else if ok then .next ((s.applyConfig c).bootAt 2 0)
    else .next (s.bootAt 2 2)
  | _ => notNow "CONFIG"

/-- IDENT (R388). -/
def execIdent (s : State) : Out :=
  match s.ev with
  | some (.ident ok) => if !s.bootedTo 2 then notNow "IDENT" else .next (s.bootAt 3 (if ok then 0 else 3))
  | _ => notNow "IDENT"

/-- MEMUP (R384, R388): HBM4 is trained and zeroed. -/
def execMemup (s : State) : Out :=
  match s.ev with
  | some (.memup ok) =>
    if !s.bootedTo 3 then notNow "MEMUP"
    else if ok then .next ({ s with mem := [], marks := [] }.bootAt 4 0)
    else .next (s.bootAt 4 4)
  | _ => notNow "MEMUP"

/-- OPTIC (R388, R407, R408, R412): lasers on, heaters locked, skew calibrated; `temp` is the junction's temperature. A failure
does not stop boot. -/
def execOptic (s : State) : Out :=
  match s.ev with
  | some (.optic ok temp) =>
    if !s.bootedTo 4 then notNow "OPTIC"
    else if tooHot temp then .next s.tripped
    else if !ok then .next (s.bootAt 5 5)
    else
      let s1 := (List.range 5).foldl (fun a d => a.combOn d) { s with warmed := true }
      let s2 := (List.range 32).foldl (fun a t => ((a.setCfield (tileOff t) 63 48 temp.toNat).setCfield (tileOff t) 0 0 1)) s1
      .next (((List.range 32).foldl (fun a t => a.setCal t) s2).bootAt 5 0)
  | _ => notNow "OPTIC"

/-- READY (R388, R422): the shepherd is enabled, and the package enters RUN or OPTOFF. -/
def execReady (s : State) : Out :=
  match s.ev with
  | some .ready =>
    if s.cfield 0x10 7 0 ≠ 5 ∨ s.fwRun.isNone = true then notNow "READY"
    else
      let s1 := s.bootAt 6 (s.cfield 0x10 15 8)
      if s.cfield 0x20 0 0 = 1 then .next (s1.setCfield 0x20 33 32 1)
      else .next ((List.range 4).foldl (fun a b => (a.setBus b { a.bus b with off := true }).combOff (a.bus b).comb) s1).setCals
  | _ => notNow "READY"

/-- TRIP (R425): a die measures its junction, which has reached 105 °C. -/
def execTrip (s : State) : Out :=
  match s.ev with
  | some (.trip _ temp) => if tooHot temp then .next s.tripped else notNow "TRIP"
  | _ => notNow "TRIP"

/-- TRIP_RECOVERY (R425): after a trip, the junction is measured below 70 °C, and boot begins again. -/
def execTripRecovery (s : State) : Out :=
  match s.ev with
  | some (.tripRecovery temp) =>
    if s.cfield 0x10 15 8 = 0x10 ∧ signed 16 temp.toNat < 70 * 16 then .next s.rom else notNow "TRIP_RECOVERY"
  | _ => notNow "TRIP_RECOVERY"

/-! ### The link (R385, R387) -/

/-- LINK_DOWN (R385): work goes on. -/
def execLinkDown (s : State) : Out :=
  match s.ev with
  | some .linkDown => .next { s with linkUp := false }
  | _ => notNow "LINK_DOWN"

/-- LINK_UP (R385): the signals that waited are sent. -/
def execLinkUp (s : State) : Out :=
  match s.ev with
  | some .linkUp => .next (s.msixWait.foldl State.fire { s with linkUp := true, msixWait := [] })
  | _ => notNow "LINK_UP"

/-! ### Accesses of the host and of other modules (R71, R384) -/

/-- The CXL.mem range is active (R384, R388). -/
def State.memActive (s : State) : Bool := decide (4 ≤ s.cfield 0x10 7 0) && s.cfield 0x10 15 8 != 4

/-- What a read of n bytes of device memory answers (R415). -/
def State.readDevice (s : State) (pa n : Nat) : Answer :=
  if (s.firstMark (.dev pa) 0 n).isSome then .poison Poison.soft else .data (s.peekN (.dev pa) n)

/-- CXL_MEM_ACCESS (R71, R384): an access of the host within one 64-byte line. Until MEMUP reads are poisoned and writes
dropped. -/
def execCxlMemAccess (s : State) : Out :=
  match s.ev with
  | some (.cxlMemAccess write pa data) =>
    if s.linkUp = false ∨ Config.deviceBytes < pa / 64 * 64 + 64 ∨ 64 < pa % 64 + data.length then notNow "CXL_MEM_ACCESS"
    else if !s.memActive then .next { s with answer := some (if write then .done else .poison Poison.soft) }
    else if write then .next { s.put (.dev pa) data with answer := some .done }
    else .next { s.lease (.dev (pa / 64 * 64)) 64 with answer := some (s.readDevice (pa / 64 * 64) 64) }
  | _ => notNow "CXL_MEM_ACCESS"

/-- REMOTE_ACCESS (R71): this package's stack logic performs an access of another module on its memory, within one line. An
atomic's data are its operand and, for a compare-and-swap, the value compared with. Nothing that arrives by a port whose beacon
of the slot has not matched is delivered (R394). -/
def execRemoteAccess (s : State) : Out :=
  match s.ev with
  | some (.remoteAccess op port module pa data) =>
    let n := match op with
      | .atomic _ aw => atomBytes aw
      | _ => data.length
    if !s.arrives module (some port) then .next s
    else if Config.deviceBytes < pa + n ∨ 128 < pa % 128 + n then .next { s with answer := some (.poison Poison.refused) }
    else
      match op with
      | .load => .next { s.lease (.dev pa) n with answer := some (s.readDevice pa n) }
      | .store => .next { s.put (.dev pa) data with answer := some .done }
      | .atomic o aw =>
        if pa % n ≠ 0 then .next { s with answer := some (.poison Poison.refused) }
        else
          match s.atomOld (.dev pa) n with
          | none => .next { s with answer := some (.poison Poison.soft) }
          | some old =>
            .next (match atomNew o aw old (fieldAt data 0 n) (fieldAt data n n) with
              | some new => { s.put (.dev pa) (natLe n new) with answer := some (.data (natLe n old)) }
              | none => { s.lease (.dev pa) n with answer := some (.data (natLe n old)) })
  | _ => notNow "REMOTE_ACCESS"

/-- REGISTER_WRITE (R4): a host write of a control register, whole or of one half. One to an offset that no block defines, or of
half an action register, is refused. -/
def execRegisterWrite (s : State) : Out :=
  match s.ev with
  | some (.registerWrite off half v) =>
    if s.linkUp = false then notNow "REGISTER_WRITE"
    else if off % 8 ≠ 0 ∨ (ctlFields off).isNone = true ∨ (half.isSome ∧ isAction off = true) then .next s
    else .next (s.ctlWrite off half v)
  | _ => notNow "REGISTER_WRITE"

/-- A host read of a register through BAR0, of 8 or of 4 bytes: one that is refused returns all ones (R191, R386). -/
def State.hostRead (s : State) (off : Nat) (wide : Bool) : State :=
  let n := if wide then 8 else 4
  if s.linkUp then
    { s with answer := some (.data (match s.ctlLoad off n with
      | some v => natLe n v
      | none => List.replicate n 0xFF)) }
  else s

/-! ### The primary mailbox (R389) -/

/-- An answer of the mailbox. -/
def State.mboxSays (s : State) (r : MboxReply) : Out := .next { s with mbox := some r }

/-- Identify: a body whose contents the spec does not give. -/
def execIdentify (s : State) : Out :=
  match s.ev with
  | some .identify => s.mboxSays (.success (Config.mailboxBody 0))
  | _ => notNow "IDENTIFY"

/-- Get Health Info: a body whose contents the spec does not give. -/
def execGetHealthInfo (s : State) : Out :=
  match s.ev with
  | some .getHealthInfo => s.mboxSays (.success (Config.mailboxBody 1))
  | _ => notNow "GET_HEALTH_INFO"

/-- Get FW Info: the version of the running firmware, then a body whose contents the spec does not give. -/
def execGetFwInfo (s : State) : Out :=
  match s.ev with
  | some .getFwInfo => s.mboxSays (.success (natLe 4 (s.cfield 0x10 63 32) ++ Config.mailboxBody 2))
  | _ => notNow "GET_FW_INFO"

/-- Transfer FW writes the inactive slot of the flash (R389). -/
def execTransferFw (s : State) : Out :=
  match s.ev with
  | some (.transferFw image verifies version) =>
    let k := 1 - s.fwRun.getD 0
    { s with flash := s.flash.set k { bytes := image, verifies := verifies, version := version } }.mboxSays (.success [])
  | _ => notNow "TRANSFER_FW"

/-- Activate FW takes effect at the next reset (R389). -/
def execActivateFw (s : State) : Out :=
  match s.ev with
  | some .activateFw => { s with fwAsked := true }.mboxSays (.success [])
  | _ => notNow "ACTIVATE_FW"

/-- Every other opcode returns Unsupported (R389). -/
def execUnsupported (s : State) : Out :=
  match s.ev with
  | some (.unsupported _) => s.mboxSays .unsupported
  | _ => notNow "UNSUPPORTED"

/-! ### The SPDM responder (spec/22, Attestation) -/

/-- ERROR codes of SPDM 1.2 (PRESUMED, notes/assumptions/17.md). -/
def spdmInvalid : Nat := 0x01
/-- UnsupportedRequest. -/
def spdmUnsupported : Nat := 0x07

/-- An answer of the responder; a requester that was turned away receives nothing more until it starts again. -/
def State.spdmSays (s : State) (r : SpdmReply) : Out := .next { s with spdm := if s.spdmShut then none else some r }

/-- The digest of the certificate of slot 0. -/
def certDigest : BitVec 256 := Config.sm3 (Config.certificate.map (·.toNat))

/-- A measurement block (spec/22). -/
def State.measurement (s : State) (k : Nat) : BitVec 256 :=
  if k = 1 then s.meas1 else if k = 2 then s.meas2 else Config.rawMeasurement k

/-- GET_VERSION: SPDM 1.2. -/
def execGetVersion (s : State) : Out :=
  match s.ev with
  | some .getVersion => { s with spdmShut := false }.spdmSays .version
  | _ => notNow "GET_VERSION"

/-- GET_CAPABILITIES: the flags, which the spec does not give. -/
def execGetCapabilities (s : State) : Out :=
  match s.ev with
  | some .getCapabilities => s.spdmSays (.capabilities (Config.mailboxBody 3))
  | _ => notNow "GET_CAPABILITIES"

/-- NEGOTIATE_ALGORITHMS: SM3_256 and SM2, or ERROR and nothing more. -/
def execNegotiateAlgorithms (s : State) : Out :=
  match s.ev with
  | some (.negotiateAlgorithms sm3 sm2) =>
    if sm3 && sm2 then s.spdmSays .algorithms
    else
      .next { s with spdm := if s.spdmShut then none else some (.error spdmUnsupported), spdmShut := true }
  | _ => notNow "NEGOTIATE_ALGORITHMS"

/-- GET_DIGESTS: the one certificate, of slot 0. -/
def execGetDigests (s : State) : Out :=
  match s.ev with
  | some .getDigests => s.spdmSays (.digests certDigest)
  | _ => notNow "GET_DIGESTS"

/-- GET_CERTIFICATE: slot 0 holds the identity certificate; the other slots are empty. -/
def execGetCertificate (s : State) : Out :=
  match s.ev with
  | some (.getCertificate slot) => s.spdmSays (.certificate (if slot = 0 then Config.certificate else []))
  | _ => notNow "GET_CERTIFICATE"

/-- CHALLENGE: signed with the identity key of slot 0. -/
def execChallenge (s : State) : Out :=
  match s.ev with
  | some (.challenge slot nonce) =>
    if slot = 0 then
      s.spdmSays (.challengeAuth certDigest nonce (Config.sm2Sign [0, nonce, certDigest.toNat, s.meas1.toNat, s.meas2.toNat]))
    else s.spdmSays (.error spdmInvalid)
  | _ => notNow "CHALLENGE"

/-- GET_MEASUREMENTS: one block of the four, or all of them, signed. -/
def execGetMeasurements (s : State) : Out :=
  match s.ev with
  | some (.getMeasurements index nonce) =>
    let ks := if 1 ≤ index ∧ index ≤ 4 then [index] else if index = 0xFF then [1, 2, 3, 4] else []
    if ks = [] then s.spdmSays (.error spdmInvalid)
    else
      let bs := ks.map fun k => (k, s.measurement k)
      s.spdmSays (.measurements bs nonce (Config.sm2Sign ([1, nonce] ++ bs.flatMap fun b => [b.1, b.2.toNat])))
  | _ => notNow "GET_MEASUREMENTS"

end Sys2Proof.Machine
end

