-- ==== Sys2Proof/Machine/Branch.lean ====
section
/-! DEFINITION. Branches, calls and jumps (spec/06 R146-R148): a target is checked before anything is written. -/

namespace Sys2Proof.Machine

/-- The target of format B (R146). -/
def branchTarget (pc : Word) (i : BitVec 21) : Word := pc + (i.signExtend 64 <<< 2)

/-- The checks of R148 on a target, then the transfer. -/
def State.transfer (s : State) (target : Word) (f : Thread → Thread) : State :=
  if bits target 1 0 ≠ 0 then s.trap (.misaligned target)
  else if bits target 63 52 ≠ 0 then
    s.trap { cause := .accessFault, code := 0, addr := target, info := 0, reason := Reason.range }
  else s.onThr fun t => { f t with pc := target }

/-- BR (R146). -/
def execBr (g : Guard) (i : BitVec 21) (s : State) : Out :=
  control g 4 [] [] (fun s => s.transfer (branchTarget s.thr.pc i) id) s

/-- CALL links pc + 4 into s63 (R146). -/
def execCall (g : Guard) (i : BitVec 21) (s : State) : Out :=
  control g 4 [] [63] (fun s =>
    s.transfer (branchTarget s.thr.pc i) fun t => t.setS 63 (t.pc + 4)) s

/-- JR (R147). -/
def execJr (g : Guard) (a : Reg6) (s : State) : Out :=
  control g 4 [rs a] [] (fun s => s.transfer (s.thr.sreg a) id) s

/-- JALR reads its target before it links pc + 4 (R147). -/
def execJalr (g : Guard) (d a : Reg6) (s : State) : Out :=
  control g 4 [rs a] [rs d] (fun s => s.transfer (s.thr.sreg a) fun t => t.setS d (t.pc + 4)) s

end Sys2Proof.Machine
end

