-- ==== Sys2Proof/Machine/Readback.lean ====
section
/-! DEFINITION. The readback window (spec/22 R390, spec/24 R418). -/

namespace Sys2Proof.Machine

/-- u64 values as bytes. -/
def regBytes64 (s : State) (offs : List Nat) : List Byte := offs.flatMap fun o => natLe 8 (s.ctlRead o).toNat

/-- Entry e of a core's pending table: valid, GTID, register index, CLASS, EPOCH. The index of a binding whose result is to be
discarded is that of s0 (R390). -/
def State.pendingWord (s : State) (core e : Nat) : Nat :=
  match s.binds.find? fun b => b.holder.isSome && b.entryCore == core && b.entry == e with
  | none => 0
  | some b =>
    let i := match b.loc with
      | .reg _ i => i
      | _ => 0
    2 ^ 63 + (b.holder.getD 0) % 2 ^ 13 * 2 ^ 50 + i * 2 ^ 42 + b.tag.cls * 2 ^ 38 + s.epoch core e * 2 ^ 30

/-- Class 0x06: the packs that are resident or saved. -/
def State.packList (s : State) : List Byte :=
  natLe 8 s.packs.length ++ s.packs.flatMap fun p =>
    words64 [p.key / 2 ^ 24, p.key % 2 ^ 24, p.cluster, p.out.getD 0xFFFFFFFF]

/-- HRING of every ring of a tile in the layout of R409. -/
def State.hringBytes (s : State) (tile : Nat) : List Byte :=
  (List.range 128).flatMap fun c => (List.range 68).flatMap fun r => natLe 8 (s.hring tile c r).toNat

/-- Class 0x07: a page of a die's optical state and counters (R418). -/
def State.diePage (s : State) (die page : Nat) : Option (List Byte) :=
  if page = 0 then
    some ((List.range 256).flatMap fun i =>
      let k := s.core (256 * die + i)
      words64 [k.cpldrop.toNat, k.cplstale.toNat, k.frlost.toNat])
  else if page = 1 then
    some (((List.range 8).flatMap fun t => regBytes64 s (tabulate 8 fun i => tileOff (8 * die + t) + 8 * i))
      ++ regBytes64 s [0x8880 + 8 * die, 0x88A8 + 8 * die])
  else if page < 18 then
    some ((s.hringBytes (8 * die + (page - 2) / 2)).drop ((page - 2) % 2 * 65536))
  else none

/-- The bytes of the object that a class and an index name; none where they name none (R390). -/
def State.object (s : State) (cls index : Nat) : Option (List Byte) :=
  match cls with
  | 1 => if index < 8192 ∧ (s.thread index).status ≠ .idle then some (residentBlock (s.thread index)) else none
  | 2 => if index < 1024 then some (words64 (tabulate 512 (s.pendingWord index))) else none
  | 3 => if index < 1024 then some (s.ringBlocks index) else none
  | 4 => if index < 32 then some (s.tileBlock index) else none
  | 5 => if index < 4 then some (s.busBlock index) else none
  | 6 => some (s.packList.take 65536)
  | _ => none

/-- The captured page. -/
def State.captured (s : State) (cls page index : Nat) : Option (List Byte) :=
  if cls = 7 then (if index < 4 then (s.diePage index page).map fun b => b.take 65536 else none)
  else
    match s.object cls index with
    | some bs => if 65536 * page < bs.length then some ((bs.drop (65536 * page)).take 65536) else none
    | none => none

/-- RBSEL (R390): the selected page is captured at this instant; a selection that names no object leaves the window. -/
def execRbsel (s : State) : Out :=
  match s.ev with
  | some (.rbsel v) =>
    let s1 := s.setCreg 0x6000 (plainWrite [⟨63, 56, .rw⟩, ⟨55, 48, .rw⟩, ⟨15, 0, .rw⟩] none (s.creg 0x6000) v)
    match s.captured (bits v 63 56) (bits v 55 48) (bits v 15 0) with
    | some bs => .next { s1.setCfield 0x6008 1 0 0 with window := bs }
    | none => .next (s1.setCfield 0x6008 1 0 2)
  | _ => notNow "RBSEL"

end Sys2Proof.Machine
end

