-- ==== Sys2Proof/Machine/Debug.lean ====
section
/-! DEFINITION. The debug mailbox (spec/21 R377-R383): attaching, halting, rewinding, replaying. -/

namespace Sys2Proof.Machine

/-! ### Results (R377) -/

/-- OK. -/
def Dbg.ok : Nat := 0x00
/-- ENTANGLED. -/
def Dbg.entangled : Nat := 0x01
/-- IRREVERSIBLE. -/
def Dbg.irreversible : Nat := 0x02
/-- HORIZON. -/
def Dbg.horizon : Nat := 0x03
/-- NOTHALTED. -/
def Dbg.notHalted : Nat := 0x04
/-- BADWINDOW. -/
def Dbg.badWindow : Nat := 0x05
/-- UNPOSITIONED. -/
def Dbg.unpositioned : Nat := 0x06
/-- PARKED. -/
def Dbg.parked : Nat := 0x07
/-- REFUSED. -/
def Dbg.refused : Nat := 0x08
/-- NOTRAIL. -/
def Dbg.noTrail : Nat := 0x09

/-- A command ends at the obstacle entry e of a window (R380). -/
def State.dbgObstacle (s : State) (code window : Nat) (e : Entry) : State :=
  ((s.dbgEnd code window).setCfield 0x5028 47 0 e.ts).setCfield 0x5030 51 0 e.addr

/-- ATTACHED says whether a debugger holds a region (R377). -/
def State.showAttached (s : State) : State := s.setCfield 0x5020 1 1 (boolNat (!s.attached.isEmpty))

/-- The agent of a command's own accesses (R377). -/
def dbgAgent (c : DbgCmd) : Agent := { core := 0, lid := 0, pack := none, asid := c.asid }

/-- The virtual address of the RCB that a command names. -/
def dbgVa (c : DbgCmd) : Word := BitVec.ofNat 64 (bits c.rcb 51 8 * 256)

/-- The effective values of a named region: those kept while it is active, or those that its chain gives now. -/
def State.dbgValues (s : State) (c : DbgCmd) : Option Region := (s.packetRegion (dbgAgent c) (dbgVa c)).2

/-- The region that a command names (R377), as the device physical address of its RCB: none where it does not translate, and an
address on a held page that the command waits for. -/
def State.dbgRegion (s : State) (c : DbgCmd) : Except Word (Option Nat) :=
  match s.packetRegion (dbgAgent c) (dbgVa c) with
  | (.held va, _) => .error va
  | _ =>
    match s.locate (dbgAgent c) (dbgVa c) .load with
    | .ok (.dev pa) _ => .ok (some pa)
    | _ => .ok none

/-- A command waits, BUSY, for a held page; one whose hold outlasts TIMEOUT is refused (R335). -/
def State.dbgHold (s : State) (e : Event) (ag : Agent) (va : Word) : State :=
  match s.keepHold ag (s.dbgWait.map (·.2.2)) va with
  | some h => { s.setCfield 0x5020 0 0 1 with dbgWait := some (e, ag.asid, h) }
  | none => { s with dbgWait := none }.dbgEnd Dbg.refused 0

/-- What a command does to its region: its state, or the address on a held page that it waits for, with the agent. -/
abbrev DbgBody : Type := State → Nat → Except (Agent × Word) State

/-- A command on its region: ignored while BUSY, refused where its region does not translate. -/
def State.dbgCommand (s : State) (e : Event) (c : DbgCmd) (body : DbgBody) : Out :=
  if s.cfield 0x5020 0 0 = 1 then .next s
  else
    match s.dbgRegion c with
    | .error va => .next (s.dbgHold e (dbgAgent c) va)
    | .ok none => .next ({ s with dbgWait := none }.dbgEnd Dbg.refused 0)
    | .ok (some pa) =>
      let chain := ((s.dbgValues c).map (·.chain)).getD [pa]
      match body { s with named := (pa, chain) :: s.named.filter fun x => x.1 != pa } pa with
      | .error x => .next (s.dbgHold e x.1 x.2)
      | .ok t => .next { t with dbgWait := none }

/-- A command whose wait is over goes on (R335). -/
def State.retryDebug (s : State) : State :=
  match s.dbgWait with
  | some (e, _, h) => if s.cfield 0x5020 0 0 = 1 ∧ s.retries (some h) = true then (s.setCfield 0x5020 0 0 0).soon e else s
  | none => s

/-- The packs of a region and its descendants. -/
def State.packsUnder (s : State) (rcb : Nat) : List Pack := s.packs.filter fun p => s.inRegions p.key [rcb]

/-! ### ATTACH, DETACH, WATCH (R378) -/

/-- The regions above one that a command has named, nearest first. -/
def State.above (s : State) (pa : Nat) : List Nat :=
  (((s.named.find? fun x => x.1 == pa).map (·.2)).getD []).filter fun c => c != pa

/-- What hides the watchpoints, in some slots, of the regions above one from it and its descendants (R378). -/
def State.hides (s : State) (pa : Nat) (slots : List Nat) : List Watch :=
  (slots.filter fun k => (s.watchIn (s.above pa) k).any fun w => w.read || w.write).map fun k =>
    { rcb := pa, slot := k, addr := 0, len := 0, read := false, write := false }

/-- ATTACH (R378). -/
def execAttach (s : State) : Out :=
  match s.ev with
  | some (.attach c) => s.dbgCommand (.attach c) c fun s pa =>
      .ok ({ s with attached := if s.attached.contains pa then s.attached else pa :: s.attached
                    detached := s.detached.filter fun h => !s.isUnder pa h }.showAttached.dbgEnd Dbg.ok 0)
  | _ => notNow "ATTACH"

/-- DETACH (R378): it ends ATTACH and clears the watchpoints, of the region and of its descendants, also where a region above it
stays attached or watched. -/
def execDetach (s : State) : Out :=
  match s.ev with
  | some (.detach c) => s.dbgCommand (.detach c) c fun s pa =>
      let below := s.detached.filter fun h => !s.isUnder pa h
      .ok ({ s with attached := s.attached.filter fun h => !s.isUnder pa h
                    detached := if (s.above pa).any s.attached.contains then pa :: below else below
                    watches := (s.watches.filter fun (w : Watch) => !s.isUnder pa w.rcb) ++ s.hides pa [0, 1, 2, 3]
            }.showAttached.dbgEnd Dbg.ok 0)
  | _ => notNow "DETACH"

/-- WATCH (R378): a watchpoint of a slot is set, or cleared by mode 0b00, for the region and its descendants. -/
def execWatch (s : State) : Out :=
  match s.ev with
  | some (.watch c) => s.dbgCommand (.watch c) c fun s pa =>
      if bits c.arg0 63 52 ≠ 0 ∨ bits c.arg1 63 36 ≠ 0 then .ok (s.dbgEnd Dbg.refused 0)
      else
        let slot := bits c.arg1 35 34
        let mode := bits c.arg1 33 32
        let rest := s.watches.filter fun w => !(s.isUnder pa w.rcb && w.slot == slot)
        let w : Watch := { rcb := pa, slot := slot, addr := bits c.arg0 51 0, len := bits c.arg1 31 0, read := mode % 2 == 1,
                           write := mode / 2 == 1 }
        .ok ({ s with watches := rest ++ if mode = 0 then s.hides pa [slot] else [w] }.dbgEnd Dbg.ok 0)
  | _ => notNow "WATCH"

/-! ### HALT and RESUME (R379) -/

/-- HALT (R379): it stays BUSY until commands in flight have ended. -/
def execHalt (s : State) : Out :=
  match s.ev with
  | some (.halt c) => s.dbgCommand (.halt c) c fun s pa =>
      .ok { (s.haltRegion pa).setCfield 0x5020 0 0 1 with halting := some pa }
  | _ => notNow "HALT"

/-- A sequencer holds: no frame of its session is in flight for it. -/
def State.holding (s : State) (q : Nat) : Bool :=
  let x := s.seqr q
  x.cmd.isNone || (x.busy.isNone && (!isTx q || (s.bus (q - 32)).flight.isNone))

/-- Every copy, collective and LAUNCH command of a region has ended, and every sequencer holds (R379). A LAUNCH with END whose
child is itself halted by the command cannot end and is not waited for (DEDUCED, notes/assumptions/30.md). -/
def State.haltDone (s : State) (rcb : Nat) : Bool :=
  let mine := fun (c : Ctx) => s.inRegions c.pack [rcb]
  !(s.copies.any fun c => mine c.ctx) && !(s.colls.any fun c => c.2.run.any fun r => mine r.ctx)
    && !(s.arming.any fun c => mine c.ctx) && !(s.disarming.any fun c => mine c.ctx) && !(s.collBars.any fun c => mine c.ctx)
    && !(s.childReqs.any fun c => mine c.ctx) && !(s.launches.any fun l => l.endTag.any (fun x => mine x.2) && !s.isHalted l)
    && (s.packsUnder rcb).all fun p => p.out.isSome || p.seqrs.all s.holding

/-- HALT_COMPLETE (R379). -/
def execHaltComplete (s : State) : Out :=
  match s.ev with
  | some .haltComplete =>
    match s.halting with
    | some pa => if s.haltDone pa then .next ({ s with halting := none }.dbgEnd Dbg.ok 0) else notNow "HALT_COMPLETE"
    | none => notNow "HALT_COMPLETE"
  | _ => notNow "HALT_COMPLETE"

/-- Some thread of a region is unpositioned (R380). -/
def State.hasAstray (s : State) (rcb : Nat) : Bool :=
  (s.packsUnder rcb).any fun p =>
    if p.out.isSome then p.astray != [] else (s.threadsOf p).any fun g => !(s.thread g).positioned

/-- The threads and sequencers of a pack go on. -/
def State.release (s : State) (p : Pack) : State :=
  let s1 := (s.threadsOf p).foldl (fun a g => a.setThread g { a.thread g with halted := false }) s
  p.seqrs.foldl (fun a q => a.setSeqr q { a.seqr q with halt := false, rests := false }) s1

/-- RESUME (R378): the region and its descendants go on, also where a region above it stays halted. -/
def execResume (s : State) : Out :=
  match s.ev with
  | some (.resume c) => s.dbgCommand (.resume c) c fun s pa =>
      if s.hasAstray pa then .ok (s.dbgEnd Dbg.unpositioned 0)
      else
        let s1 := { s with halted := s.halted.filter fun h => !s.isUnder pa h, resumed := s.resumed.filter fun h => !s.isUnder pa h }
        let s2 := if (s.dbgValues c).any s1.regionHalted then { s1 with resumed := pa :: s1.resumed } else s1
        .ok (((s2.packsUnder pa).filter fun p => p.out.isNone).foldl State.release s2 |>.dbgEnd Dbg.ok 0)
  | _ => notNow "RESUME"

/-! ### Trails of regions without an active launch -/

/-- The trail of a region whose owner has no active launch is reached in the command's address space (DEDUCED,
notes/assumptions/30.md). -/
def State.borrowTrail (s : State) (r : Region) (c : DbgCmd) : State :=
  if s.trails.any fun u => u.owner == r.owner then s
  else
    let ps := match s.trailPages (dbgAgent c) r.trailBase 0 (r.trailU * 2 ^ 21) (32 * r.trailU) with
      | .ok ps => ps
      | _ => []
    { s with trails := s.trails ++ [{ owner := r.owner, asid := c.asid, area := r.area, pages := ps, spoiled := false, failed := false,
                                      hold := none }] }

/-- A trail that a command borrowed is given back. -/
def State.returnTrail (s t : State) (r : Region) : State :=
  if s.trails.any fun u => u.owner == r.owner then t else { t with trails := t.trails.filter fun u => u.owner != r.owner }

/-- A command on the trail of its region: NOTRAIL where it is disabled (R378), and a wait where the buffer lies on a held page. -/
def State.onTrail (s : State) (c : DbgCmd) (body : State → Region → Except (Agent × Word) State) : Except (Agent × Word) State :=
  match s.dbgValues c with
  | none => .ok (s.dbgEnd Dbg.refused 0)
  | some r =>
    if r.trail = 0 then .ok (s.dbgEnd Dbg.noTrail 0)
    else
      let s1 := s.borrowTrail r c
      let ag := s1.trailAgent r
      match s1.trailPages ag r.trailBase 0 (r.trailU * 2 ^ 21) (32 * r.trailU) with
      | .held va => .error (ag, va)
      | _ => (body s1 r).map fun t => s.returnTrail t r

/-! ### TRIM (R375, R378) -/

/-- TRIM (R378): the windows below n are recycled. -/
def execTrim (s : State) : Out :=
  match s.ev with
  | some (.trim c) => s.dbgCommand (.trim c) c fun s _ => s.onTrail c fun s r =>
      let n := bits c.arg0 31 0
      let old := s.trailOld r
      match s.windowEntry r n with
      | none => .ok (s.dbgEnd Dbg.badWindow 0)
      | some (at_, _) =>
        if n ≤ old ∨ s.trailNext r ≤ n ∨ s.trailFailed r = true then .ok (s.dbgEnd Dbg.badWindow 0)
        else
          let s1 := s.setTrailHdr r 0x08 8 at_
          let s2 := s1.setTrailHdr r 0x1C 4 n
          .ok ((s2.setTrailHdr r 0x20 8 (min (2 ^ 64 - 1) (s2.trailHdr r 0x20 8 + (n - old)))).dbgEnd Dbg.ok 0)
  | _ => notNow "TRIM"

/-! ### REWIND: the obstacles (R380, R381) -/

/-- Whether an entry records a write to memory (R370). -/
def Entry.isMem (e : Entry) : Bool := e.kind == 1 || e.kind == 2 || e.kind == 3 || e.kind == 4 || e.kind == 5

/-- The lines that an entry covers at a place, each with its PREV (R369). -/
def Entry.linesAt (e : Entry) (p : Place) : List (Nat × Nat) :=
  let l0 := p.line
  let l1 := (p.add e.size).line
  if l1 = l0 then [(l0, e.prev0)] else [(l0, e.prev0), (l1, e.prev1)]

/-- The cores on which an entry in the local window may lie: that of its thread, or, for a write that no thread made, those of
the owner's resident packs. -/
def State.entryCores (s : State) (r : Region) (e : Entry) : List Nat :=
  let cores := if e.gtid < 8192 then [coreOf e.gtid]
    else (s.resident.filter fun p => (s.trailOf p.key).any fun q => q.owner == r.owner).flatMap fun p => p.cores
  if nbits e.addr 39 39 = 0 then cores else cores.map fun c => clusterOf c * 128 + nbits e.addr 27 21

/-- Where the bytes of a memory entry lie: in the trail's address space, or in the pool whose line carries the entry's
timestamp, now or before the newer entries. -/
def State.entryPlace (s : State) (r : Region) (newer : List (Entry × Place)) (e : Entry) : Option Place :=
  if isLocal (BitVec.ofNat 64 e.addr) then
    let ps := (s.entryCores r e).map fun c => Place.pool c (nbits e.addr 34 32) (nbits e.addr 20 0)
    if e.gtid < 8192 then ps.head?
    else ps.find? fun p => (s.stamps p.line).1 == e.ts
      || newer.any fun x => (x.1.linesAt x.2).any fun l => l.1 == p.line && l.2 == e.ts
  else
    match s.locate (s.trailAgent r) (BitVec.ofNat 64 e.addr) .store with
    | .ok (.dev pa) _ => some (.dev pa)
    | _ => none

/-- A timestamp lies in a range that a REWOUND entry records (R381). -/
def inRewound (es : List (Nat × Entry)) (t : Nat) : Bool :=
  es.any fun x => x.2.kind == Kind.rewound && decide (x.2.addr % 2 ^ 48 ≤ t) && decide (t ≤ x.2.prev0)

/-- Whether an entry may cover a line: it does at the place of its address, or, in the local window, on a core that it may mean.
-/
def State.mayCover (s : State) (r : Region) (e : Entry) (line : Nat) : Bool :=
  if isLocal (BitVec.ofNat 64 e.addr) then
    (s.entryCores r e).any fun c => (e.linesAt (Place.pool c (nbits e.addr 34 32) (nbits e.addr 20 0))).any fun l => l.1 == line
  else
    match s.locate (s.trailAgent r) (BitVec.ofNat 64 e.addr) .store with
    | .ok p _ => (e.linesAt p).any fun l => l.1 == line
    | _ => false

/-- Whether one line of an entry shows a write of another context (R380). -/
def State.entangled (s : State) (r : Region) (es older : List (Nat × Entry)) (newer : List (Entry × Place)) (tn : Nat) (e : Entry)
    (l : Nat × Nat) : Bool :=
  let now := (s.stamps l.1).1
  let newest := !(newer.any fun x => (x.1.linesAt x.2).any fun m => m.1 == l.1)
  (newest && now != e.ts && !inRewound es now)
    || (decide (tn < l.2) && !inRewound es l.2
      && !(older.any fun x => x.2.isMem && x.2.ts == l.2 && s.mayCover r x.2 l.1))

/-- Goes through the entries after T_n, newest first: the writes to undo, or the first obstacle with its result. -/
def State.scanBack (s : State) (r : Region) (es : List (Nat × Entry)) (tn : Nat) (force : Bool) (newer : List (Entry × Place)) :
    List (Nat × Entry) → Except (Nat × Nat × Entry) (List (Entry × Place))
  | [] => .ok newer
  | (c, e) :: older =>
    if e.ts ≤ tn then .ok newer
    else if e.kind = Kind.fence ∧ force = false then .error (Dbg.irreversible, c, e)
    else if e.isMem then
      match s.entryPlace r newer e with
      | none => .error (Dbg.entangled, c, e)
      | some p =>
        if (e.linesAt p).any fun l => s.entangled r es older newer tn e l then .error (Dbg.entangled, c, e)
        else s.scanBack r es tn force (newer ++ [(e, p)]) older
    else s.scanBack r es tn force newer older

/-- The address of a memory entry after T_n that lies on a held page: the REWIND waits for it (R335). -/
def State.undoHeld (s : State) (r : Region) (es : List (Nat × Entry)) (tn : Nat) : Option Word :=
  es.findSome? fun x =>
    let va : Word := BitVec.ofNat 64 x.2.addr
    if x.2.isMem && decide (tn < x.2.ts) && !isLocal va && (s.locate (s.trailAgent r) va .store) == .held then some va else none

/-! ### REWIND: its effect (R374, R380, R381) -/

/-- Writes the old bytes of an entry back, but for one that lies in STG (R380, R381). -/
def State.undo (r : Region) (s : State) (x : Entry × Place) : State :=
  let bs := x.1.body.take (x.1.size + 1)
  if s.staged x.2 then s
  else
    let s1 := match s.locate (s.trailAgent r) (BitVec.ofNat 64 x.1.addr) .store with
      | .ok (.dev _) e => s.touch e true
      | _ => s
    if x.1.kind = Kind.phaser then (s1.setPh x.2 (Ph.ofBytes bs)).pokeN x.2 bs else s1.put x.2 bs

/-- A thread in the state that it is positioned in. -/
def Thread.placedAt (t : Thread) : Thread :=
  { t with status := .ready, woke := false, waitsOn := [], waitsEntry := false, yielded := false, positioned := true, halted := true,
           unacked := [], hold := none, delivering := 0, stalled := false }

/-- The state of rank `rank` of a pack at the start of a window that entry e opened, if the window positions it (R374); t is
the thread as it is, and `writer` the pack and rank that wrote the checkpoint. -/
def State.positionedAt (s : State) (p : Pack) (l : Launch) (rank n : Nat) (e : Entry) (writer : Option (Nat × Nat)) (t : Thread) :
    Option Thread :=
  if e.kind = Kind.lwin then
    if e.addr / 2 ^ 32 = l.id then some (startThread l (s.region? l.region) p.key rank).placedAt else none
  else if e.kind = Kind.ckpt ∧ writer = some (p.key, rank) then
    some (t.ofCheckpoint e.body e.size n).placedAt
  else none

/-- Positions the threads of a resident pack; the others are unpositioned. -/
def State.positionHere (s : State) (p : Pack) (l : Launch) (n : Nat) (e : Entry) (writer : Option (Nat × Nat)) : State :=
  (s.threadsOf p).foldl (fun a g =>
    let t := a.thread g
    a.setThread g (match s.positionedAt p l t.rank n e writer t with
      | some t' => t'
      | none => { t with positioned := false, hold := none })) s

/-- Positions the threads of a pack that is out: their kennel blocks are rewritten. -/
def State.positionOut (s : State) (p : Pack) (l : Launch) (n : Nat) (e : Entry) (writer : Option (Nat × Nat)) : State :=
  (List.range (l.cores * l.tpc)).foldl (fun a rank =>
    match a.threadBlockPa p.key rank, a.pack? p.key with
    | some pa, some q =>
      let t := threadOfBlock (startThread l (a.region? l.region) p.key rank) (a.peekN (.dev pa) 0x4600)
      match a.positionedAt p l rank n e writer t with
      | some t' =>
        (a.put (.dev pa) (savedBlock t')).setPack
          { q with gone := q.gone.filter (· != rank), astray := q.astray.filter (· != rank) }
      | none => a.setPack { q with astray := if q.astray.contains rank then q.astray else q.astray ++ [rank] }
    | _, _ => a) s

/-- The threads of a pack are positioned at window n, or not at all. -/
def State.positionPack (s : State) (n : Nat) (e : Entry) (writer : Option (Nat × Nat)) (p : Pack) : State :=
  match s.launch? (p.key / 2 ^ 24) with
  | none => s
  | some l => if p.out.isSome then s.positionOut p l n e writer else s.positionHere p l n e writer

/-- The packs of a launch that window n positions and that have ended: all of them at its LWIN, and at a checkpoint that of the
thread that wrote it. The shepherd dispatches them again (R374, R383; of a checkpoint's pack DEDUCED, notes/assumptions/30.md).
-/
def State.reviveLaunch (s : State) (rcb n : Nat) (e : Entry) (writer : Option (Nat × Nat)) : State :=
  let key := (writer.map (·.1)).getD 0
  let lid := if e.kind = Kind.lwin then e.addr / 2 ^ 32 else key / 2 ^ 24
  match s.launch? lid with
  | none => s
  | some l =>
    if (e.kind ≠ Kind.lwin ∧ (e.kind ≠ Kind.ckpt ∨ writer = none)) ∨ l.killed = true
        ∨ ((s.region? l.region).any fun r => r.chain.contains rcb) = false then s
    else
      let named := fun (k : Nat) => e.kind == Kind.lwin || k == key % 2 ^ 24
      let back := (List.range l.packs).filter fun k => named k && !l.left.contains k && (s.pack? (l.id * 2 ^ 24 + k)).isNone
      let kept := s.revived.filter fun x => x.key / 2 ^ 24 != lid || !named (x.key % 2 ^ 24)
      let s1 := s.setLaunch { l with left := back.foldl (fun a k => insertPack k a) l.left, ended := l.ended - back.length,
                                     exited := l.exited - back.length }
      { s1 with revived := match writer with
          | some (k, rank) =>
            if e.kind = Kind.ckpt ∧ (s.pack? k).isNone = true then
              { key := k, rank := rank, window := n, dest := e.size, body := e.body } :: kept
            else kept
          | none => kept }

/-- A program ends and its completions are discarded; its tile deregisters (R380). -/
def Seqr.ended (x : Seqr) : Seqr :=
  { x with cmd := none, line := [], run := none, busy := none, closed := [], ending := none, again := false, sel := none, join := none,
           leaving := false, leaves := [], late := [], row := 0, logged := [], logging := [], barAt := none, drainErr := none,
             stalled := false, hold := none }

/-- The programs that the kennel of a pack that is out holds end there too: its tile and bus blocks are rewritten. -/
def State.stripKennel (s : State) (p : Pack) : State :=
  match p.out, s.launch? (p.key / 2 ^ 24) with
  | some u, some l =>
    let base := s.kennelPa u
    let s1 := p.tiles.zipIdx.foldl (fun a t =>
      let pa := tileBlockAt base l t.2
      match seqrOfTile (p.savedSeqr t.1) p.cluster (a.peekN (.dev pa) 0x1000) with
      | some x => a.put (.dev pa) (words64 (tileWords x.ended))
      | none => a) s
    p.buses.zipIdx.foldl (fun a b =>
      let pa := busBlockAt base l p.tiles.length b.2
      match seqrOfBus (p.savedSeqr (txOf b.1)) p.cluster (a.peekN (.dev pa) 0x1000) with
      | some (x, frame) => a.put (.dev pa) (words64 (busWords b.1 frame.toNat x.ended))
      | none => a) s1
  | _, _ => s

/-- What a REWIND takes from a pack: its bindings, its waits and its stream programs (R380). -/
def State.stripPack (s : State) (p : Pack) : State :=
  let tags := if p.out.isSome then p.saved.flatMap fun x => x.2.tags else p.seqrs.flatMap fun q => (s.seqr q).tags
  let s1 := tags.foldl State.discard ((s.dropWaits p.key).dropBinds p.key)
  if p.out.isSome then (s1.stripKennel p).setPack { p with saved := p.saved.map fun x => (x.1, x.2.ended) }
  else p.seqrs.foldl (fun a q => a.setSeqr q (a.seqr q).ended) s1

/-- The phaser of a registration of a pack that is out: its place, and its bytes, which for one of the pack's own SPM or STG lie
in the kennel (R359). -/
def State.outPhaser (s : State) (p : Pack) (l : Launch) (i : Nat) (va : Word) : Option (Place × Ph) :=
  let core := p.cores.getD i 0
  if isLocal va then
    let w := if bits va 39 39 = 1 then clusterOf core * 128 + bits va 27 21 else core
    if p.cores.contains w then
      let base := coreBlockAt (s.kennelPa (p.out.getD 0)) l (p.cores.idxOf w) + 0x5000
      let at_ := fun (k : Nat) => base + (swizzle (bits va 34 32) (bits va 20 0 + k) - 4 * l.tpc * 4096)
      some (.pool (p.away w) (bits va 34 32) (bits va 20 0), Ph.ofBytes ((List.range 32).flatMap fun k => s.peekN (.dev (at_ k)) 1))
    else none
  else
    (s.reach { l.agent with core := core, pack := some p.key } va .rmw).map fun x => (x.1, s.ph x.1)

/-- The phasers with which the threads of a pack hold registrations that are not stale (R282, R372). -/
def State.reownPack (s : State) (p : Pack) : State :=
  let own : List Place := match s.launch? (p.key / 2 ^ 24) with
    | none => []
    | some l =>
      if p.out.isSome then
        (s.kennelRegs p.key (l.cores * l.tpc)).zipIdx.flatMap fun rs => rs.1.filterMap fun r =>
          ((s.outPhaser p l (rs.2 / l.tpc) r.va).filter fun x => x.2.inc == r.inc).map (·.1)
      else
        (s.threadsOf p).flatMap fun g => (s.thread g).regs.filterMap fun r =>
          ((s.reach (s.agentOf g) r.va .rmw).filter fun x => (s.ph x.1).inc == r.inc).map (·.1)
  { s with phOwners := (s.phOwners.filter fun o => o.2 != p.key) ++ own.map fun x => (x, p.key) }

/-- REWIND without an obstacle (R380, R381). The times of its undo writes are those of the REWOUND entry and of no other write. -/
def State.rewindTo (s : State) (r : Region) (rcb n at_ : Nat) (e : Entry) (undos : List (Entry × Place)) : State :=
  let first := s.ltime + 1
  let writer := (s.ckpts.find? fun c => c.1 == r.owner && c.2.1 == n).map fun c => c.2.2
  let s1 := undos.foldl (State.undo r) { s with ltime := first }
  let last := s1.ltime
  let s2 := { s1 with ltime := last + 1 }.setTrailHdr r 0x10 8 (at_ + entryLen e.kind e.size)
  let s3 := s2.appendEntry r { addr := first, ts := last + 1, prev0 := last, prev1 := 0, gtid := 0xFFFF, kind := Kind.rewound,
                               size := 0, body := [] }
  let s4 := s3.setTrailHdr r 0x18 4 (n + 1)
  let s5 := (s4.packsUnder rcb).foldl State.stripPack { s4 with ltime := s4.ltime + 1 }
  let s6 := (s5.packsUnder rcb).foldl (fun a p => a.positionPack n e writer p) s5
  (((s6.packsUnder rcb).foldl State.reownPack s6).reviveLaunch rcb n e writer).dbgEnd Dbg.ok n

/-- The window that an entry at a byte count lies in: the last one opened at or before it. -/
def windowAt (es : List (Nat × Entry)) (c : Nat) : Nat :=
  (es.filter fun x => decide (x.1 ≤ c)).foldl (fun a x => x.2.window.getD a) 0

/-- REWIND (R380). -/
def execRewind (s : State) : Out :=
  match s.ev with
  | some (.rewind c) => s.dbgCommand (.rewind c) c fun s pa => s.onTrail c fun s r =>
      let n := bits c.arg0 31 0
      if s.regionHalted r = false then .ok (s.dbgEnd Dbg.notHalted 0)
      else if s.trailNext r ≤ n then .ok (s.dbgEnd Dbg.badWindow 0)
      else if n < s.trailOld r ∨ s.trailFailed r = true then .ok (s.dbgEnd Dbg.horizon 0)
      else
        match s.windowEntry r n with
        | none => .ok (s.dbgEnd Dbg.horizon 0)
        | some (at_, e) =>
          let es := s.entries r
          match s.undoHeld r es e.ts with
          | some va => .error (s.trailAgent r, va)
          | none =>
            match s.scanBack r es e.ts c.force [] es.reverse with
            | .ok undos => .ok (s.rewindTo r pa n at_ e undos)
            | .error (code, k, x) => .ok (s.dbgObstacle code (windowAt es k) x)
  | _ => notNow "REWIND"

/-! ### REPLAY (R382) -/

/-- REPLAY starts on a thread, or waits for its pack. -/
def State.beginReplay (s : State) (rcb count key rank : Nat) (g : Option Nat) : State :=
  { s.setCfield 0x5020 0 0 1 with
    replay := some { rcb := rcb, gtid := g, pack := key, rank := rank, left := count, since := s.now.toNat, issued := false,
                     trapped := false } }

/-- The thread of a resident pack's rank. -/
def State.gtidOf (s : State) (p : Pack) (rank : Nat) : Option Nat := (s.threadsOf p).find? fun g => (s.thread g).rank == rank

/-- A resident thread of a region that is positioned and has not ended. -/
def State.replayable (s : State) (rcb g : Nat) : Bool :=
  let t := s.thread g
  t.status != .idle && t.status != .exited && t.positioned && s.inRegions t.pack [rcb]

/-- REPLAY (R382). -/
def execReplay (s : State) : Out :=
  match s.ev with
  | some (.replay c) => s.dbgCommand (.replay c) c fun s pa => .ok <|
      let count := bits c.arg1 15 0
      match s.dbgValues c with
      | none => s.dbgEnd Dbg.refused 0
      | some r =>
        if count = 0 then s.dbgEnd Dbg.refused 0
        else if s.regionHalted r = false then s.dbgEnd Dbg.notHalted 0
        else if bits c.arg0 63 63 = 0 then
          let g := bits c.arg0 12 0
          if s.replayable pa g then s.beginReplay pa count (s.thread g).pack (s.thread g).rank (some g)
          else s.dbgEnd Dbg.unpositioned 0
        else
          let key := bits c.arg1 63 32 * 2 ^ 24 + bits c.arg0 47 24
          let rank := bits c.arg0 9 0
          match s.pack? key with
          | none => s.dbgEnd Dbg.unpositioned 0
          | some p =>
            if s.inRegions key [pa] = false then s.dbgEnd Dbg.unpositioned 0
            else if p.out.isSome then
              let ranks := ((s.launch? (key / 2 ^ 24)).map fun l => l.cores * l.tpc).getD 0
              if rank < ranks ∧ p.astray.contains rank = false ∧ p.gone.contains rank = false then s.beginReplay pa count key rank none
              else s.dbgEnd Dbg.unpositioned 0
            else
              match (s.gtidOf p rank).filter (s.replayable pa) with
              | some g => s.beginReplay pa count key rank (some g)
              | none => s.dbgEnd Dbg.unpositioned 0
  | _ => notNow "REPLAY"

/-- A REPLAY ends. -/
def State.endReplay (s : State) (code : Nat) : State := { s with replay := none }.dbgEnd code 0

/-- After a turn, a REPLAY goes on: its pack is back, its instruction has finished, or it ends (R382). -/
def State.settleReplay (s : State) : State :=
  match s.replay with
  | none => s
  | some r =>
    match r.gtid with
    | none =>
      match s.pack? r.pack with
      | none => s.endReplay Dbg.unpositioned
      | some p =>
        if p.out.isSome then s
        else
          match s.gtidOf p r.rank with
          | some g => { s with replay := some { r with gtid := some g, since := s.now.toNat } }
          | none => s.endReplay Dbg.unpositioned
    | some g =>
      let t := s.thread g
      if r.trapped then s.endReplay Dbg.ok
      else if r.issued ∧ t.status ≠ .parked ∧ t.status ≠ .waiting ∧ t.pendingRegs = [] then
        if r.left ≤ 1 ∨ t.status = .exited ∨ t.status = .idle then s.endReplay Dbg.ok
        else { s with replay := some { r with left := r.left - 1, issued := false } }
      else s

/-- REPLAY_PARKED (R382): 1 ms has passed with a register pending, or with the pack still out. -/
def execReplayParked (s : State) : Out :=
  match s.ev with
  | some .replayParked =>
    match s.replay with
    | some r =>
      if (r.issued ∨ r.gtid.isNone = true) ∧ 1000000 * Config.ns < s.now.toNat - r.since then .next (s.endReplay Dbg.parked)
      else notNow "REPLAY_PARKED"
    | none => notNow "REPLAY_PARKED"
  | _ => notNow "REPLAY_PARKED"

end Sys2Proof.Machine
end

