-- ==== Sys2Proof/Machine/System.lean ====
section
/-! DEFINITION. Control registers, YIELD, EXIT, BRK and the two fates of words that do not decode (spec/01 R15-R19,
spec/05 R124-R126, spec/06 R149-R155, spec/20 R349). -/

namespace Sys2Proof.Machine

/-- FEAT0: architecture level 1, implementation 4, no extension major (R126). -/
def feat0 : Word := 0x0104000000000000

/-- What a read of FRPTR's HEAD and TAIL finds: the counts, a held page, or nothing that can be read, where there may be a leaf
(R349). -/
inductive RingHeader where
  | counts (prod cons : Nat) (e : Option TlbEntry) (p : Place)
  | held
  | none (e : Option TlbEntry)
  deriving DecidableEq, Repr

/-- The one load of CRR FRPTR (R135, R349). -/
def State.ringHeader (s : State) : RingHeader :=
  let base := s.thr.frbase
  if base = 0 then .none none
  else
    match s.locate (s.agentOf s.cur) base .load with
    | .held | .away => .held
    | .ok p e =>
      match s.readPart { va := base, pos := 0, len := 8 } p with
      | .ok bs => .counts (fieldAt bs 0 4) (fieldAt bs 4 4) e p
      | .error _ => .none e
    | _ => .none none

/-- The value of a control register other than FRPTR (R15, R17-R19, R126, R152). -/
def State.creadReg (s : State) (x : Nat) : Word :=
  let t := s.thr
  let k := s.core (coreOf s.cur)
  match x with
  | 0x00 => t.fprm.setWidth 64
  | 0x01 => t.fpflags.setWidth 64
  | 0x08 => feat0
  | 0x10 => BitVec.ofNat 64 (s.config.moduleId.toNat * 2 ^ 32 + s.cur)
  | 0x11 => t.packinfo
  | 0x12 => t.launchid
  | 0x13 => t.rcbaddr
  | 0x14 => BitVec.ofNat 64 (boolNat t.dclass)
  | 0x18 => BitVec.ofNat 64 k.pb0
  | 0x19 => BitVec.ofNat 64 k.pb1
  | 0x1A => BitVec.ofNat 64 k.pb2
  | 0x20 => s.now
  | 0x28 => t.seqdesc
  | 0x29 => t.seqmode
  | 0x2A => t.seqkey
  | 0x30 => t.frbase
  | 0x38 => t.utvec
  | _ => 0

/-- FRPTR (R349). -/
def frptr (trapidx : BitVec 16) (prod cons : Nat) : Word :=
  BitVec.ofNat 64 (trapidx.toNat * 2 ^ 48 + cons % 65536 * 2 ^ 16 + prod % 65536)

/-- FRPTR with a header that cannot be read: HEAD and TAIL read 0 (R349). With a ring named, the load has its place still
(R135). -/
def State.unreadRing (s : State) (d : Reg6) (e : Option TlbEntry) : State :=
  let empty := fun (s : State) => (s.touch e false).putS d (frptr s.thr.trapidx 0 0) 4
  if s.thr.frbase = 0 then empty s else s.checked 0 true false [(s.thr.frbase.toNat, 8)] empty

/-- CRR (R149, R150). FRPTR waits for its load while the header's page is held, as FENCE waits (R135); a hold that
outlasts TIMEOUT leaves a header that cannot be read. -/
def execCrr (g : Guard) (d : Reg6) (x : BitVec 8) (s : State) : Out :=
  control g 4 [] [rs d] (fun s =>
    if x = 0x31 then
      match s.ringHeader with
      | .counts prod cons e p =>
        s.checked 0 true false [(s.thr.frbase.toNat, 8)] fun s =>
          ((s.touch e false).lease p 8).putS d (frptr s.thr.trapidx prod cons) 4
      | .held =>
        s.onHold s.thr.frbase fun s => s.unreadRing d none
      | .none e => s.unreadRing d e
    else s.putS d (s.creadReg x.toNat) 4) s

/-- The registers that CRW may write (R15, R149). -/
def crWritable (x : Nat) : Bool := [0x00, 0x01, 0x28, 0x29, 0x2A, 0x30, 0x38].contains x

/-- CRW: PRIV for a register that is read-only (R149, R150). -/
def execCrw (g : Guard) (a : Reg6) (x : BitVec 8) (s : State) : Out :=
  control g 4 [rs a] [] (fun s =>
    if crWritable x.toNat then s.onThr fun t => (t.cwrite x.toNat (t.sreg a)).advance 4
    else s.trap (.plain .priv)) s

/-- YIELD (R153). -/
def execYield (g : Guard) (s : State) : Out :=
  control g 4 [] [] (fun s => s.onThr fun t => { t.advance 4 with yielded := true }) s

/-- BRK raises BREAK with its code (R155, R353). -/
def execBrk (g : Guard) (code : Reg6) (s : State) : Out :=
  control g 4 [] [] (fun s => s.trap { Trap.plain .breakpoint with info := code.setWidth 64 }) s

/-- A detached command whose whole operation is a wait ends at once, and its completion is discarded and counted
(R44). -/
def State.endWait (s : State) (tag : ITag) : State :=
  let isWait (o : HeldOp) : Bool := match o with
    | .phWait _ | .phRewait _ | .semWait _ _ => true
    | _ => false
  -- A LAUNCH.END that has not reached the shepherd goes on, and will not wait for its child's end.
  let s : State := { s with childReqs := s.childReqs.map fun c => if c.tag = tag then { c with endd := false } else c }
  let hit := (s.phWaits.any fun w => w.tag == tag) || (s.semWaits.any fun w => w.tag == tag)
    || (s.ringWaits.any fun w => w.tag == tag) || (s.probes.any fun w => w.tag == tag)
    || (s.held.any fun w => w.tag == tag && isWait w.op)
    || (s.launches.any fun l => (l.endTag.map (·.1)) == some tag)
  if hit then
    let s1 : State := { s with
      phWaits := s.phWaits.filter fun w => w.tag ≠ tag
      semWaits := s.semWaits.filter fun w => w.tag ≠ tag
      ringWaits := s.ringWaits.filter fun w => w.tag ≠ tag
      probes := s.probes.filter fun w => w.tag ≠ tag
      held := s.held.filter fun w => !(w.tag == tag && isWait w.op)
      launches := s.launches.map fun l => if (l.endTag.map (·.1)) = some tag then { l with endTag := none } else l }
    s1.discard tag
  else s

/-- Detaches register i of thread g, which becomes poisoned with DROPPED: the entry frees, and a wait ends (R44, R55). -/
def State.drop (s : State) (g i : Nat) : State :=
  let mark (s : State) : State :=
    s.setThread g ((s.thread g).setState i (.poisoned (poisonValue 0xFFFF Poison.dropped)))
  match s.tagOf g i with
  | none => mark s
  | some tag => (mark ((s.detach g i).endWait tag)).wakeCore (coreOf g) true

/-- Bytes of the trail entries that EXIT writes (R186): one for each arrival and each deregistration. -/
def State.exitRoom (s : State) (g : Nat) : Nat :=
  ((s.thread g).regs.map fun r =>
    match s.settlePlace (s.agentOf g) r.va with
    | none => 0
    | some (p, _) =>
      let x := s.ph p
      if x.broken || r.inc != x.inc || s.staged p then 0 else if r.sig ∧ r.arrived ≠ x.phase then 576 else 288).foldl (· + ·) 0

/-- A registration whose phaser lies on a held page, which delays EXIT (R285). -/
def State.heldReg (s : State) (g : Nat) : Option Registration :=
  (s.thread g).regs.find? fun r => s.locate (s.agentOf g) r.va .rmw == .held

/-- The phasers that EXIT accesses (R135). -/
def State.exitRanges (s : State) (g : Nat) : List (Nat × Nat) :=
  (s.thread g).regs.filterMap fun r => (s.settlePlace (s.agentOf g) r.va).map fun _ => (r.va.toNat, 32)

/-- The effect of EXIT (R154): every arrival, then every deregistration. -/
def State.exitThread (s : State) : State :=
  let g := s.cur
  let s0 := s.thr.regs.foldl (fun a r => a.exitArrive g (a.trailOf a.thr.pack) r) s
  let s1 := s0.thr.regs.foldl (fun a r => a.exitDereg g (a.trailOf a.thr.pack) r) s0
  let s2 := (List.range 144).foldl (fun a i => if a.thr.isPending i then a.drop g i else a) s1
  (s2.onThr fun t => { t with status := .exited, regs := [] }).wakeCore (coreOf g) true

/-- EXIT (R154): with a registration, an access in its place; without one, it waits for nothing. -/
def execExit (g : Guard) (s : State) : Out :=
  control g 4 [] [] (fun s =>
    if s.thr.regs = [] then s.exitThread
    else
    match s.heldReg s.cur with
    | none => s.checked (s.exitRoom s.cur) true true (s.exitRanges s.cur) fun s => s.exitThread
    | some r => s.onHold r.va fun s => (s.onThr fun t => t.freeReg r.va).wait) s

/-- ILLEGAL_OP at decode: precise, and the guard is not evaluated (R124). -/
def execIllegalOp (w0 w1 : BitVec 32) (s : State) : Out :=
  .next ({ s with ir0 := w0, ir1 := w1 }.trap (.plain .illegalOp))

/-- EXT_ABSENT (R125). -/
def execExtAbsent (w0 w1 : BitVec 32) (s : State) : Out :=
  .next ({ s with ir0 := w0, ir1 := w1 }.trap (.plain .extAbsent))

end Sys2Proof.Machine
end

