-- ==== Sys2Proof/Machine/FutureOps.lean ====
section
/-! DEFINITION. Future control (spec/02 R42-R46, spec/08 R211). -/

namespace Sys2Proof.Machine

/-- The register number of a class and a field (R114, R211). -/
def classReg (cl : RClass) (r : Reg6) : Nat :=
  match cl with
  | .s => rs r
  | .v => rv r
  | .p => 128 + r.toNat % 16

/-- Whether a register's state is in the set: bit 0 full, bit 1 pending, bit 2 poisoned (R42, R121). -/
def inSet (set : BitVec 3) (r : RegState) : Bool :=
  match r with
  | .full => set.getLsbD 0
  | .pending _ => set.getLsbD 1
  | .poisoned _ => set.getLsbD 2

/-- FTST (R42). -/
def execFtst (g : Guard) (pd : PReg) (a : Reg6) (cl : RClass) (set : BitVec 3) (s : State) : Out :=
  control g 4 [] [rp pd, rp pd + 1] (fun s =>
    let t := inSet set (s.thr.rstate (classReg cl a))
    s.putPair pd (mask64 t) (mask64 (!t)) 4) s

/-- Moves the binding of register i to register j of a thread, or to nowhere where j is a constant register (R43). -/
def State.rebind (s : State) (g i j : Nat) : State :=
  { s with binds := s.binds.map fun b =>
      if b.loc = .reg g i then { b with loc := if isConst j then .sink g else .reg g j } else b }

/-- Moves what register i holds to register j; i becomes MOVED (R43). -/
def State.moveReg (s : State) (g i j : Nat) : State :=
  let t := s.thread g
  let r := t.rstate i
  let t1 := if isConst j then t else (t.setValue j (t.value i)).setState j r
  let t2 := if isConst i then t1 else t1.setState i (.poisoned (poisonValue 0xFFFF Poison.moved))
  let s1 := s.setThread g t2
  match r with
  | .pending _ => s1.rebind g i j
  | _ => s1

/-- FMOV (R43). -/
def execFmov (g : Guard) (d a : Reg6) (cl : RClass) (s : State) : Out :=
  control g 4 [] (if d = a then [] else [classReg cl d]) (fun s =>
    (if d = a then s else s.moveReg s.cur (classReg cl a) (classReg cl d)).advance 4) s

/-- FDROP (R44). -/
def execFdrop (g : Guard) (d : Reg6) (cl : RClass) (s : State) : Out :=
  control g 4 [] [] (fun s =>
    let i := classReg cl d
    (if isConst i then s else s.drop s.cur i).advance 4) s

/-- FWAIT (R45). -/
def execFwait (g : Guard) (a : Reg6) (cl : RClass) (s : State) : Out :=
  control g 4 [classReg cl a] [] (fun s => s.advance 4) s

/-- FPOISON (R46). -/
def execFpoison (g : Guard) (d : Reg6) (cl : RClass) (code : BitVec 16) (s : State) : Out :=
  control g 8 [] [classReg cl d] (fun s =>
    s.onThr fun t => (t.setState (classReg cl d) (.poisoned (poisonValue 0xFFFF code.toNat))).advance 8) s

end Sys2Proof.Machine
end

