-- ==== Sys2Proof/Machine/Memory.lean ====
section
/-! DEFINITION. Loads, stores, FENCE and ATOM (spec/08 R188-R198, spec/03 R72-R76). -/

namespace Sys2Proof.Machine

/-- An effective address (R183). -/
def effective (base : Word) (off : Int) : Word := base + BitVec.ofInt 64 off

/-- A scalar load (R188-R191); `acq` is an acquire at SYS. -/
def scalarLoad (acq : Bool) (g : Guard) (d a : Reg6) (sz : LdSz) (off : Int) (len : Nat) (s : State) : Out :=
  control g len [rs a] [rs d] (fun s =>
    let va := effective (s.thr.sreg a) off
    s.loadInto acq (rs d) allBytes (.load sz) va (partsOf va (loadBytes sz)) len) s

/-- A scalar store: the data register is read after the base (R188, R189). -/
def scalarStore (rel : Bool) (g : Guard) (d a : Reg6) (w : Width) (off : Int) (len : Nat) (s : State) : Out :=
  control g len [rs a, rs d] [] (fun s =>
    let va := effective (s.thr.sreg a) off
    let n := widthBits w / 8
    s.storeParts false rel (piecesOf allBytes (natLe n (s.thr.sreg d).toNat) (partsOf va n)) len) s

/-- LD (R188). -/
def execLd (g : Guard) (d a : Reg6) (sz : LdSz) (off : BitVec 6) (s : State) : Out :=
  scalarLoad false g d a sz (off.toInt * loadBytes sz) 4 s

/-- ST (R188). -/
def execSt (g : Guard) (d a : Reg6) (w : Width) (off : BitVec 6) (s : State) : Out :=
  scalarStore false g d a w (off.toInt * (widthBits w / 8 : Nat)) 4 s

/-- LDX (R188, R190). An acquire at SYS gives up the core's copies of other modules' memory (R70); at a lesser scope it needs
nothing more, since every access waits for the earlier ones of its thread. -/
def execLdx (g : Guard) (d a : Reg6) (sz : LdSz) (sc : Scope) (o : Ordr) (imm : BitVec 32) (s : State) : Out :=
  scalarLoad ((o == .acq || o == .ar) && sc == .sys) g d a sz imm.toInt 8 s

/-- STX: a release at SYS waits for the acknowledgements of earlier accesses (R69, R188, R190). -/
def execStx (g : Guard) (d a : Reg6) (w : Width) (sc : Scope) (o : Ordr) (imm : BitVec 32) (s : State) : Out :=
  scalarStore (o == .rel && sc == .sys) g d a w imm.toInt 8 s

/-- The register bytes of the active elements of a contiguous vector access (R192). -/
def contiguousMask (w : Nat) (pg : Word) : BitVec 256 :=
  elemMask ((List.range (2048 / w)).filterMap fun e =>
    if active w pg e then some { va := 0, pos := e * (w / 8), len := w / 8 } else none)

/-- VLD (R192-R194). -/
def execVld (g : Guard) (d a : Reg6) (w : Width) (off : BitVec 6) (s : State) : Out :=
  let n := widthBits w
  vectorFrame g (rs a :: mergeReads n g [rv d] s) [rv d] (fun s =>
    let va := effective (s.thr.sreg a) (off.toInt * 256)
    let mask := contiguousMask n (s.thr.preg g)
    s.loadInto false (rv d) mask (.vload mask) va (contiguousParts mask va) 4) s

/-- VST (R192-R194). -/
def execVst (g : Guard) (d a : Reg6) (w : Width) (off : BitVec 6) (s : State) : Out :=
  vectorFrame g [rs a, rv d] [] (fun s =>
    let va := effective (s.thr.sreg a) (off.toInt * 256)
    let mask := contiguousMask (widthBits w) (s.thr.preg g)
    s.storeParts true false (piecesOf mask (vecBytes (s.thr.vreg d)) (contiguousParts mask va)) 4) s

/-- The layout whose guard bits govern strided and indexed elements: bit e for element e, bit 2k for 64 bits (R192). -/
def guardWidth (w : Nat) : Nat := if w = 64 then 64 else 32

/-- The active elements of a strided or indexed access; element e lies in slot e of its width (R192). -/
def slotElems (w : Nat) (pg : Word) (addr : Nat → Word) : List Elem :=
  (List.range (2048 / guardWidth w)).filterMap fun e =>
    if active (guardWidth w) pg e then some { va := addr e, pos := e * (w / 8), len := w / 8 } else none

/-- The bytes above the narrow part, which a load writes zero whatever the guard (R192). -/
def aboveNarrow (w : Nat) : BitVec 256 := if w < 32 then ~~~(BitVec.ofNat 256 (2 ^ (64 * (w / 8)) - 1)) else 0

/-- A strided or indexed load (R192-R194). -/
def slotLoad (g : Guard) (d a : Reg6) (src : Nat) (w : Width) (addr : Thread → Nat → Word) (s : State) : Out :=
  let n := widthBits w
  vectorFrame g ([rs a, src] ++ mergeReads (guardWidth n) g [rv d] s) [rv d] (fun s =>
    let es := slotElems n (s.thr.preg g) (addr s.thr)
    let mask := elemMask es
    s.loadInto false (rv d) (mask ||| aboveNarrow n) (.vload mask) (s.thr.sreg a) (elemParts es) 4) s

/-- A strided or indexed store (R192-R194). -/
def slotStore (g : Guard) (d a : Reg6) (src : Nat) (w : Width) (addr : Thread → Nat → Word) (s : State) : Out :=
  vectorFrame g [rs a, src, rv d] [] (fun s =>
    let es := slotElems (widthBits w) (s.thr.preg g) (addr s.thr)
    s.storeParts true false (piecesOf allBytes (vecBytes (s.thr.vreg d)) (elemParts es)) 4) s

/-- The address of element e at a signed byte stride (R192). -/
def strideAddr (a b : Reg6) (t : Thread) (e : Nat) : Word := t.sreg a + BitVec.ofNat 64 e * t.sreg b

/-- The address of element e at an indexed offset (R192). -/
def indexAddr (a b : Reg6) (w : Width) (t : Thread) (e : Nat) : Word :=
  t.sreg a + (BitVec.ofNat 32 (elem 32 (t.vreg b) (if w = .w64 then 2 * e else e))).signExtend 64

/-- VLDS (R192). -/
def execVlds (g : Guard) (d a b : Reg6) (w : Width) (s : State) : Out := slotLoad g d a (rs b) w (strideAddr a b) s

/-- VSTS (R192). -/
def execVsts (g : Guard) (d a b : Reg6) (w : Width) (s : State) : Out := slotStore g d a (rs b) w (strideAddr a b) s

/-- VGATH (R192). -/
def execVgath (g : Guard) (d a b : Reg6) (w : Width) (s : State) : Out := slotLoad g d a (rv b) w (indexAddr a b w) s

/-- VSCAT (R192). -/
def execVscat (g : Guard) (d a b : Reg6) (w : Width) (s : State) : Out := slotStore g d a (rv b) w (indexAddr a b w) s

/-- The status word of a FENCE (R73). -/
def fenceWord (sc : Scope) (t : Thread) : Word :=
  BitVec.ofNat 64 (t.count.toNat * 2 ^ 32
    + if sc = .sys then t.deadlink.toNat * 2 ^ 16 + t.refused.toNat else 0)

/-- FENCE (R72, R73, R195): at every scope it waits until the earlier loads and atomics have been performed; at SYS it waits for
every acknowledgement too, and clears the counters that it reports. -/
def execFence (g : Guard) (d : Reg6) (sc : Scope) (s : State) : Out :=
  control g 4 [] [rs d] (fun s =>
    s.inOrder fun s =>
      if sc = .sys then
        if s.thr.unacked = [] then
          s.onThr fun t => { (t.setS d (fenceWord sc t)).advance 4 with count := 0, deadlink := 0, refused := 0 }
        else s.wait
      else s.putS d (fenceWord sc s.thr) 4) s

/-- ATOM (R196-R198). -/
def execAtom (g : Guard) (d a b c : Reg6) (op : AOp) (aw : AWidth) (o : Ordr) (sc : Scope) (imm : BitVec 16) (s : State) :
    Out :=
  control g 8 ([rs a, rs b] ++ if op = .cas then [rs c] else []) [rs d] (fun s =>
    let n := 8 * atomBytes aw
    let t := s.thr
    s.atomic d (effective (t.sreg a) imm.toInt) op aw (bits (t.sreg b) (n - 1) 0) (bits (t.sreg c) (n - 1) 0)
      ((o == .acq || o == .ar) && sc == .sys) ((o == .rel || o == .ar) && sc == .sys)) s

end Sys2Proof.Machine
end

