-- ==== Sys2Proof/Machine/Pred.lean ====
section
/-! DEFINITION. Predicate instructions (spec/06 R145): whole 64-bit masks, all or nothing under the guard. -/

namespace Sys2Proof.Machine

/-- Two predicate sources, one predicate destination. -/
def pred2 (f : Word → Word → Word) (g : Guard) (d a b : PReg) (s : State) : Out :=
  control g 4 [rp a, rp b] [rp d] (fun s => s.putP d (f (s.thr.preg a) (s.thr.preg b)) 4) s

/-- PAND (R145). -/
def execPand (g : Guard) (d a b : PReg) (s : State) : Out := pred2 ((· &&& ·)) g d a b s

/-- POR (R145). -/
def execPor (g : Guard) (d a b : PReg) (s : State) : Out := pred2 ((· ||| ·)) g d a b s

/-- PXOR (R145). -/
def execPxor (g : Guard) (d a b : PReg) (s : State) : Out := pred2 ((· ^^^ ·)) g d a b s

/-- PANDN (R145). -/
def execPandn (g : Guard) (d a b : PReg) (s : State) : Out := pred2 (fun a b => a &&& ~~~b) g d a b s

/-- PNOT (R145). -/
def execPnot (g : Guard) (d a : PReg) (s : State) : Out :=
  control g 4 [rp a] [rp d] (fun s => s.putP d (~~~s.thr.preg a) 4) s

/-- PFROMS (R145). -/
def execPfroms (g : Guard) (d : PReg) (a : Reg6) (s : State) : Out :=
  control g 4 [rs a] [rp d] (fun s => s.putP d (s.thr.sreg a) 4) s

/-- PTOS (R145). -/
def execPtos (g : Guard) (d : Reg6) (a : PReg) (s : State) : Out :=
  control g 4 [rp a] [rs d] (fun s => s.putS d (s.thr.preg a) 4) s

/-- PCNT (R145). -/
def execPcnt (g : Guard) (d : Reg6) (a : PReg) (s : State) : Out :=
  control g 4 [rp a] [rs d] (fun s => s.putS d (BitVec.ofNat 64 (popCount (s.thr.preg a))) 4) s

end Sys2Proof.Machine
end

