-- ==== Sys2Proof/Machine/VecFp.lean ====
section
/-! DEFINITION. Floating-point vector arithmetic and compares (spec/07 R162-R164, R168). -/

namespace Sys2Proof.Machine

/-- The format of a floating-point type code. -/
def fmtOf (ty : Ty) : Fmt := (tyFmt ty).getD fp32

/-- One source, one rounding (R163). -/
def fp1 (op : Val → Op) (g : Guard) (d a : Reg6) (ty : Ty) (rm : Rm) (k n : Reg6) (len : Nat) (s : State) : Out :=
  let f := fmtOf ty
  vecRound f.width f.width g [rv a] d rm k n len
    (fun m t rb e => f.finish m rb (op (f.val (elem f.width (t.vreg a) e)))) s

/-- Two sources, one rounding (R163). -/
def fp2 (op : Rm → Val → Val → Op) (g : Guard) (d a b : Reg6) (ty : Ty) (rm : Rm) (k n : Reg6) (len : Nat) (s : State) :
    Out :=
  let f := fmtOf ty
  vecRound f.width f.width g [rv a, rv b] d rm k n len
    (fun m t rb e => f.finish m rb (op m (f.val (elem f.width (t.vreg a) e)) (f.val (elem f.width (t.vreg b) e)))) s

/-- Three sources, one rounding (R163). -/
def fp3 (op : Rm → Val → Val → Val → Op) (g : Guard) (d a b c : Reg6) (ty : Ty) (rm : Rm) (k n : Reg6) (s : State) :
    Out :=
  let f := fmtOf ty
  let w := f.width
  vecRound w w g [rv a, rv b, rv c] d rm k n 8
    (fun m t rb e => f.finish m rb
      (op m (f.val (elem w (t.vreg a) e)) (f.val (elem w (t.vreg b) e)) (f.val (elem w (t.vreg c) e)))) s

/-- VMIN and VMAX (R164). -/
def fpPick (isMax : Bool) (g : Guard) (d a b : Reg6) (ty : Ty) (s : State) : Out :=
  let f := fmtOf ty
  vecMap f.width f.width g [rv a, rv b] d 8
    (fun t e => f.pick isMax (elem f.width (t.vreg a) e) (elem f.width (t.vreg b) e)) s

/-- VABS and VNEG: the sign bit replaced; a NaN becomes the default NaN (R164). -/
def fpSign (sign : Fmt → Nat → Nat) (g : Guard) (d a : Reg6) (ty : Ty) (s : State) : Out :=
  let f := fmtOf ty
  vecMap f.width f.width g [rv a] d 8
    (fun t e =>
      let x := elem f.width (t.vreg a) e
      (if (f.val x).isNan then f.nan else sign f x, sigFlag [f.val x])) s

/-- The sign bit cleared. -/
def clearSign (f : Fmt) (x : Nat) : Nat := x % 2 ^ (f.e + f.m)
/-- The sign bit inverted. -/
def flipSign (f : Fmt) (x : Nat) : Nat := (x + 2 ^ (f.e + f.m)) % 2 ^ f.width

/-- VADD (R162, R163). -/
def execVaddF32 (g : Guard) (d a b : Reg6) (rm : Rm) (s : State) : Out := fp2 addV g d a b .f32 rm 0 0 4 s

/-- VSUB (R162, R163). -/
def execVsubF32 (g : Guard) (d a b : Reg6) (rm : Rm) (s : State) : Out := fp2 subV g d a b .f32 rm 0 0 4 s

/-- VMUL (R162, R163). -/
def execVmulF32 (g : Guard) (d a b : Reg6) (rm : Rm) (s : State) : Out := fp2 (fun _ => mulV) g d a b .f32 rm 0 0 4 s

/-- VADD (R162, R163). -/
def execVaddBf16 (g : Guard) (d a b : Reg6) (rm : Rm) (s : State) : Out := fp2 addV g d a b .bf16 rm 0 0 4 s

/-- VSUB (R162, R163). -/
def execVsubBf16 (g : Guard) (d a b : Reg6) (rm : Rm) (s : State) : Out := fp2 subV g d a b .bf16 rm 0 0 4 s

/-- VMUL (R162, R163). -/
def execVmulBf16 (g : Guard) (d a b : Reg6) (rm : Rm) (s : State) : Out := fp2 (fun _ => mulV) g d a b .bf16 rm 0 0 4 s

/-- VADD (R162, R163). -/
def execVaddF16 (g : Guard) (d a b : Reg6) (rm : Rm) (s : State) : Out := fp2 addV g d a b .f16 rm 0 0 4 s

/-- VSUB (R162, R163). -/
def execVsubF16 (g : Guard) (d a b : Reg6) (rm : Rm) (s : State) : Out := fp2 subV g d a b .f16 rm 0 0 4 s

/-- VMUL (R162, R163). -/
def execVmulF16 (g : Guard) (d a b : Reg6) (rm : Rm) (s : State) : Out := fp2 (fun _ => mulV) g d a b .f16 rm 0 0 4 s

/-- VDIV (R162, R163). -/
def execVdivF32 (g : Guard) (d a b : Reg6) (rm : Rm) (s : State) : Out := fp2 (fun _ => divV) g d a b .f32 rm 0 0 4 s

/-- VSQRT (R96, R162, R163). -/
def execVsqrtF32 (g : Guard) (d a : Reg6) (rm : Rm) (s : State) : Out := fp1 sqrtV g d a .f32 rm 0 0 4 s

/-- VRCP (R96, R162, R163). -/
def execVrcpF32 (g : Guard) (d a : Reg6) (rm : Rm) (s : State) : Out := fp1 rcpV g d a .f32 rm 0 0 4 s

/-- VRSQ (R96, R162, R163). -/
def execVrsqF32 (g : Guard) (d a : Reg6) (rm : Rm) (s : State) : Out := fp1 rsqV g d a .f32 rm 0 0 4 s

/-- VEXP2 (R96, R162, R163). -/
def execVexp2F32 (g : Guard) (d a : Reg6) (rm : Rm) (s : State) : Out := fp1 exp2V g d a .f32 rm 0 0 4 s

/-- VLOG2 (R96, R162, R163). -/
def execVlog2F32 (g : Guard) (d a : Reg6) (rm : Rm) (s : State) : Out := fp1 log2V g d a .f32 rm 0 0 4 s

/-- VADD, long form (R162, R163). -/
def execVaddL (g : Guard) (d a b : Reg6) (ty : Ty) (rm : Rm) (k n : Reg6) (s : State) : Out :=
  fp2 addV g d a b ty rm k n 8 s

/-- VSUB, long form (R162, R163). -/
def execVsubL (g : Guard) (d a b : Reg6) (ty : Ty) (rm : Rm) (k n : Reg6) (s : State) : Out :=
  fp2 subV g d a b ty rm k n 8 s

/-- VMUL, long form (R162, R163). -/
def execVmulL (g : Guard) (d a b : Reg6) (ty : Ty) (rm : Rm) (k n : Reg6) (s : State) : Out :=
  fp2 (fun _ => mulV) g d a b ty rm k n 8 s

/-- VDIV, long form (R162, R163). -/
def execVdivL (g : Guard) (d a b : Reg6) (ty : Ty) (rm : Rm) (k n : Reg6) (s : State) : Out :=
  fp2 (fun _ => divV) g d a b ty rm k n 8 s

/-- VSQRT, long form (R96, R162, R163). -/
def execVsqrtL (g : Guard) (d a : Reg6) (ty : Ty) (rm : Rm) (k n : Reg6) (s : State) : Out :=
  fp1 sqrtV g d a ty rm k n 8 s

/-- VRCP, long form (R96, R162, R163). -/
def execVrcpL (g : Guard) (d a : Reg6) (ty : Ty) (rm : Rm) (k n : Reg6) (s : State) : Out :=
  fp1 rcpV g d a ty rm k n 8 s

/-- VRSQ, long form (R96, R162, R163). -/
def execVrsqL (g : Guard) (d a : Reg6) (ty : Ty) (rm : Rm) (k n : Reg6) (s : State) : Out :=
  fp1 rsqV g d a ty rm k n 8 s

/-- VEXP2, long form (R96, R162, R163). -/
def execVexp2L (g : Guard) (d a : Reg6) (ty : Ty) (rm : Rm) (k n : Reg6) (s : State) : Out :=
  fp1 exp2V g d a ty rm k n 8 s

/-- VLOG2, long form (R96, R162, R163). -/
def execVlog2L (g : Guard) (d a : Reg6) (ty : Ty) (rm : Rm) (k n : Reg6) (s : State) : Out :=
  fp1 log2V g d a ty rm k n 8 s

/-- VFMA (R162, R163). -/
def execVfma (g : Guard) (d a b c : Reg6) (ty : Ty) (rm : Rm) (k n : Reg6) (s : State) : Out :=
  fp3 (fmaV false false) g d a b c ty rm k n s

/-- VFMS (R162, R163). -/
def execVfms (g : Guard) (d a b c : Reg6) (ty : Ty) (rm : Rm) (k n : Reg6) (s : State) : Out :=
  fp3 (fmaV false true) g d a b c ty rm k n s

/-- VFNMA (R162, R163). -/
def execVfnma (g : Guard) (d a b c : Reg6) (ty : Ty) (rm : Rm) (k n : Reg6) (s : State) : Out :=
  fp3 (fmaV true false) g d a b c ty rm k n s

/-- VMIN (R164). -/
def execVmin (g : Guard) (d a b : Reg6) (ty : Ty) (s : State) : Out := fpPick false g d a b ty s

/-- VMAX (R164). -/
def execVmax (g : Guard) (d a b : Reg6) (ty : Ty) (s : State) : Out := fpPick true g d a b ty s

/-- VABS (R164). -/
def execVabs (g : Guard) (d a : Reg6) (ty : Ty) (s : State) : Out := fpSign clearSign g d a ty s

/-- VNEG (R164). -/
def execVneg (g : Guard) (d a : Reg6) (ty : Ty) (s : State) : Out := fpSign flipSign g d a ty s

/-- VFCMP (R168). -/
def execVfcmp (g : Guard) (c : FCond) (pd : PReg) (a b : Reg6) (ty : Ty) (s : State) : Out :=
  let f := fmtOf ty
  vecCompare f.width g pd a b
    (fun t e => fcond c (f.val (elem f.width (t.vreg a) e)) (f.val (elem f.width (t.vreg b) e))) s

end Sys2Proof.Machine
end

