-- ==== Sys2Proof/Machine/VecConv.lean ====
section
/-! DEFINITION. Conversions, single-rounding quantisation, MX blocks and histograms (spec/07 R171-R176, R180). -/

namespace Sys2Proof.Machine

/-- VCVT: the layout is that of the wider format, and the narrower side lies in the low slots (R157, R171, R172). -/
def vcvt (g : Guard) (d a : Reg6) (sty dty : Ty) (rm : Rm) (k n : Reg6) (len : Nat) (s : State) : Out :=
  vecRound (max (tyBits sty) (tyBits dty)) (tyBits dty) g [rv a] d rm k n len
    (fun m t rb e => convert sty dty m rb (elem (tyBits sty) (t.vreg a) e)) s

/-- VCVT, short form (R171, R172). -/
def execVcvt (g : Guard) (d a : Reg6) (sty dty : Ty) (rm : Rm) (s : State) : Out := vcvt g d a sty dty rm 0 0 4 s

/-- VCVT, long form (R171, R172). -/
def execVcvtL (g : Guard) (d a : Reg6) (sty dty : Ty) (rm : Rm) (k n : Reg6) (s : State) : Out :=
  vcvt g d a sty dty rm k n 8 s

/-- VQSC (R173). -/
def execVqsc (g : Guard) (d a b : Reg6) (sty dty : Ty) (rm : Rm) (k n : Reg6) (s : State) : Out :=
  let w := tyBits sty
  vecRound (max w (tyBits dty)) (tyBits dty) g [rv a, rv b] d rm k n 8
    (fun m t rb e => quantScale sty dty m rb (elem w (t.vreg a) e) (elem w (t.vreg b) e)) s

/-- Byte i of a vector. -/
def byteOf (v : Vec) (i : Nat) : Nat := elem 8 v i

/-- MX element e of a register (R174). -/
def mxAt (mx : Mx) (v : Vec) (e : Nat) : Nat := elem (mxN mx) v e

/-- The scale of block b of a register (R174). -/
def mxScaleAt (v : Vec) (b : Nat) : Nat := byteOf v (248 + b)

/-- The quantised blocks of a list of values: the register and the flags (R90, R174). -/
def mxBlocks (mx : Mx) (rm : Rm) (draw : Nat → Nat) (xs : List Val) : Vec × Nat :=
  let nb := xs.length / 32
  let scales := tabulate nb fun b => mxScale ((xs.drop (32 * b)).take 32)
  let qs := xs.zipIdx.map fun x => mxElem mx (scales.getD (x.2 / 32) 0) rm (draw x.2) x.1
  let image := packElems (mxN mx) (qs.map fun q => wrap (mxN mx) q.1)
  (BitVec.ofNat 2048 (image + packElems 8 scales * 2 ^ (8 * 248)),
   qs.foldl (fun a q => a ||| q.2) (flagIf (scales.contains 0xFF) Fl.invalid))

/-- VPACK: an inactive element enters as +0, and the destination is written whole (R158, R175). -/
def execVpack (g : Guard) (d a : Reg6) (mx : Mx) (ty : Ty) (rm : Rm) (k n : Reg6) (s : State) : Out :=
  let f := fmtOf ty
  let w := f.width
  vectorFrame g (rv a :: srReads rm k n ++ mergeReads w g [rv d] s) [rv d] (fun s =>
    s.rounding rm fun m s =>
      let t := s.thr
      let xs := tabulate (2048 / w) fun e => if active w (t.preg g) e then f.val (elem w (t.vreg a) e) else .num false 0 0
      let r := mxBlocks mx m (fun e => rbits (t.sreg k) (t.sreg n) e) xs
      s.putVF d r.1 r.2 8) s

/-- VUNPK: exact, and without flags (R176). The one value that neither type holds, −2^128, of the most negative code under scale
0xFE, is rounded to nearest: −infinity, without a flag (DESIGN CHOICE, notes/assumptions/39.md). -/
def execVunpk (g : Guard) (d a : Reg6) (mx : Mx) (ty : Ty) (rm : Rm) (k n : Reg6) (s : State) : Out :=
  let f := fmtOf ty
  vecRound f.width f.width g [rv a] d rm k n 8
    (fun _ t _ e => ((f.round .rne 0 (mxVal mx (mxScaleAt (t.vreg a) (e / 32)) (mxAt mx (t.vreg a) e)).exact).1, 0)) s

/-- The bins of vd with the counts of the active elements added (R180). -/
def histBins (old : Vec) (vals : List Val) (base : Int) : Vec :=
  let bs := vals.map fun v => hbin v base
  vecOf 32 (tabulate 64 fun j => min 0xFFFFFFFF (elem 32 old j + bs.count j))

/-- VHIST of a register whose element e of width w has a value; vd is always read (R158, R180). -/
def hist (w n len : Nat) (g : Guard) (d a b : Reg6) (val : Vec → Nat → Val) (s : State) : Out :=
  vectorFrame g [rv a, rs b, rv d] [rv d] (fun s =>
    let t := s.thr
    let es := (List.range n).filter (active w (t.preg g))
    s.putV d (histBins (t.vreg d) (es.map (val (t.vreg a))) (t.sreg b).toInt) len) s

/-- VHIST (R180). -/
def execVhist (g : Guard) (d a b : Reg6) (ty : Ty) (s : State) : Out :=
  let f := fmtOf ty
  hist f.width (2048 / f.width) 4 g d a b (fun v e => f.val (elem f.width v e)) s

/-- VHIST.mx: four blocks in the BF16 layout (R180). -/
def execVhistMx (g : Guard) (d a b : Reg6) (mx : Mx) (s : State) : Out :=
  hist 16 128 8 g d a b (fun v e => mxVal mx (mxScaleAt v (e / 32)) (mxAt mx v e)) s

end Sys2Proof.Machine
end

