-- ==== Sys2Proof/Machine/VecInt.lean ====
section
/-! DEFINITION. Integer and logical vector instructions, compares, selects and the dot product (spec/07 R165-R169, R177). -/

namespace Sys2Proof.Machine

/-- Two sources of w bits. -/
def int2 (w : Nat) (f : BitVec w → BitVec w → BitVec w) (g : Guard) (d a b : Reg6) (len : Nat) (s : State) : Out :=
  vecMap w w g [rv a, rv b] d len (fun t e =>
    ((f (BitVec.ofNat w (elem w (t.vreg a) e)) (BitVec.ofNat w (elem w (t.vreg b) e))).toNat, 0)) s

/-- One source of w bits. -/
def int1 (w : Nat) (f : BitVec w → BitVec w) (g : Guard) (d a : Reg6) (len : Nat) (s : State) : Out :=
  vecMap w w g [rv a] d len (fun t e => ((f (BitVec.ofNat w (elem w (t.vreg a) e))).toNat, 0)) s

/-- Shifts take the amount modulo the width (R165, R166). -/
def shlW {w : Nat} (a b : BitVec w) : BitVec w := a <<< (b.toNat % w)
/-- With zero fill. -/
def shrW {w : Nat} (a b : BitVec w) : BitVec w := a >>> (b.toNat % w)
/-- With sign fill. -/
def sraW {w : Nat} (a b : BitVec w) : BitVec w := a.sshiftRight (b.toNat % w)

/-- Bits [2w − 1:w] of the exact signed product (R166). -/
def mulhS {w : Nat} (a b : BitVec w) : BitVec w := BitVec.ofInt w (a.toInt * b.toInt / 2 ^ w)
/-- Bits [2w − 1:w] of the exact unsigned product. -/
def mulhU {w : Nat} (a b : BitVec w) : BitVec w := BitVec.ofNat w (a.toNat * b.toNat / 2 ^ w)

/-- VADDS (R166). -/
def addSatS {w : Nat} (a b : BitVec w) : BitVec w := BitVec.ofInt w (satS w (a.toInt + b.toInt))
/-- VADDSU. -/
def addSatU {w : Nat} (a b : BitVec w) : BitVec w := BitVec.ofInt w (satU w (a.toNat + b.toNat))
/-- VSUBS. -/
def subSatS {w : Nat} (a b : BitVec w) : BitVec w := BitVec.ofInt w (satS w (a.toInt - b.toInt))
/-- VSUBSU. -/
def subSatU {w : Nat} (a b : BitVec w) : BitVec w := BitVec.ofInt w (satU w ((a.toNat : Int) - b.toNat))

/-- VADD.i32 (R165). -/
def execVaddI32 (g : Guard) (d a b : Reg6) (s : State) : Out := int2 32 (· + ·) g d a b 4 s

/-- VSUB.i32 (R165). -/
def execVsubI32 (g : Guard) (d a b : Reg6) (s : State) : Out := int2 32 (· - ·) g d a b 4 s

/-- VMUL.i32 (R165). -/
def execVmulI32 (g : Guard) (d a b : Reg6) (s : State) : Out := int2 32 (· * ·) g d a b 4 s

/-- VMIN.s32 (R165). -/
def execVminS32 (g : Guard) (d a b : Reg6) (s : State) : Out := int2 32 minS g d a b 4 s

/-- VMAX.s32 (R165). -/
def execVmaxS32 (g : Guard) (d a b : Reg6) (s : State) : Out := int2 32 maxS g d a b 4 s

/-- VMINU.i32 (R165). -/
def execVminuI32 (g : Guard) (d a b : Reg6) (s : State) : Out := int2 32 minU g d a b 4 s

/-- VMAXU.i32 (R165). -/
def execVmaxuI32 (g : Guard) (d a b : Reg6) (s : State) : Out := int2 32 maxU g d a b 4 s

/-- VSRA.i32 (R165). -/
def execVsraI32 (g : Guard) (d a b : Reg6) (s : State) : Out := int2 32 sraW g d a b 4 s

/-- VAND (R165). -/
def execVand (g : Guard) (d a b : Reg6) (s : State) : Out := int2 32 (· &&& ·) g d a b 4 s

/-- VOR (R165). -/
def execVor (g : Guard) (d a b : Reg6) (s : State) : Out := int2 32 (· ||| ·) g d a b 4 s

/-- VXOR (R165). -/
def execVxor (g : Guard) (d a b : Reg6) (s : State) : Out := int2 32 (· ^^^ ·) g d a b 4 s

/-- VANDN (R165). -/
def execVandn (g : Guard) (d a b : Reg6) (s : State) : Out := int2 32 (fun a b => a &&& ~~~b) g d a b 4 s

/-- VSHL.i32 (R165). -/
def execVshlI32 (g : Guard) (d a b : Reg6) (s : State) : Out := int2 32 shlW g d a b 4 s

/-- VSHR.i32 (R165). -/
def execVshrI32 (g : Guard) (d a b : Reg6) (s : State) : Out := int2 32 shrW g d a b 4 s

/-- VNOT (R165). -/
def execVnot (g : Guard) (d a : Reg6) (s : State) : Out := int1 32 (fun a => ~~~a) g d a 4 s

/-- VMOV (R165). -/
def execVmov (g : Guard) (d a : Reg6) (s : State) : Out := int1 32 id g d a 4 s

/-- VADD.iw (R166). -/
def execVaddIw (g : Guard) (d a b : Reg6) (w : Width) (s : State) : Out := int2 (widthBits w) (· + ·) g d a b 8 s

/-- VSUB.iw (R166). -/
def execVsubIw (g : Guard) (d a b : Reg6) (w : Width) (s : State) : Out := int2 (widthBits w) (· - ·) g d a b 8 s

/-- VMUL.iw (R166). -/
def execVmulIw (g : Guard) (d a b : Reg6) (w : Width) (s : State) : Out := int2 (widthBits w) (· * ·) g d a b 8 s

/-- VMULHS.iw (R166). -/
def execVmulhs (g : Guard) (d a b : Reg6) (w : Width) (s : State) : Out := int2 (widthBits w) mulhS g d a b 8 s

/-- VMULHU.iw (R166). -/
def execVmulhu (g : Guard) (d a b : Reg6) (w : Width) (s : State) : Out := int2 (widthBits w) mulhU g d a b 8 s

/-- VADDS.iw (R166). -/
def execVadds (g : Guard) (d a b : Reg6) (w : Width) (s : State) : Out := int2 (widthBits w) addSatS g d a b 8 s

/-- VADDSU.iw (R166). -/
def execVaddsu (g : Guard) (d a b : Reg6) (w : Width) (s : State) : Out := int2 (widthBits w) addSatU g d a b 8 s

/-- VSUBS.iw (R166). -/
def execVsubs (g : Guard) (d a b : Reg6) (w : Width) (s : State) : Out := int2 (widthBits w) subSatS g d a b 8 s

/-- VSUBSU.iw (R166). -/
def execVsubsu (g : Guard) (d a b : Reg6) (w : Width) (s : State) : Out := int2 (widthBits w) subSatU g d a b 8 s

/-- VMINS.iw (R166). -/
def execVmins (g : Guard) (d a b : Reg6) (w : Width) (s : State) : Out := int2 (widthBits w) minS g d a b 8 s

/-- VMAXS.iw (R166). -/
def execVmaxs (g : Guard) (d a b : Reg6) (w : Width) (s : State) : Out := int2 (widthBits w) maxS g d a b 8 s

/-- VMINU.iw (R166). -/
def execVminu (g : Guard) (d a b : Reg6) (w : Width) (s : State) : Out := int2 (widthBits w) minU g d a b 8 s

/-- VMAXU.iw (R166). -/
def execVmaxu (g : Guard) (d a b : Reg6) (w : Width) (s : State) : Out := int2 (widthBits w) maxU g d a b 8 s

/-- VSHL.iw (R166). -/
def execVshl (g : Guard) (d a b : Reg6) (w : Width) (s : State) : Out := int2 (widthBits w) shlW g d a b 8 s

/-- VSHR.iw (R166). -/
def execVshr (g : Guard) (d a b : Reg6) (w : Width) (s : State) : Out := int2 (widthBits w) shrW g d a b 8 s

/-- VSRA.iw (R166). -/
def execVsra (g : Guard) (d a b : Reg6) (w : Width) (s : State) : Out := int2 (widthBits w) sraW g d a b 8 s

/-- VDIVS.iw (R166). -/
def execVdivs (g : Guard) (d a b : Reg6) (w : Width) (s : State) : Out := int2 (widthBits w) divS g d a b 8 s

/-- VDIVU.iw (R166). -/
def execVdivu (g : Guard) (d a b : Reg6) (w : Width) (s : State) : Out := int2 (widthBits w) divU g d a b 8 s

/-- VMAD.iw (R166). -/
def execVmad (g : Guard) (d a b c : Reg6) (w : Width) (s : State) : Out :=
  let n := widthBits w
  vecMap n n g [rv a, rv b, rv c] d 8
    (fun t e => (elem n (t.vreg a) e * elem n (t.vreg b) e + elem n (t.vreg c) e, 0)) s

/-- VABS.iw (R166). -/
def execVabsIw (g : Guard) (d a : Reg6) (w : Width) (s : State) : Out :=
  int1 (widthBits w) (fun x => if x.toInt < 0 then -x else x) g d a 8 s

/-- VSPLATI (R167). -/
def execVsplati (g : Guard) (d : Reg6) (imm : BitVec 9) (s : State) : Out :=
  vecMap 32 32 g [] d 4 (fun _ _ => ((imm.signExtend 32).toNat, 0)) s

/-- VSEL (R169). -/
def execVsel (g : Guard) (d a b : Reg6) (w : Width) (s : State) : Out :=
  let n := widthBits w
  vectorFrame g ([rv a, rv b] ++ mergeReads n g [rv d] s) [rv d] (fun s =>
    let t := s.thr
    s.putV d (vecOf n (tabulate (2048 / n) fun e =>
      elem n (if active n (t.preg g) e then t.vreg a else t.vreg b) e)) 4) s

/-- The sum of a lane of VDOT; `x` and `y` say which side is signed (R177). -/
def dotLane (x y : Bool) (acc : Nat) (va vb : Vec) (i : Nat) : Nat :=
  let v := fun (sgn : Bool) (r : Vec) (j : Nat) => if sgn then signed 8 (elem 8 r (4 * i + j)) else (elem 8 r (4 * i + j) : Int)
  wrap 32 (signed 32 acc + sumTo 4 fun j => v x va j * v y vb j)

/-- VDOT: the accumulator vd is always read (R158, R177). -/
def dot (x y : Bool) (g : Guard) (d a b : Reg6) (s : State) : Out :=
  vectorFrame g [rv a, rv b, rv d] [rv d] (fun s =>
    let t := s.thr
    let rs := lanes 32 32 (t.preg g) (t.vreg d) fun i =>
      (dotLane x y (elem 32 (t.vreg d) i) (t.vreg a) (t.vreg b) i, 0)
    s.putV d (vecOf 32 (rs.map (·.1))) 4) s

/-- VDOT.s8 (R177). -/
def execVdotS8 (g : Guard) (d a b : Reg6) (s : State) : Out := dot true true g d a b s

/-- VDOT.u8 (R177). -/
def execVdotU8 (g : Guard) (d a b : Reg6) (s : State) : Out := dot false false g d a b s

/-- VDOT.su8 (R177). -/
def execVdotSu8 (g : Guard) (d a b : Reg6) (s : State) : Out := dot true false g d a b s

/-- VICMP (R168). -/
def execVicmp (g : Guard) (c : ICond) (pd : PReg) (a b : Reg6) (w : Width) (s : State) : Out :=
  let n := widthBits w
  vecCompare n g pd a b (fun t e =>
    (icond c (BitVec.ofNat n (elem n (t.vreg a) e)) (BitVec.ofNat n (elem n (t.vreg b) e)), 0)) s

end Sys2Proof.Machine
end

