-- ==== Sys2Proof/Machine/VecPerm.lean ====
section
/-! DEFINITION. Permutes of 32-bit lanes (spec/07 R170). -/

namespace Sys2Proof.Machine

/-- A permute that merges per lane: `pick` gives the value of lane i. -/
def permute (g : Guard) (srcs : List Nat) (d : Reg6) (pick : Thread → Nat → Nat) (s : State) : Out :=
  vecMap 32 32 g srcs d 4 (fun t i => (pick t i, 0)) s

/-- VPERM (R170). -/
def execVperm (g : Guard) (d a b : Reg6) (s : State) : Out :=
  permute g [rv a, rv b] d (fun t i => elem 32 (t.vreg a) (elem 32 (t.vreg b) i % 64)) s

/-- VBCAST (R170). -/
def execVbcast (g : Guard) (d a b : Reg6) (s : State) : Out :=
  permute g [rv a, rs b] d (fun t _ => elem 32 (t.vreg a) (bits (t.sreg b) 5 0)) s

/-- VINS: only the chosen lane is governed by the guard, and vd is always read (R158, R170). -/
def execVins (g : Guard) (d a b : Reg6) (s : State) : Out :=
  vectorFrame g [rs a, rs b, rv d] [rv d] (fun s =>
    let t := s.thr
    let j := bits (t.sreg b) 5 0
    s.putV d (vecOf 32 (tabulate 64 fun i =>
      if i = j ∧ active 32 (t.preg g) j then bits (t.sreg a) 31 0 else elem 32 (t.vreg d) i)) 4) s

/-- VEXT (R170). -/
def execVext (g : Guard) (d a b : Reg6) (s : State) : Out :=
  permute g [rv a, rs b] d (fun t i => elem 32 (t.vreg a) ((i + bits (t.sreg b) 5 0) % 64)) s

/-- Lanes of two registers in turn, from lane `from` on. -/
def zipLane (base : Nat) (va vb : Vec) (i : Nat) : Nat := elem 32 (if i % 2 = 0 then va else vb) (i / 2 + base)

/-- VZIPLO (R170). -/
def execVziplo (g : Guard) (d a b : Reg6) (s : State) : Out :=
  permute g [rv a, rv b] d (fun t i => zipLane 0 (t.vreg a) (t.vreg b) i) s

/-- VZIPHI (R170). -/
def execVziphi (g : Guard) (d a b : Reg6) (s : State) : Out :=
  permute g [rv a, rv b] d (fun t i => zipLane 32 (t.vreg a) (t.vreg b) i) s

/-- VCOMP: the guard chooses the lanes that are kept (R158, R170). -/
def execVcomp (g : Guard) (d a : Reg6) (s : State) : Out :=
  vectorFrame g (rv a :: mergeReads 32 g [rv d] s) [rv d] (fun s =>
    let t := s.thr
    s.putV d (vecOf 32 (((List.range 64).filter (active 32 (t.preg g))).map (elem 32 (t.vreg a)))) 4) s

end Sys2Proof.Machine
end

