-- ==== Sys2Proof/Machine/VecRed.lean ====
section
/-! DEFINITION. Fixed-tree reductions and top-k selection (spec/07 R178, R179, R181, R182). -/

namespace Sys2Proof.Machine

/-- log2 of the element count of a layout of width w. -/
def treeDepth (w : Nat) : Nat := Nat.log2 (2048 / w)

/-- The active elements of a register, an inactive one absent (R98). -/
def present (w : Nat) (pg : Word) (v : Vec) : List (Option Nat) :=
  tabulate (2048 / w) fun e => if active w pg e then some (elem w v e) else none

/-- VRED: element 0 is the root of the tree and every other element zero; `fin` finishes the root and the flags
(R179). -/
def reduce (w : Nat) (g : Guard) (d a : Reg6) (rm : Rm) (len : Nat) (op : Rm → Nat → Nat → Nat × Nat)
    (fin : List (Option Nat) → Option Nat → Nat × Nat) (s : State) : Out :=
  vectorFrame g (rv a :: mergeReads w g [rv d] s) [rv d] (fun s =>
    s.rounding rm fun m s =>
      let xs := present w (s.thr.preg g) (s.thr.vreg a)
      let r := treeSum (op m) (treeDepth w) xs
      let z := fin xs r.1
      s.putVF d (vecOf w [z.1]) (r.2 ||| z.2) len) s

/-- The root of a floating-point tree: a NaN is the default NaN, and a signalling NaN raises invalid (R85, R179). -/
def fpRoot (f : Fmt) (xs : List (Option Nat)) (r : Option Nat) : Nat × Nat :=
  (match r with
    | none => 0
    | some x => if (f.val x).isNan then f.nan else x,
   flagIf (xs.any fun x => match x with
     | some y => (f.val y).isSig
     | none => false) Fl.invalid)

/-- A floating-point sum (R179). -/
def redAdd (f : Fmt) (g : Guard) (d a : Reg6) (rm : Rm) (len : Nat) (s : State) : Out :=
  reduce f.width g d a rm len (fun m x y => f.add m x y) (fpRoot f) s

/-- A floating-point maximum or minimum (R179). -/
def redPick (f : Fmt) (isMax : Bool) (g : Guard) (d a : Reg6) (len : Nat) (s : State) : Out :=
  reduce f.width g d a .rne len (fun _ x y => f.pick isMax x y) (fpRoot f) s

/-- An integer reduction of 32-bit lanes (R179). -/
def redInt (f : BitVec 32 → BitVec 32 → BitVec 32) (g : Guard) (d a : Reg6) (s : State) : Out :=
  reduce 32 g d a .rne 4 (fun _ x y => ((f (BitVec.ofNat 32 x) (BitVec.ofNat 32 y)).toNat, 0))
    (fun _ r => (r.getD 0, 0)) s

/-- VRED.ADD.f32 (R178, R179). -/
def execVredAddF32 (g : Guard) (d a : Reg6) (s : State) : Out := redAdd fp32 g d a .rne 4 s

/-- VRED.MAX.f32 (R178, R179). -/
def execVredMaxF32 (g : Guard) (d a : Reg6) (s : State) : Out := redPick fp32 true g d a 4 s

/-- VRED.MIN.f32 (R178, R179). -/
def execVredMinF32 (g : Guard) (d a : Reg6) (s : State) : Out := redPick fp32 false g d a 4 s

/-- VRED.ADD.i32 (R178, R179). -/
def execVredAddI32 (g : Guard) (d a : Reg6) (s : State) : Out := redInt (· + ·) g d a s

/-- VRED.MAX.s32 (R178, R179). -/
def execVredMaxS32 (g : Guard) (d a : Reg6) (s : State) : Out := redInt maxS g d a s

/-- VRED.MIN.s32 (R178, R179). -/
def execVredMinS32 (g : Guard) (d a : Reg6) (s : State) : Out := redInt minS g d a s

/-- VRED.MAXU.i32 (R178, R179). -/
def execVredMaxuI32 (g : Guard) (d a : Reg6) (s : State) : Out := redInt maxU g d a s

/-- VRED.MINU.i32 (R178, R179). -/
def execVredMinuI32 (g : Guard) (d a : Reg6) (s : State) : Out := redInt minU g d a s

/-- VRED.ADD, long form (R178, R179). -/
def execVredAdd (g : Guard) (d a : Reg6) (ty : Ty) (rm : Rm) (s : State) : Out := redAdd (fmtOf ty) g d a rm 8 s

/-- VRED.MAX, long form (R178, R179). -/
def execVredMax (g : Guard) (d a : Reg6) (ty : Ty) (s : State) : Out := redPick (fmtOf ty) true g d a 8 s

/-- VRED.MIN, long form (R178, R179). -/
def execVredMin (g : Guard) (d a : Reg6) (ty : Ty) (s : State) : Out := redPick (fmtOf ty) false g d a 8 s

/-- rank of R182, as an integer: every NaN highest and equal, +0 above −0. -/
def rank (ty : Ty) (x : Nat) : Int :=
  match tyFmt ty with
  | some f =>
    if (f.val x).isNan then 2 ^ 40
    else
      let m : Int := (x % 2 ^ (f.e + f.m) : Nat)
      if x / 2 ^ (f.e + f.m) % 2 = 1 then -m - 1 else m
  | none => if ty = .int then signed 32 x else x

/-- A candidate of VTOPK. -/
structure Cand where
  rank : Int
  idx : Nat
  e : Nat
  val : Nat
  deriving DecidableEq, Repr

/-- Whether x comes before y: rank descending, then logical index, then element ascending (R182). -/
def Cand.before (x y : Cand) : Bool :=
  decide (y.rank < x.rank) || (x.rank == y.rank && (decide (x.idx < y.idx) || (x.idx == y.idx && decide (x.e < y.e))))

/-- Puts a candidate into its place. -/
def insertCand (x : Cand) : List Cand → List Cand
  | [] => [x]
  | y :: r => if x.before y then x :: y :: r else y :: insertCand x r

/-- VTOPK (R181, R182). -/
def execVtopk (g : Guard) (d a b c : Reg6) (ty : Ty) (s : State) : Out :=
  let w := tyBits ty
  let pair := [rv d, rv d + 1]
  vectorFrame g ([rv a, rs b, rv c] ++ mergeReads w g pair s) pair (fun s =>
    let t := s.thr
    let es := (List.range 64).filter (active w (t.preg g))
    let cands := (es.map fun e =>
      let x := elem w (t.vreg a) e
      ({ rank := rank ty x, idx := elem 32 (t.vreg c) e, e := e,
         val := if (tyVal ty x).isNan then (fmtOf ty).nan else x } : Cand)).foldr insertCand []
    let top := cands.take (min (t.sreg b).toNat 64)
    let fl := flagIf (es.any fun e => (tyVal ty (elem w (t.vreg a) e)).isSig) Fl.invalid
    s.onThr fun t =>
      (((t.setV d (vecOf w (top.map (·.val)))).setV (d + 1)
        (vecOf 32 (tabulate 64 fun j => (top[j]?.map (·.idx)).getD 0xFFFFFFFF))).raise fl).advance 8) s

end Sys2Proof.Machine
end

