-- ==== Sys2Proof/Machine/Dispatch.lean ====
section
/-! DEFINITION. One arm for every row of the opcode table. -/

namespace Sys2Proof.Machine

def exec (i : Instr) (s : State) : Host.Outcome State Fault Refusal :=
  match i with
  | .add g d a b => Sys2Proof.Machine.execAdd g d a b s
  | .sub g d a b => Sys2Proof.Machine.execSub g d a b s
  | .and g d a b => Sys2Proof.Machine.execAnd g d a b s
  | .or g d a b => Sys2Proof.Machine.execOr g d a b s
  | .xor g d a b => Sys2Proof.Machine.execXor g d a b s
  | .sll g d a b => Sys2Proof.Machine.execSll g d a b s
  | .srl g d a b => Sys2Proof.Machine.execSrl g d a b s
  | .sra g d a b => Sys2Proof.Machine.execSra g d a b s
  | .mul g d a b => Sys2Proof.Machine.execMul g d a b s
  | .mulhs g d a b => Sys2Proof.Machine.execMulhs g d a b s
  | .mulhu g d a b => Sys2Proof.Machine.execMulhu g d a b s
  | .divs g d a b => Sys2Proof.Machine.execDivs g d a b s
  | .divu g d a b => Sys2Proof.Machine.execDivu g d a b s
  | .rems g d a b => Sys2Proof.Machine.execRems g d a b s
  | .remu g d a b => Sys2Proof.Machine.execRemu g d a b s
  | .addi g d a imm => Sys2Proof.Machine.execAddi g d a imm s
  | .andi g d a imm => Sys2Proof.Machine.execAndi g d a imm s
  | .ori g d a imm => Sys2Proof.Machine.execOri g d a imm s
  | .xori g d a imm => Sys2Proof.Machine.execXori g d a imm s
  | .slli g d a sh => Sys2Proof.Machine.execSlli g d a sh s
  | .srli g d a sh => Sys2Proof.Machine.execSrli g d a sh s
  | .srai g d a sh => Sys2Proof.Machine.execSrai g d a sh s
  | .rotri g d a sh => Sys2Proof.Machine.execRotri g d a sh s
  | .movi g d imm => Sys2Proof.Machine.execMovi g d imm s
  | .addiL g d a imm => Sys2Proof.Machine.execAddiL g d a imm s
  | .orhi g d a imm => Sys2Proof.Machine.execOrhi g d a imm s
  | .andiL g d a imm => Sys2Proof.Machine.execAndiL g d a imm s
  | .xoriL g d a imm => Sys2Proof.Machine.execXoriL g d a imm s
  | .cmpiL g c pd a imm => Sys2Proof.Machine.execCmpiL g c pd a imm s
  | .muladd g d a b c => Sys2Proof.Machine.execMuladd g d a b c s
  | .mins g d a b => Sys2Proof.Machine.execMins g d a b s
  | .minu g d a b => Sys2Proof.Machine.execMinu g d a b s
  | .maxs g d a b => Sys2Proof.Machine.execMaxs g d a b s
  | .maxu g d a b => Sys2Proof.Machine.execMaxu g d a b s
  | .clz g d a => Sys2Proof.Machine.execClz g d a s
  | .ctz g d a => Sys2Proof.Machine.execCtz g d a s
  | .popc g d a => Sys2Proof.Machine.execPopc g d a s
  | .brev g d a => Sys2Proof.Machine.execBrev g d a s
  | .cmp g c pd a b => Sys2Proof.Machine.execCmp g c pd a b s
  | .cmpi g c pd a imm => Sys2Proof.Machine.execCmpi g c pd a imm s
  | .pand g d a b => Sys2Proof.Machine.execPand g d a b s
  | .por g d a b => Sys2Proof.Machine.execPor g d a b s
  | .pxor g d a b => Sys2Proof.Machine.execPxor g d a b s
  | .pandn g d a b => Sys2Proof.Machine.execPandn g d a b s
  | .pnot g d a => Sys2Proof.Machine.execPnot g d a s
  | .pfroms g d a => Sys2Proof.Machine.execPfroms g d a s
  | .ptos g d a => Sys2Proof.Machine.execPtos g d a s
  | .pcnt g d a => Sys2Proof.Machine.execPcnt g d a s
  | .br g imm => Sys2Proof.Machine.execBr g imm s
  | .call g imm => Sys2Proof.Machine.execCall g imm s
  | .jr g a => Sys2Proof.Machine.execJr g a s
  | .jalr g d a => Sys2Proof.Machine.execJalr g d a s
  | .yield g => Sys2Proof.Machine.execYield g s
  | .exit g => Sys2Proof.Machine.execExit g s
  | .brk g code => Sys2Proof.Machine.execBrk g code s
  | .crr g d x => Sys2Proof.Machine.execCrr g d x s
  | .crw g a x => Sys2Proof.Machine.execCrw g a x s
  | .shadd g d a b n => Sys2Proof.Machine.execShadd g d a b n s
  | .bfxu g d a pos len1 => Sys2Proof.Machine.execBfxu g d a pos len1 s
  | .bfxs g d a pos len1 => Sys2Proof.Machine.execBfxs g d a pos len1 s
  | .bfi g d a pos len1 => Sys2Proof.Machine.execBfi g d a pos len1 s
  | .illegalOp w0 w1 => Sys2Proof.Machine.execIllegalOp w0 w1 s
  | .extAbsent w0 w1 => Sys2Proof.Machine.execExtAbsent w0 w1 s
  | .vaddF32 g d a b rm => Sys2Proof.Machine.execVaddF32 g d a b rm s
  | .vsubF32 g d a b rm => Sys2Proof.Machine.execVsubF32 g d a b rm s
  | .vmulF32 g d a b rm => Sys2Proof.Machine.execVmulF32 g d a b rm s
  | .vaddBf16 g d a b rm => Sys2Proof.Machine.execVaddBf16 g d a b rm s
  | .vsubBf16 g d a b rm => Sys2Proof.Machine.execVsubBf16 g d a b rm s
  | .vmulBf16 g d a b rm => Sys2Proof.Machine.execVmulBf16 g d a b rm s
  | .vaddF16 g d a b rm => Sys2Proof.Machine.execVaddF16 g d a b rm s
  | .vsubF16 g d a b rm => Sys2Proof.Machine.execVsubF16 g d a b rm s
  | .vmulF16 g d a b rm => Sys2Proof.Machine.execVmulF16 g d a b rm s
  | .vdivF32 g d a b rm => Sys2Proof.Machine.execVdivF32 g d a b rm s
  | .vsqrtF32 g d a rm => Sys2Proof.Machine.execVsqrtF32 g d a rm s
  | .vrcpF32 g d a rm => Sys2Proof.Machine.execVrcpF32 g d a rm s
  | .vrsqF32 g d a rm => Sys2Proof.Machine.execVrsqF32 g d a rm s
  | .vexp2F32 g d a rm => Sys2Proof.Machine.execVexp2F32 g d a rm s
  | .vlog2F32 g d a rm => Sys2Proof.Machine.execVlog2F32 g d a rm s
  | .vfcmp g c pd a b ty => Sys2Proof.Machine.execVfcmp g c pd a b ty s
  | .vaddL g d a b ty rm k n => Sys2Proof.Machine.execVaddL g d a b ty rm k n s
  | .vsubL g d a b ty rm k n => Sys2Proof.Machine.execVsubL g d a b ty rm k n s
  | .vmulL g d a b ty rm k n => Sys2Proof.Machine.execVmulL g d a b ty rm k n s
  | .vdivL g d a b ty rm k n => Sys2Proof.Machine.execVdivL g d a b ty rm k n s
  | .vfma g d a b c ty rm k n => Sys2Proof.Machine.execVfma g d a b c ty rm k n s
  | .vfms g d a b c ty rm k n => Sys2Proof.Machine.execVfms g d a b c ty rm k n s
  | .vfnma g d a b c ty rm k n => Sys2Proof.Machine.execVfnma g d a b c ty rm k n s
  | .vsqrtL g d a ty rm k n => Sys2Proof.Machine.execVsqrtL g d a ty rm k n s
  | .vrcpL g d a ty rm k n => Sys2Proof.Machine.execVrcpL g d a ty rm k n s
  | .vrsqL g d a ty rm k n => Sys2Proof.Machine.execVrsqL g d a ty rm k n s
  | .vexp2L g d a ty rm k n => Sys2Proof.Machine.execVexp2L g d a ty rm k n s
  | .vlog2L g d a ty rm k n => Sys2Proof.Machine.execVlog2L g d a ty rm k n s
  | .vmin g d a b ty => Sys2Proof.Machine.execVmin g d a b ty s
  | .vmax g d a b ty => Sys2Proof.Machine.execVmax g d a b ty s
  | .vabs g d a ty => Sys2Proof.Machine.execVabs g d a ty s
  | .vneg g d a ty => Sys2Proof.Machine.execVneg g d a ty s
  | .vaddI32 g d a b => Sys2Proof.Machine.execVaddI32 g d a b s
  | .vsubI32 g d a b => Sys2Proof.Machine.execVsubI32 g d a b s
  | .vmulI32 g d a b => Sys2Proof.Machine.execVmulI32 g d a b s
  | .vminS32 g d a b => Sys2Proof.Machine.execVminS32 g d a b s
  | .vmaxS32 g d a b => Sys2Proof.Machine.execVmaxS32 g d a b s
  | .vminuI32 g d a b => Sys2Proof.Machine.execVminuI32 g d a b s
  | .vmaxuI32 g d a b => Sys2Proof.Machine.execVmaxuI32 g d a b s
  | .vsraI32 g d a b => Sys2Proof.Machine.execVsraI32 g d a b s
  | .vand g d a b => Sys2Proof.Machine.execVand g d a b s
  | .vor g d a b => Sys2Proof.Machine.execVor g d a b s
  | .vxor g d a b => Sys2Proof.Machine.execVxor g d a b s
  | .vandn g d a b => Sys2Proof.Machine.execVandn g d a b s
  | .vshlI32 g d a b => Sys2Proof.Machine.execVshlI32 g d a b s
  | .vshrI32 g d a b => Sys2Proof.Machine.execVshrI32 g d a b s
  | .vnot g d a => Sys2Proof.Machine.execVnot g d a s
  | .vmov g d a => Sys2Proof.Machine.execVmov g d a s
  | .vicmp g c pd a b w => Sys2Proof.Machine.execVicmp g c pd a b w s
  | .vsel g d a b w => Sys2Proof.Machine.execVsel g d a b w s
  | .vperm g d a b => Sys2Proof.Machine.execVperm g d a b s
  | .vbcast g d a b => Sys2Proof.Machine.execVbcast g d a b s
  | .vins g d a b => Sys2Proof.Machine.execVins g d a b s
  | .vext g d a b => Sys2Proof.Machine.execVext g d a b s
  | .vziplo g d a b => Sys2Proof.Machine.execVziplo g d a b s
  | .vziphi g d a b => Sys2Proof.Machine.execVziphi g d a b s
  | .vcomp g d a => Sys2Proof.Machine.execVcomp g d a s
  | .vsplati g d imm => Sys2Proof.Machine.execVsplati g d imm s
  | .vdotS8 g d a b => Sys2Proof.Machine.execVdotS8 g d a b s
  | .vdotU8 g d a b => Sys2Proof.Machine.execVdotU8 g d a b s
  | .vdotSu8 g d a b => Sys2Proof.Machine.execVdotSu8 g d a b s
  | .vredAddF32 g d a => Sys2Proof.Machine.execVredAddF32 g d a s
  | .vredMaxF32 g d a => Sys2Proof.Machine.execVredMaxF32 g d a s
  | .vredMinF32 g d a => Sys2Proof.Machine.execVredMinF32 g d a s
  | .vredAddI32 g d a => Sys2Proof.Machine.execVredAddI32 g d a s
  | .vredMaxS32 g d a => Sys2Proof.Machine.execVredMaxS32 g d a s
  | .vredMinS32 g d a => Sys2Proof.Machine.execVredMinS32 g d a s
  | .vredMaxuI32 g d a => Sys2Proof.Machine.execVredMaxuI32 g d a s
  | .vredMinuI32 g d a => Sys2Proof.Machine.execVredMinuI32 g d a s
  | .vcvt g d a sty dty rm => Sys2Proof.Machine.execVcvt g d a sty dty rm s
  | .vhist g d a b ty => Sys2Proof.Machine.execVhist g d a b ty s
  | .vaddIw g d a b w => Sys2Proof.Machine.execVaddIw g d a b w s
  | .vsubIw g d a b w => Sys2Proof.Machine.execVsubIw g d a b w s
  | .vmulIw g d a b w => Sys2Proof.Machine.execVmulIw g d a b w s
  | .vmulhs g d a b w => Sys2Proof.Machine.execVmulhs g d a b w s
  | .vmulhu g d a b w => Sys2Proof.Machine.execVmulhu g d a b w s
  | .vadds g d a b w => Sys2Proof.Machine.execVadds g d a b w s
  | .vaddsu g d a b w => Sys2Proof.Machine.execVaddsu g d a b w s
  | .vsubs g d a b w => Sys2Proof.Machine.execVsubs g d a b w s
  | .vsubsu g d a b w => Sys2Proof.Machine.execVsubsu g d a b w s
  | .vmins g d a b w => Sys2Proof.Machine.execVmins g d a b w s
  | .vmaxs g d a b w => Sys2Proof.Machine.execVmaxs g d a b w s
  | .vminu g d a b w => Sys2Proof.Machine.execVminu g d a b w s
  | .vmaxu g d a b w => Sys2Proof.Machine.execVmaxu g d a b w s
  | .vshl g d a b w => Sys2Proof.Machine.execVshl g d a b w s
  | .vshr g d a b w => Sys2Proof.Machine.execVshr g d a b w s
  | .vsra g d a b w => Sys2Proof.Machine.execVsra g d a b w s
  | .vmad g d a b c w => Sys2Proof.Machine.execVmad g d a b c w s
  | .vdivs g d a b w => Sys2Proof.Machine.execVdivs g d a b w s
  | .vdivu g d a b w => Sys2Proof.Machine.execVdivu g d a b w s
  | .vabsIw g d a w => Sys2Proof.Machine.execVabsIw g d a w s
  | .vredAdd g d a ty rm => Sys2Proof.Machine.execVredAdd g d a ty rm s
  | .vredMax g d a ty => Sys2Proof.Machine.execVredMax g d a ty s
  | .vredMin g d a ty => Sys2Proof.Machine.execVredMin g d a ty s
  | .vtopk g d a b c ty => Sys2Proof.Machine.execVtopk g d a b c ty s
  | .vcvtL g d a sty dty rm k n => Sys2Proof.Machine.execVcvtL g d a sty dty rm k n s
  | .vqsc g d a b sty dty rm k n => Sys2Proof.Machine.execVqsc g d a b sty dty rm k n s
  | .vpack g d a mx ty rm k n => Sys2Proof.Machine.execVpack g d a mx ty rm k n s
  | .vunpk g d a mx ty rm k n => Sys2Proof.Machine.execVunpk g d a mx ty rm k n s
  | .vhistMx g d a b mx => Sys2Proof.Machine.execVhistMx g d a b mx s
  | .ld g d a sz off => Sys2Proof.Machine.execLd g d a sz off s
  | .st g d a w off => Sys2Proof.Machine.execSt g d a w off s
  | .vld g d a w off => Sys2Proof.Machine.execVld g d a w off s
  | .vst g d a w off => Sys2Proof.Machine.execVst g d a w off s
  | .ldx g d a sz sc o imm => Sys2Proof.Machine.execLdx g d a sz sc o imm s
  | .stx g d a w sc o imm => Sys2Proof.Machine.execStx g d a w sc o imm s
  | .vlds g d a b w => Sys2Proof.Machine.execVlds g d a b w s
  | .vsts g d a b w => Sys2Proof.Machine.execVsts g d a b w s
  | .vgath g d a b w => Sys2Proof.Machine.execVgath g d a b w s
  | .vscat g d a b w => Sys2Proof.Machine.execVscat g d a b w s
  | .fence g d sc => Sys2Proof.Machine.execFence g d sc s
  | .atom g d a b c op aw o sc imm => Sys2Proof.Machine.execAtom g d a b c op aw o sc imm s
  | .ftst g pd a cl set => Sys2Proof.Machine.execFtst g pd a cl set s
  | .fmov g d a cl => Sys2Proof.Machine.execFmov g d a cl s
  | .fdrop g d cl => Sys2Proof.Machine.execFdrop g d cl s
  | .fwait g a cl => Sys2Proof.Machine.execFwait g a cl s
  | .tmark g d => Sys2Proof.Machine.execTmark g d s
  | .phReg g a b => Sys2Proof.Machine.execPhReg g a b s
  | .phArrive g a => Sys2Proof.Machine.execPhArrive g a s
  | .phWait g d a b => Sys2Proof.Machine.execPhWait g d a b s
  | .phDereg g a => Sys2Proof.Machine.execPhDereg g a s
  | .phRole g a b => Sys2Proof.Machine.execPhRole g a b s
  | .phInit g a b => Sys2Proof.Machine.execPhInit g a b s
  | .fpoison g d cl code => Sys2Proof.Machine.execFpoison g d cl code s
  | .semWait g d a b c => Sys2Proof.Machine.execSemWait g d a b c s
  | .qseq g d a b => Sys2Proof.Machine.execQseq g d a b s
  | .qseqLane g d a b => Sys2Proof.Machine.execQseqLane g d a b s
  | .qtbl g d a b => Sys2Proof.Machine.execQtbl g d a b s
  | .vrand g d a b => Sys2Proof.Machine.execVrand g d a b s
  | .probeR g d a b => Sys2Proof.Machine.execProbeR g d a b s
  | .probeW g d a b => Sys2Proof.Machine.execProbeW g d a b s
  | .cpCopy g d a b c ord bar hist ring hty eng => Sys2Proof.Machine.execCpCopy g d a b c ord bar hist ring hty eng s
  | .cpFill g d a b c ord bar ring eng => Sys2Proof.Machine.execCpFill g d a b c ord bar ring eng s
  | .cpCvt g d a b c ord bar hist ring dty sty rm eng => Sys2Proof.Machine.execCpCvt g d a b c ord bar hist ring dty sty rm eng s
  | .cpStride g d a b c ord bar hist hty eng => Sys2Proof.Machine.execCpStride g d a b c ord bar hist hty eng s
  | .ringAdvFill g d a b => Sys2Proof.Machine.execRingAdvFill g d a b s
  | .ringAdvFree g d a b => Sys2Proof.Machine.execRingAdvFree g d a b s
  | .ringWaitFill g d a b => Sys2Proof.Machine.execRingWaitFill g d a b s
  | .ringWaitFree g d a b => Sys2Proof.Machine.execRingWaitFree g d a b s
  | .ringReset g d a b c => Sys2Proof.Machine.execRingReset g d a b c s
  | .collArm g d a => Sys2Proof.Machine.execCollArm g d a s
  | .collDisarm g d a => Sys2Proof.Machine.execCollDisarm g d a s
  | .collGo g d a => Sys2Proof.Machine.execCollGo g d a s
  | .collGoResume g d a => Sys2Proof.Machine.execCollGoResume g d a s
  | .launch g d a unord endd => Sys2Proof.Machine.execLaunch g d a unord endd s
  | .strmGoTile g d a b ref tile => Sys2Proof.Machine.execStrmGoTile g d a b ref tile s
  | .strmGoBus g d a b ref bus => Sys2Proof.Machine.execStrmGoBus g d a b ref bus s
  | .strmReg g d a tile => Sys2Proof.Machine.execStrmReg g d a tile s
  | .strmDereg g d tile => Sys2Proof.Machine.execStrmDereg g d tile s
  | .lnkAlign g d a => Sys2Proof.Machine.execLnkAlign g d a s
  | .sEnd => Sys2Proof.Machine.execSEnd s
  | .sJmp t => Sys2Proof.Machine.execSJmp t s
  | .sLoop l t => Sys2Proof.Machine.execSLoop l t s
  | .sSetlc l imm => Sys2Proof.Machine.execSSetlc l imm s
  | .sBrz l t => Sys2Proof.Machine.execSBrz l t s
  | .sWnow imm => Sys2Proof.Machine.execSWnow imm s
  | .sWin wd => Sys2Proof.Machine.execSWin wd s
  | .sGain gain => Sys2Proof.Machine.execSGain gain s
  | .sFmt f => Sys2Proof.Machine.execSFmt f s
  | .sFmtA f => Sys2Proof.Machine.execSFmtA f s
  | .sScl m x => Sys2Proof.Machine.execSScl m x s
  | .sRing role core ring => Sys2Proof.Machine.execSRing role core ring s
  | .sMode r => Sys2Proof.Machine.execSMode r s
  | .sSelb sel => Sys2Proof.Machine.execSSelb sel s
  | .sAcc n => Sys2Proof.Machine.execSAcc n s
  | .sAclr n => Sys2Proof.Machine.execSAclr n s
  | .sRun k => Sys2Proof.Machine.execSRun k s
  | .sDrain bar z rm ty n => Sys2Proof.Machine.execSDrain bar z rm ty n s
  | .sOrst => Sys2Proof.Machine.execSOrst s
  | .badStreamOp w => Sys2Proof.Machine.execBadStreamOp w s
  | .completion => Sys2Proof.Machine.execCompletion s
  | .chunk => Sys2Proof.Machine.execChunk s
  | .rebase => Sys2Proof.Machine.execRebase s
  | .transfer => Sys2Proof.Machine.execTransfer s
  | .transferReceive => Sys2Proof.Machine.execTransferReceive s
  | .transferAck => Sys2Proof.Machine.execTransferAck s
  | .releaseNotice => Sys2Proof.Machine.execReleaseNotice s
  | .noticeRequest => Sys2Proof.Machine.execNoticeRequest s
  | .noticeRequestRetry => Sys2Proof.Machine.execNoticeRequestRetry s
  | .noticeWaitTimeout => Sys2Proof.Machine.execNoticeWaitTimeout s
  | .ackTimeout => Sys2Proof.Machine.execAckTimeout s
  | .quarantineEnd => Sys2Proof.Machine.execQuarantineEnd s
  | .frameBoundary => Sys2Proof.Machine.execFrameBoundary s
  | .accumulation => Sys2Proof.Machine.execAccumulation s
  | .importFrame => Sys2Proof.Machine.execImportFrame s
  | .combLoss => Sys2Proof.Machine.execCombLoss s
  | .lineLowTimeout => Sys2Proof.Machine.execLineLowTimeout s
  | .shadowCheck => Sys2Proof.Machine.execShadowCheck s
  | .trackerService => Sys2Proof.Machine.execTrackerService s
  | .moveSettle => Sys2Proof.Machine.execMoveSettle s
  | .patrolScrub => Sys2Proof.Machine.execPatrolScrub s
  | .holdTimeout => Sys2Proof.Machine.execHoldTimeout s
  | .invAll => Sys2Proof.Machine.execInvAll s
  | .invAsid => Sys2Proof.Machine.execInvAsid s
  | .invRange => Sys2Proof.Machine.execInvRange s
  | .invalidationComplete => Sys2Proof.Machine.execInvalidationComplete s
  | .resolved => Sys2Proof.Machine.execResolved s
  | .invalid => Sys2Proof.Machine.execInvalid s
  | .residencyTimeout => Sys2Proof.Machine.execResidencyTimeout s
  | .doorbell => Sys2Proof.Machine.execDoorbell s
  | .qctl => Sys2Proof.Machine.execQctl s
  | .acceptance => Sys2Proof.Machine.execAcceptance s
  | .semaphoreRead => Sys2Proof.Machine.execSemaphoreRead s
  | .start => Sys2Proof.Machine.execStart s
  | .dispatch => Sys2Proof.Machine.execDispatch s
  | .holdClusters => Sys2Proof.Machine.execHoldClusters s
  | .preEmption => Sys2Proof.Machine.execPreEmption s
  | .save => Sys2Proof.Machine.execSave s
  | .restore => Sys2Proof.Machine.execRestore s
  | .packEnd => Sys2Proof.Machine.execPackEnd s
  | .regionKill => Sys2Proof.Machine.execRegionKill s
  | .powerOn => Sys2Proof.Machine.execPowerOn s
  | .conventionalReset => Sys2Proof.Machine.execConventionalReset s
  | .config => Sys2Proof.Machine.execConfig s
  | .ident => Sys2Proof.Machine.execIdent s
  | .memup => Sys2Proof.Machine.execMemup s
  | .optic => Sys2Proof.Machine.execOptic s
  | .ready => Sys2Proof.Machine.execReady s
  | .linkDown => Sys2Proof.Machine.execLinkDown s
  | .linkUp => Sys2Proof.Machine.execLinkUp s
  | .trip => Sys2Proof.Machine.execTrip s
  | .tripRecovery => Sys2Proof.Machine.execTripRecovery s
  | .cxlMemAccess => Sys2Proof.Machine.execCxlMemAccess s
  | .remoteAccess => Sys2Proof.Machine.execRemoteAccess s
  | .forward => Sys2Proof.Machine.execForward s
  | .bankSwap => Sys2Proof.Machine.execBankSwap s
  | .beacon => Sys2Proof.Machine.execBeacon s
  | .failover => Sys2Proof.Machine.execFailover s
  | .ptpMessage => Sys2Proof.Machine.execPtpMessage s
  | .holdover => Sys2Proof.Machine.execHoldover s
  | .resv => Sys2Proof.Machine.execResv s
  | .commit => Sys2Proof.Machine.execCommit s
  | .minm => Sys2Proof.Machine.execMinm s
  | .counterClear => Sys2Proof.Machine.execCounterClear s
  | .optreqClear => Sys2Proof.Machine.execOptreqClear s
  | .optreqSet => Sys2Proof.Machine.execOptreqSet s
  | .rbsel => Sys2Proof.Machine.execRbsel s
  | .retire => Sys2Proof.Machine.execRetire s
  | .registerWrite => Sys2Proof.Machine.execRegisterWrite s
  | .identify => Sys2Proof.Machine.execIdentify s
  | .getHealthInfo => Sys2Proof.Machine.execGetHealthInfo s
  | .getFwInfo => Sys2Proof.Machine.execGetFwInfo s
  | .transferFw => Sys2Proof.Machine.execTransferFw s
  | .activateFw => Sys2Proof.Machine.execActivateFw s
  | .unsupported => Sys2Proof.Machine.execUnsupported s
  | .getVersion => Sys2Proof.Machine.execGetVersion s
  | .getCapabilities => Sys2Proof.Machine.execGetCapabilities s
  | .negotiateAlgorithms => Sys2Proof.Machine.execNegotiateAlgorithms s
  | .getDigests => Sys2Proof.Machine.execGetDigests s
  | .getCertificate => Sys2Proof.Machine.execGetCertificate s
  | .challenge => Sys2Proof.Machine.execChallenge s
  | .getMeasurements => Sys2Proof.Machine.execGetMeasurements s
  | .attach => Sys2Proof.Machine.execAttach s
  | .detach => Sys2Proof.Machine.execDetach s
  | .halt => Sys2Proof.Machine.execHalt s
  | .haltComplete => Sys2Proof.Machine.execHaltComplete s
  | .resume => Sys2Proof.Machine.execResume s
  | .rewind => Sys2Proof.Machine.execRewind s
  | .replay => Sys2Proof.Machine.execReplay s
  | .trim => Sys2Proof.Machine.execTrim s
  | .watch => Sys2Proof.Machine.execWatch s
  | .acknowledgement => Sys2Proof.Machine.execAcknowledgement s
  | .replayParked => Sys2Proof.Machine.execReplayParked s
  | .importLight => Sys2Proof.Machine.execImportLight s

end Sys2Proof.Machine
end

