-- ==== Sys2Proof/Machine/Fetch.lean ====
section
/-! DEFINITION. Fetching an instruction (spec/05 R107-R109), and what a turn of the agenda runs. -/

namespace Sys2Proof.Machine

/-- What the fetch of one word comes to. -/
inductive Fetched where
  | word (w : Nat) (s : State)
  | held
  | fail (f : Fail)
  deriving DecidableEq, Repr

/-- Fetches the word at an address for the current thread; only a device-kind page with X is fetched from (R108, R333). A thread
that has stored into its own code fetches the new contents, which R109 allows beside the old (DESIGN CHOICE,
notes/assumptions/38.md). -/
def State.fetchWord (s : State) (va : Word) : Fetched :=
  match s.locate (s.agentOf s.cur) va .fetch with
  | .ok p e =>
    match s.readPart { va := va, pos := 0, len := 4 } p with
    | .ok bs => .word (leNat bs) ((s.touch e false).lease p 4)
    | .error f => .fail f
  | .held => .held
  | x =>
    match x.failure va with
    | some f => .fail f
    | none => .held

/-- What a turn comes to: an instruction to execute in a state, or a state with nothing to execute. -/
inductive Run where
  | exec (i : Instr) (s : State)
  | done (s : State)
  deriving DecidableEq, Repr

/-- A fetch that fails raises ACCESS_FAULT with pc at the first word (R108, R353). -/
def State.fetchFail (s : State) (f : Fail) (w0 : Nat) : State :=
  let s1 := { s with ir0 := BitVec.ofNat 32 w0, ir1 := 0 }
  (s1.stick f.hole).trap { cause := .accessFault, code := 0, addr := f.addr,
                           info := BitVec.ofNat 64 s.thr.delivering, reason := f.reason }

/-- The wait of a fetch on a held page; past TIMEOUT it fails with reason HELD (R335, R353). -/
def State.fetchHold (s : State) (va : Word) (w0 : Nat) : State := s.onHold va fun s => s.fetchFail (heldFail va) w0

/-- Fetches both words and decodes them. -/
def State.fetch (s : State) : Run :=
  let pc := s.thr.pc
  match s.fetchWord pc with
  | .held => .done (s.fetchHold pc 0)
  | .fail f => .done (s.fetchFail f 0)
  | .word w0 s1 =>
    if isLong w0 then
      match s1.fetchWord (pc + 4) with
      | .held => .done (s1.fetchHold (pc + 4) w0)
      | .fail f => .done (s1.fetchFail f w0)
      | .word w1 s2 => .exec (decodeOrFate w0 w1) { s2 with ir0 := BitVec.ofNat 32 w0, ir1 := BitVec.ofNat 32 w1 }
    else .exec (decodeOrFate w0 0) { s1 with ir0 := BitVec.ofNat 32 w0, ir1 := 0 }

/-- A REPLAY steps the thread: it is ready for its next instruction, or the instruction that it issued has parked or waits
(R382). -/
def State.replays (s : State) (g : Nat) : Bool :=
  s.replay.any fun r => r.gtid == some g && !r.trapped && (!r.issued || (s.thread g).status != .ready)

/-- A REPLAY's thread issues: the wait of R382 counts from its first try. -/
def State.noteIssue (s : State) (g : Nat) : State :=
  match s.replay with
  | none => s
  | some r =>
    if r.gtid = some g ∧ r.issued = false then { s with replay := some { r with issued := true, since := s.now.toNat } } else s

/-- Whether a thread can issue: it is ready, it waits, or nothing that it parked on is pending (R26, R36); one that a HALT or a
save has stopped issues nothing (R363, R379). -/
def State.canIssue (s : State) (g : Nat) : Bool :=
  let t := s.thread g
  (!t.halted || s.replays g) && !s.stopped g &&
    match t.status with
    | .ready => true
    | .waiting => s.retries t.hold
    | .parked => if t.waitsEntry then s.mayBind g else !(t.waitsOn.any fun i => t.isPending i)
    | _ => false

/-- A thread issues. -/
def State.turnThread (s : State) (g : Nat) : Run :=
  let s1 := { s.noteIssue g with cur := g, prior := (s.thread g).hold }
  let s0 := s1.onThr fun t =>
    { t with woke := false, yielded := false, waitsEntry := false, status := .ready, hold := none }
  match s0.fetch with
  | .done s2 => .done s2
  | .exec i s2 => .exec i (s2.onThr fun t => { t with delivering := 0 })

/-- NOW moves on; it slews by at most 200 ppm while an offset is left (R15, R401). -/
def State.tick (s : State) (n : Nat) : State :=
  let most : Int := n / 5000
  let adj := max (-most) (min most s.slew)
  { s with now := s.now + BitVec.ofInt 64 (n + adj), slew := s.slew - adj }

end Sys2Proof.Machine
end

