-- ==== Sys2Proof/Machine/Choose.lean ====
section
/-! DEFINITION. Which agent moves when the agenda is empty: the model's own choice (DESIGN CHOICE, notes/assumptions/1.md); and
what follows every turn. -/

namespace Sys2Proof.Machine

/-! ### Threads (R49) -/

/-- The threads of a core that woke and have not issued since come before the others: by the cycle in which they parked, then by
thread index (R49, step 1). -/
def State.wokeFirst (s : State) (gs : List Nat) : Option Nat :=
  (gs.filter fun g => (s.thread g).woke).foldl (fun a g =>
    match a with
    | none => some g
    | some h => if (s.thread g).parkedAt < (s.thread h).parkedAt then some g else some h) none

/-- The next instruction of a thread takes the vector slot: majors 0x20–0x4F (R14). -/
def State.takesVector (s : State) (g : Nat) : Bool :=
  match s.locate (s.agentOf g) (s.thread g).pc .fetch with
  | .ok p _ => decide (0x20 ≤ s.peekNat p 4 / 2 ^ 25) && decide (s.peekNat p 4 / 2 ^ 25 < 0x50)
  | _ => false

/-- A slot's rotation (R49, step 2). -/
def Core.rotation (k : Core) (vector : Bool) : Nat := if vector then k.rotVec else k.rotCtl

/-- A slot's rotation moves to the index after that of the thread it issued. -/
def Core.rotate (k : Core) (vector : Bool) (g : Nat) : Core :=
  if vector then { k with rotVec := (g % 8 + 1) % 8 } else { k with rotCtl := (g % 8 + 1) % 8 }

/-- Among the other threads that are ready for a slot, the next one in rotation (R49, step 2). -/
def State.rotation (s : State) (core : Nat) (vector : Bool) (gs : List Nat) : Option Nat :=
  let r := (s.core core).rotation vector
  ((gs.filter fun g => decide (r ≤ g % 8)) ++ gs.filter fun g => decide (g % 8 < r)).head?

/-- The thread that a slot of a core issues, and the state with the slot's rotation moved on (R49). The control slot passes over a
thread whose YIELD it has just issued, where another is ready for it, for this one choice (R153). -/
def State.issueFrom (s : State) (core : Nat) (vector : Bool) (gs : List Nat) : Option (Nat × State) :=
  let fresh := gs.filter fun g => !(s.thread g).yielded
  let hs := if vector || fresh.isEmpty then gs else fresh
  let s1 := if vector then s else
    { s with threads := s.threads.map fun x => if coreOf x.1 = core then (x.1, { x.2 with yielded := false }) else x }
  match s.wokeFirst hs with
  | some g => some (g, s1)
  | none => (s.rotation core vector hs).map fun g => (g, s1.setCore core ((s.core core).rotate vector g))

/-- The threads that can issue or try again, in order of their numbers. -/
def State.issuable (s : State) : List Nat := (s.threads.map (·.1)).filter s.canIssue

/-- The ready threads: those that can issue and do not wait (R48, R72). -/
def State.ready (s : State) : List Nat := s.issuable.filter fun g => (s.thread g).status != .waiting

/-- The threads that wait and try again: none of them is ready, and none moves a rotation (R49, R72). -/
def State.retrying (s : State) : List Nat := s.issuable.filter fun g => (s.thread g).status == .waiting

/-- The issue slot that a thread is ready for, over all cores: two for each core, the control slot first (R14). -/
def State.slotOf (s : State) (g : Nat) : Nat := 2 * coreOf g + boolNat (s.takesVector g)

/-- The thread that issues in the turn of a thread, and the state with its slot's rotation moved on: of a ready thread, the one
that its slot chooses (R49); a thread that waits tries again itself; none where the thread can do neither. -/
def State.issueTurn (s : State) (g : Nat) : Option (Nat × State) :=
  if !s.canIssue g then none
  else if (s.thread g).status = .waiting then some (g, s)
  else
    let p := s.slotOf g
    s.issueFrom (p / 2) (p % 2 == 1) (s.ready.filter fun h => s.slotOf h == p)

/-! ### Other agents -/

/-- A default event with the values that come from outside: boot goes on without errors, at 25 °C. -/
def State.bootEvents (s : State) : List Event :=
  if 6 ≤ s.cfield 0x10 7 0 ∨ s.cfield 0x10 15 8 ≠ 0 then []
  else if s.fwRun.isNone then [.powerOn]
  else [.config true s.config, .ident true, .memup true, .optic true 400, .ready]

/-- Whether a bus has a boundary to come at which something may change. -/
def State.busStirs (s : State) (bus : Nat) : Bool :=
  (s.bus bus).flight.isSome || (s.bus bus).fails.isSome
    || s.seqrs.any fun x =>
        (x.1 == txOf bus && x.2.cmd.isSome) || (x.2.sel == some bus && (x.2.leaving || x.2.stop))
          || x.2.join.any (fun j => j.sel == bus)

/-- Events of the shepherd that may be due. -/
def State.shepherdEvents (s : State) : List Event :=
  let clusters := List.range 8
  (s.queues.flatMap fun q => if s.queueWaits q.1 then [Event.acceptance q.1] else [])
    ++ (s.launches.flatMap fun l =>
        [Event.semaphoreRead l.id 0, .semaphoreRead l.id 1, .start l.id, .holdClusters l.id]
          ++ clusters.map (Event.dispatch l.id) ++ clusters.map (Event.preEmption l.id))
    ++ s.packs.flatMap fun p =>
        if p.out.isSome then clusters.map (Event.restore p.key) else [Event.save p.key, .packEnd p.key]

/-- Events of copy engines, walkers and sequencers that may be due. -/
def State.engineEvents (s : State) : List Event :=
  (List.range s.copies.length).map Event.chunk
    ++ (s.colls.flatMap fun x =>
        [Event.transfer (x.1 / 16) (x.1 % 16), .noticeRequestRetry (x.1 / 16) (x.1 % 16), .noticeWaitTimeout (x.1 / 16) (x.1 % 16),
         .ackTimeout (x.1 / 16) (x.1 % 16)])
    ++ ((s.ownXfers.take 1).map Event.transferReceive) ++ ((s.ownNotices.take 1).map Event.releaseNotice)
    ++ ((s.ownRequests.take 1).map Event.noticeRequest)
    ++ ((s.sent.zipIdx).flatMap fun x => (x.1.answer.toList).map fun r => Event.transferAck x.2 r none)
    ++ ((List.range s.arming.length).map Event.quarantineEnd)
    ++ (s.seqrs.flatMap fun x => if x.2.closed.isEmpty then [] else [Event.accumulation x.1])
    ++ (s.shadows.map fun x => Event.shadowCheck x.1)
    ++ ((List.range 8).flatMap fun b => if s.busStirs b then [Event.frameBoundary b 0 0 []] else [])

/-- The beacons of the slot under way that the ports have still to check: each as its timetable entry says, from a peer whose
clock is not locked (R394, R401). -/
def State.beaconEvents (s : State) : List Event :=
  if s.tt.nslot = 0 ∨ s.tt.slotNs = 0 then []
  else
    let slot := s.slotNow
    (List.range 18).flatMap fun port =>
      let e := s.ttEntry slot (s.serves port)
      if nbits e 31 31 = 0 ∨ s.lostPorts.contains port ∨ s.portSeen.contains (port, slot) ∨ s.portQuar.contains (port, slot) then []
      else [Event.beacon port (nbits e 15 0) (nbits e 20 16) s.tt.epoch s.now.toNat false]

/-- Events of translation, time and health that may be due. -/
def State.otherEvents (s : State) : List Event :=
  (s.threads.flatMap fun x => if x.2.unacked.isEmpty then [] else [Event.acknowledgement x.1])
    ++ (if s.invs.isEmpty then [] else [Event.invalidationComplete])
    ++ ((List.range s.held.length).map Event.holdTimeout)
    ++ (s.requests.map fun r => Event.residencyTimeout (BitVec.ofNat 32 r.id))
    ++ (s.lowLines.map fun l => Event.lineLowTimeout l.1 l.2.1)
    ++ ((List.range s.moves.length).map Event.moveSettle)
    ++ (if s.ttDue then [Event.bankSwap] else []) ++ (if s.halting.isSome then [Event.haltComplete] else [])
    ++ (if s.replay.isSome then [Event.replayParked] else []) ++ s.beaconEvents ++ s.bootEvents

/-- Whether an event has its effect now: it is not turned away. -/
def State.enabled (s : State) (e : Event) : Bool :=
  match exec e.row { s with ev := some e } with
  | .next _ => true
  | _ => false

/-- Whether a turn of sequencer q may change something. -/
def State.streamStirs (s : State) (q : Nat) : Bool :=
  let x := s.seqr q
  x.goes && s.retries x.hold && !(x.join.any (·.fut.isNone)) && x.run.all fun w => w.frame.isNone && s.inMark q != 0

/-- The turns that agents other than the ready threads may take, in order. -/
def State.otherTurns (s : State) : List Turn :=
  ((List.range (min 1 s.flying.length)).map fun i => Turn.event (.completion i))
    ++ (s.seqrs.flatMap fun x => if s.streamStirs x.1 then [Turn.stream x.1] else [])
    ++ s.retrying.map Turn.thread ++ (s.engineEvents ++ s.shepherdEvents ++ s.otherEvents).map Turn.event

/-- Whether a turn does something. -/
def State.allowed (s : State) : Turn → Bool
  | .event e => s.enabled e
  | _ => true

/-- The first turn from position k on, in rotation, that does something. -/
def State.rotated (s : State) (ts : List Turn) (k : Nat) : Option Turn :=
  let i := if ts.isEmpty then 0 else k % ts.length
  (ts.drop i ++ ts.take i).find? s.allowed

/-- Of the threads given, one whose slot is the first from a position on. -/
def State.nextReady (s : State) (pos : Nat) (gs : List Nat) : Option Nat :=
  (gs.filter fun g => decide (pos ≤ s.slotOf g)).foldl (fun a g =>
    match a with
    | none => some g
    | some h => if s.slotOf g < s.slotOf h then some g else some h) none

/-- The default choice: each slot that a thread is ready for, core after core, then one turn of another agent, and so on in
rounds. -/
def State.choose (s : State) : Option (Turn × State) :=
  let round := s.coreTurn / 4096
  let gs := s.ready
  match s.nextReady (s.coreTurn % 4096) gs with
  | some g => some (.thread g, { s with coreTurn := 4096 * round + s.slotOf g + 1 })
  | none =>
    match s.rotated s.otherTurns round with
    | some t => some (t, { s with coreTurn := 4096 * (round + 1) })
    | none => (s.nextReady 0 gs).map fun g => (.thread g, { s with coreTurn := 4096 * (round + 1) + s.slotOf g + 1 })

/-- The L2 takes a copy of a line of another module's memory as it stands now, in place of an older one (R68). -/
def State.takeCopy (s : State) (m line : Nat) : State :=
  { s with fabCopies :=
      { module := m, line := line, bytes := s.peekN (.remote m (128 * line)) 128, since := s.now.toNat, barred := [], homed := [] }
        :: s.fabCopies.filter fun c => !(c.module == m && c.line == line) }

/-- Whose turn is next, and the state with that turn taken from the agenda: the head of the agenda, else the default choice. -/
def State.nextTurn (s : State) : Option Turn × State :=
  match s.agenda with
  | t :: r => (some t, { s with agenda := r })
  | [] =>
    match s.choose with
    | some x => (some x.1, x.2)
    | none => (none, s)

/-- What a turn runs. -/
def State.runTurn (s1 : State) (turn : Option Turn) : Run :=
  match turn with
  | none => .done s1
  | some (.thread g) =>
    match s1.issueTurn g with
    | some (h, s2) => s2.turnThread h
    | none => .done s1
  | some (.stream q) =>
    match s1.turnStream q with
    | .word i s2 => .exec i s2
    | .done s2 => .done s2
  | some (.event e) => .exec e.row { s1 with ev := some e }
  | some (.clock n) => .done (s1.tick n)
  | some (.hostRead off wide) => .done (s1.hostRead off wide)
  | some (.hostWrites pa bs) => .done (s1.pokeN (.host pa) bs)
  | some (.peerWrites m pa bs) => .done (s1.pokeN (.remote m pa) bs)
  | some (.takeCopy m line) => .done (s1.takeCopy m line)
  | some (.peerTables links) => .done { s1 with peerLinks := links }

/-- What the next turn runs; a rebase where one is due (R66). -/
def State.nextRun (s : State) : Run :=
  if s.rebaseDue then .exec .rebase { s.tick Config.cycle with ev := some .rebase }
  else
    let x := (s.tick Config.cycle).nextTurn
    x.2.runTurn x.1

/-- What a step from s makes of its outcome t: where t would hold a timestamp above the limit, the step is not taken, and a rebase
is due (R66; DESIGN CHOICE, notes/assumptions/14.md: the step as the unit). -/
def State.within (s t : State) : State := if topStamp < t.ltime ∧ s.rebaseDue = false then { s with rebaseDue := true } else t

/-! ### What follows every turn -/

/-- SEM.WAITs read their words again (R209). A wait whose pack is out and whose word lies in its pool reads on when it is
back. -/
def State.pollSems (s : State) : State :=
  s.semWaits.foldl (fun a w =>
    if isLocal w.va && a.packOut w.ctx.pack then a
    else { a with semWaits := a.semWaits.filter fun x => x.tag ≠ w.tag }.startSemWait w.tag w.ctx w.va w.cond w.y) s

/-- A trail of which another write has struck an entry is FAILED (R367). -/
def State.failSpoiled (s : State) : State :=
  if s.trails.any (·.spoiled) then
    s.regions.foldl (fun a r =>
      if r.trail != 0 && (a.trailUse r.owner).spoiled then
        let b := a.failTrail r
        b.setTrailUse { b.trailUse r.owner with spoiled := false }
      else a) s
  else s

/-- Sequencers of killed packs that take part in no session stop, and killed packs that are quiet are freed (R356). -/
def State.freeKilled (s : State) : State :=
  (s.packs.filter (·.killing)).foldl (fun a p =>
    let b := p.seqrs.foldl (fun c q =>
      let x := c.seqr q
      if x.sel.isNone && x.run.isNone && x.busy.isNone && (x.cmd.isSome || x.join.isSome) then c.stopSeqr q else c) a
    b.tryFree p.key) s

/-- Launches that have finished complete, those that wait on a held page too (R328, R335). -/
def State.endLaunches (s : State) : State := s.launches.foldl (fun a l => a.tryEnd l.id) s

/-- Entries that transmitters have sent come free once no listener needs them (R253). -/
def State.freeAllSent (s : State) : State := (List.range 4).foldl State.freeSent s

/-- A pending-table entry that its binding has given up is written whole before it is read again: it is not marked (R415). -/
def State.dropMarks (s : State) : State :=
  { s with marks := s.marks.filter fun m => match m with
      | .pending tag => (s.bound? tag).isSome
      | _ => true }

/-- The wait of a trail for a page of its buffer is over once an invalidation has covered the page and it is held no more
(R335). -/
def State.freeTrailHolds (s : State) : State :=
  { s with trails := s.trails.map fun u =>
      match u.hold with
      | some h =>
        if h.again && s.locate { core := 0, lid := 0, pack := none, asid := u.asid } h.va .store != .held then { u with hold := none }
        else u
      | none => u }

/-- Everything that follows from a turn without a turn of its own. The waits that a flip completes are delivered in the same cycle
(R50, R202). -/
def State.settle (s : State) : State :=
  let s1 := s.writeRecords.landWaits.pollSems.retryHelds.retryProbes
  let s2 := if s1.requests.isEmpty then s1 else s1.postAll
  let s3 := s2.failSpoiled.settleColl.freeAllSent.freeKilled.endLaunches
  let s4 := s3.retryFlips.retryChildren.retryKills
  let s5 := if s4.kills.isEmpty then s4 else s4.finishKills
  s5.retryDebug.makeReady.settleReplay.dropMarks.freeTrailHolds.postOut.sendBeacons

/-! ### The place of the next instruction -/

/-- The state that fetches the bits w of an instruction next (DESIGN CHOICE, notes/assumptions/1.md): thread 0 has the turn, and
page tables in device memory map its pc onto the words. -/
def State.withCode (s : State) (w : Nat) : State :=
  let t := s.thread 0
  let s1 := s.setThread 0 { t with status := .ready, woke := true, parkedAt := 0, yielded := false, pc := 0x30000, asid := 0,
                                   halted := false, hold := none }
  let s2 := s1.setCreg 0x2000 0
  let m1 := mwrite s2.mem 0 (natLe 8 0x10001)
  let m2 := mwrite m1 0x10000 (natLe 8 0x20001)
  let m3 := mwrite m2 0x20000 (natLe 8 0x33)
  { s2 with agenda := [.thread 0], stuck := none, tlb := [], marks := [], ltime := 0, rebaseDue := false
            mem := mwrite m3 0x30000 (natLe 8 w) }

end Sys2Proof.Machine
end

