-- ==== Sys2Proof/Machine/Step.lean ====
section
/-! DEFINITION. One step: the next turn, and what follows it. -/

namespace Sys2Proof.Machine

/-- One step of the package. A step whose outcome would hold a timestamp above the limit is not taken: a rebase comes first
(R66). -/
def step (s : State) : Host.Outcome State Fault Refusal :=
  match s.stuck with
  | some f => .fault f
  | none =>
    match s.nextRun with
    | .done s1 => .next (s.within s1.settle)
    | .exec i s1 =>
      match exec i s1 with
      | .next s2 => .next (s.within s2.settle)
      | .fault f => .fault f
      | .refused r => .refused r

/-- s with the instruction whose bits are w stored where step fetches its next instruction. -/
def State.withFetchWord (s : State) (nbits w : Nat) : State := s.withCode (w % 2 ^ nbits)

end Sys2Proof.Machine
end

