-- ==== Sys2Proof/Safety.lean ====
section
/-! DEFINITION. What a safe run is, and the terms that the statements use: when an instruction executes, what it wrote, and
what it left alone. -/

namespace Sys2Proof.Machine

/-- No step of a run from s, however long, ends in a fault. -/
def SafeFrom (s : State) : Prop := ∀ k f, Host.Core.run core k s ≠ .fault f

/-- Every memory of the state has its canonical form. -/
def State.wf (s : State) : Prop :=
  Memory.wf s.mem = true ∧ Memory.wf s.pool = true ∧ Memory.wf s.hostMem = true ∧ Memory.wf s.remoteMem = true

/-! ### When an instruction executes (spec/02 R35-R37, spec/05 R124) -/

/-- The guard is full, and no operand is pending or poisoned: the registers read are full, those written are not pending. -/
structure State.Ready (s : State) (g : Guard) (reads writes : List Nat) : Prop where
  guard : s.thr.rstate (rp g) = .full
  reads : ∀ i ∈ reads, s.thr.rstate i = .full
  writes : ∀ i ∈ writes, s.thr.isPending i = false

/-- The instruction also executes: bit 0 of its guard is one (R35). -/
structure State.Runs (s : State) (g : Guard) (reads writes : List Nat) : Prop extends s.Ready g reads writes where
  bit : (s.thr.preg g).getLsbD 0 = true

/-! ### What an instruction wrote -/

/-- Bytes of a memory: the device memory, the pools, the host's memory and other modules' memories. Control space has
registers. -/
def Place.isStorage : Place → Bool
  | .ctl _ => false
  | _ => true

/-- Outside the registers, their states, FPFLAGS and the pc of the thread whose turn it is, nothing has changed: no other
thread, no byte of memory, no field of the machine. -/
structure Elsewhere (s t : State) : Prop where
  machine : { t with threads := s.threads } = s
  threads : ∀ h, h ≠ s.cur → t.thread h = s.thread h
  thread : { t.thr with s := s.thr.s, v := s.thr.v, p := s.thr.p, st := s.thr.st, fpflags := s.thr.fpflags,
                        pc := s.thr.pc } = s.thr
  memory : ∀ p : Place, p.isStorage = true → t.peek p = s.peek p

/-- The current thread wrote the registers of `outs`, numbered as R353 numbers them, each full with its value (a constant
register keeps its own, R11), merged `fl` into FPFLAGS, and went on at pc; nothing else changed. -/
structure WritesOnly (s t : State) (outs : List (Nat × Vec)) (fl : BitVec 5) (pc : Word) : Prop where
  written : ∀ o ∈ outs, t.thr.value o.1 = (if isConst o.1 then s.thr.value o.1 else o.2) ∧ t.thr.rstate o.1 = .full
  kept : ∀ i < 144, i ∉ outs.map (·.1) → t.thr.value i = s.thr.value i ∧ t.thr.rstate i = s.thr.rstate i
  flags : t.thr.fpflags = s.thr.fpflags ||| fl
  pc : t.thr.pc = pc
  elsewhere : Elsewhere s t

/-- The result of a synchronous instruction as a rule gives it: its guard, the registers it reads, the registers it writes
with their values, and its length in bytes. -/
structure Effect where
  g : Guard
  reads : List Nat
  outs : List (Nat × Vec)
  len : Nat

/-- A scalar or predicate value as register bits. -/
def wide (x : Word) : Vec := x.setWidth 2048

/-- Writes s[d]. -/
def Effect.toS (g : Guard) (reads : List Nat) (d : Reg6) (x : Word) (len : Nat) : Effect :=
  { g := g, reads := reads, outs := [(rs d, wide x)], len := len }

/-- Writes p[d]. -/
def Effect.toP (g : Guard) (reads : List Nat) (d : PReg) (x : Word) (len : Nat) : Effect :=
  { g := g, reads := reads, outs := [(rp d, wide x)], len := len }

/-- Writes the pair of a compare: all ones or zero, and its complement (R144). -/
def Effect.pair (g : Guard) (reads : List Nat) (pd : PReg) (c : Bool) (len : Nat) : Effect :=
  { g := g, reads := reads, len := len,
    outs := [(rp pd, wide (if c then BitVec.allOnes 64 else 0)), (rp pd + 1, wide (if c then 0 else BitVec.allOnes 64))] }

/-- The instruction completes with its effect. -/
def Completes (i : Instr) (e : Effect) (s : State) : Prop :=
  ∃ t, exec i s = .next t ∧ WritesOnly s t e.outs 0 (s.thr.pc + BitVec.ofNat 64 e.len)

end Sys2Proof.Machine
end

