-- ==== Sys2Proof/Safety/Vector.lean ====
section
/-! DEFINITION. What the rules of spec/07 say that the vector instructions write, as tables over the thread that the
statements compare the machine with. -/

namespace Sys2Proof.Machine

/-- The result of a vector instruction as a rule gives it: its guard, the registers it reads beside a merged destination, its
destination, its length; the width of its governing layout and of its destination's elements (R157); and for an element e
its value and flags where the guard activates it. -/
structure LaneEffect where
  g : Guard
  reads : List Nat
  d : Reg6
  len : Nat
  layout : Nat
  width : Nat
  value : Nat → Nat
  flags : Nat → Nat

/-- The guard activates element e of a layout (R12): bit ⌊w·e/32⌋, or bit 2e of 64-bit elements. -/
def activates (w : Nat) (pg : Word) (e : Nat) : Prop := pg.getLsbD (if w = 64 then 2 * e else w * e / 32) = true

/-- The guard activates every element (R35). -/
def Full (w : Nat) (pg : Word) : Prop := ∀ e < 2048 / w, activates w pg e

/-- The operands of a merging instruction are ready: its destination too, where the guard does not activate every element
(R35, R38, R158). -/
def LaneEffect.ready (r : LaneEffect) (s : State) : Prop :=
  s.Ready r.g r.reads [rv r.d] ∧ (Full r.layout (s.thr.preg r.g) ∨ s.thr.rstate (rv r.d) = .full)

/-- FPFLAGS after merging the flags of the active elements (R94, R160). -/
def mergedFlags (r : LaneEffect) (pg : Word) (old new : BitVec 5) : Prop :=
  ∀ b < 5, new.getLsbD b = true ↔
    old.getLsbD b = true ∨ ∃ e < 2048 / r.layout, activates r.layout pg e ∧ (r.flags e).testBit b = true

/-- A merging instruction completes: every active element holds its value, every inactive one its old value, and the bytes
above a narrow destination are zero (R157). -/
def Merges (i : Instr) (r : LaneEffect) (s : State) : Prop :=
  ∃ t x fl, exec i s = .next t ∧ WritesOnly s t [(rv r.d, x)] fl (s.thr.pc + BitVec.ofNat 64 r.len)
    ∧ mergedFlags r (s.thr.preg r.g) s.thr.fpflags t.thr.fpflags
    ∧ (∀ e < 2048 / r.layout,
        (activates r.layout (s.thr.preg r.g) e → elem r.width x e = r.value e % 2 ^ r.width)
          ∧ (¬activates r.layout (s.thr.preg r.g) e → elem r.width x e = elem r.width (s.thr.vreg r.d) e))
    ∧ ∀ e, 2048 / r.layout ≤ e → e < 2048 / r.width → elem r.width x e = 0

/-! ### Integers (R165-R167) -/

/-- An integer instruction of two sources of w bits. -/
def LaneEffect.int2 (t : Thread) (w : Nat) (f : BitVec w → BitVec w → BitVec w) (g : Guard) (d a b : Reg6) (len : Nat) :
    LaneEffect :=
  { g := g, reads := [rv a, rv b], d := d, len := len, layout := w, width := w, flags := fun _ => 0,
    value := fun e => (f (BitVec.ofNat w (elem w (t.vreg a) e)) (BitVec.ofNat w (elem w (t.vreg b) e))).toNat }

/-- An integer instruction of one source of w bits. -/
def LaneEffect.int1 (t : Thread) (w : Nat) (f : BitVec w → BitVec w) (g : Guard) (d a : Reg6) (len : Nat) : LaneEffect :=
  { g := g, reads := [rv a], d := d, len := len, layout := w, width := w, flags := fun _ => 0,
    value := fun e => (f (BitVec.ofNat w (elem w (t.vreg a) e))).toNat }

/-- The saturated value of an exact integer (R82). -/
def clamp (lo hi x : Int) : Int := if x < lo then lo else if hi < x then hi else x

/-- sat_s(w, x) as w bits. -/
def clampS (w : Nat) (x : Int) : BitVec w := BitVec.ofInt w (clamp (-(2 ^ (w - 1))) (2 ^ (w - 1) - 1) x)

/-- sat_u(w, x) as w bits. -/
def clampU (w : Nat) (x : Int) : BitVec w := BitVec.ofInt w (clamp 0 (2 ^ w - 1) x)

/-- The signed quotient of w bits of R166. -/
def quotW {w : Nat} (x y : BitVec w) : BitVec w :=
  if y = 0 then BitVec.allOnes w else if x = BitVec.intMin w ∧ y = BitVec.allOnes w then x
  else BitVec.ofInt w (x.toInt.tdiv y.toInt)

/-- R165: the short forms, on 32-bit lanes. -/
def lanesOf (t : Thread) : Instr → Option LaneEffect
  | .vaddI32 g d a b => some (.int2 t 32 (fun x y => x + y) g d a b 4)
  | .vsubI32 g d a b => some (.int2 t 32 (fun x y => x - y) g d a b 4)
  | .vmulI32 g d a b => some (.int2 t 32 (fun x y => x * y) g d a b 4)
  | .vminS32 g d a b => some (.int2 t 32 (fun x y => if y.slt x then y else x) g d a b 4)
  | .vmaxS32 g d a b => some (.int2 t 32 (fun x y => if x.slt y then y else x) g d a b 4)
  | .vminuI32 g d a b => some (.int2 t 32 (fun x y => if y.ult x then y else x) g d a b 4)
  | .vmaxuI32 g d a b => some (.int2 t 32 (fun x y => if x.ult y then y else x) g d a b 4)
  | .vsraI32 g d a b => some (.int2 t 32 (fun x y => x.sshiftRight (y.toNat % 32)) g d a b 4)
  | .vand g d a b => some (.int2 t 32 (fun x y => x &&& y) g d a b 4)
  | .vor g d a b => some (.int2 t 32 (fun x y => x ||| y) g d a b 4)
  | .vxor g d a b => some (.int2 t 32 (fun x y => x ^^^ y) g d a b 4)
  | .vandn g d a b => some (.int2 t 32 (fun x y => x &&& ~~~y) g d a b 4)
  | .vshlI32 g d a b => some (.int2 t 32 (fun x y => x <<< (y.toNat % 32)) g d a b 4)
  | .vshrI32 g d a b => some (.int2 t 32 (fun x y => x >>> (y.toNat % 32)) g d a b 4)
  | .vnot g d a => some (.int1 t 32 (fun x => ~~~x) g d a 4)
  | .vmov g d a => some (.int1 t 32 (fun x => x) g d a 4)
  | .vsplati g d imm => some { g := g, reads := [], d := d, len := 4, layout := 32, width := 32, flags := fun _ => 0,
                               value := fun _ => (imm.signExtend 32).toNat }
  | _ => none

/-- R166: the long forms, at widths 8 to 64. -/
def widthsOf (t : Thread) : Instr → Option LaneEffect
  | .vaddIw g d a b w => some (.int2 t (widthBits w) (fun x y => x + y) g d a b 8)
  | .vsubIw g d a b w => some (.int2 t (widthBits w) (fun x y => x - y) g d a b 8)
  | .vmulIw g d a b w => some (.int2 t (widthBits w) (fun x y => x * y) g d a b 8)
  | .vmulhs g d a b w =>
    some (.int2 t (widthBits w) (fun x y => BitVec.ofInt _ (x.toInt * y.toInt / 2 ^ widthBits w)) g d a b 8)
  | .vmulhu g d a b w =>
    some (.int2 t (widthBits w) (fun x y => BitVec.ofNat _ (x.toNat * y.toNat / 2 ^ widthBits w)) g d a b 8)
  | .vadds g d a b w => some (.int2 t (widthBits w) (fun x y => clampS _ (x.toInt + y.toInt)) g d a b 8)
  | .vaddsu g d a b w => some (.int2 t (widthBits w) (fun x y => clampU _ ((x.toNat : Int) + y.toNat)) g d a b 8)
  | .vsubs g d a b w => some (.int2 t (widthBits w) (fun x y => clampS _ (x.toInt - y.toInt)) g d a b 8)
  | .vsubsu g d a b w => some (.int2 t (widthBits w) (fun x y => clampU _ ((x.toNat : Int) - y.toNat)) g d a b 8)
  | .vmins g d a b w => some (.int2 t (widthBits w) (fun x y => if y.slt x then y else x) g d a b 8)
  | .vmaxs g d a b w => some (.int2 t (widthBits w) (fun x y => if x.slt y then y else x) g d a b 8)
  | .vminu g d a b w => some (.int2 t (widthBits w) (fun x y => if y.ult x then y else x) g d a b 8)
  | .vmaxu g d a b w => some (.int2 t (widthBits w) (fun x y => if x.ult y then y else x) g d a b 8)
  | .vshl g d a b w => some (.int2 t (widthBits w) (fun x y => x <<< (y.toNat % widthBits w)) g d a b 8)
  | .vshr g d a b w => some (.int2 t (widthBits w) (fun x y => x >>> (y.toNat % widthBits w)) g d a b 8)
  | .vsra g d a b w => some (.int2 t (widthBits w) (fun x y => x.sshiftRight (y.toNat % widthBits w)) g d a b 8)
  | .vmad g d a b c w =>
    some { g := g, reads := [rv a, rv b, rv c], d := d, len := 8, layout := widthBits w, width := widthBits w,
           flags := fun _ => 0,
           value := fun e => elem (widthBits w) (t.vreg a) e * elem (widthBits w) (t.vreg b) e + elem (widthBits w) (t.vreg c) e }
  | .vdivs g d a b w => some (.int2 t (widthBits w) quotW g d a b 8)
  | .vdivu g d a b w => some (.int2 t (widthBits w) (fun x y => if y = 0 then BitVec.allOnes _ else x / y) g d a b 8)
  | .vabsIw g d a w => some (.int1 t (widthBits w) (fun x => BitVec.ofNat _ x.toInt.natAbs) g d a 8)
  | _ => none

/-! ### Permutes (R170) -/

/-- A permute: lane i holds a lane of a source. -/
def LaneEffect.move (g : Guard) (reads : List Nat) (d : Reg6) (value : Nat → Nat) : LaneEffect :=
  { g := g, reads := reads, d := d, len := 4, layout := 32, width := 32, flags := fun _ => 0, value := value }

/-- R170: the permutes that merge per lane. -/
def permuteOf (t : Thread) : Instr → Option LaneEffect
  | .vperm g d a b => some (.move g [rv a, rv b] d fun i => elem 32 (t.vreg a) (elem 32 (t.vreg b) i % 64))
  | .vbcast g d a b => some (.move g [rv a, rs b] d fun _ => elem 32 (t.vreg a) ((t.sreg b).toNat % 64))
  | .vext g d a b => some (.move g [rv a, rs b] d fun i => elem 32 (t.vreg a) ((i + (t.sreg b).toNat) % 64))
  | .vziplo g d a b =>
    some (.move g [rv a, rv b] d fun i => if i % 2 = 0 then elem 32 (t.vreg a) (i / 2) else elem 32 (t.vreg b) (i / 2))
  | .vziphi g d a b =>
    some (.move g [rv a, rv b] d fun i =>
      if i % 2 = 0 then elem 32 (t.vreg a) (i / 2 + 32) else elem 32 (t.vreg b) (i / 2 + 32))
  | _ => none

/-! ### Floating point (R162-R164, R171-R173, R176) -/

/-- The random bits of element e under SR: H(s[k], s[n] + e), [31:0] (R95). -/
def drawn (t : Thread) (k n : Reg6) (e : Nat) : Nat :=
  (hash (t.sreg k) (t.sreg n + BitVec.ofNat 64 e)).toNat % 2 ^ 32

/-- A rounding instruction in mode m: element e is the finished result of its operation. -/
def LaneEffect.rounded (g : Guard) (srcs : List Nat) (d : Reg6) (rm : Rm) (k n : Reg6) (len layout width : Nat)
    (r : Nat → Nat × Nat) : LaneEffect :=
  { g := g, reads := srcs ++ (if rm = .sr then [rs k, rs n] else []), d := d, len := len, layout := layout, width := width,
    value := fun e => (r e).1, flags := fun e => (r e).2 }

/-- One source in format f. -/
def fpUnary (f : Fmt) (op : Val → Op) (m : Rm) (t : Thread) (g : Guard) (d a : Reg6) (rm : Rm) (k n : Reg6) (len : Nat) :
    LaneEffect :=
  .rounded g [rv a] d rm k n len f.width f.width fun e =>
    f.finish m (drawn t k n e) (op (f.val (elem f.width (t.vreg a) e)))

/-- Two sources in format f. -/
def fpBinary (f : Fmt) (op : Val → Val → Op) (m : Rm) (t : Thread) (g : Guard) (d a b : Reg6) (rm : Rm) (k n : Reg6)
    (len : Nat) : LaneEffect :=
  .rounded g [rv a, rv b] d rm k n len f.width f.width fun e =>
    f.finish m (drawn t k n e) (op (f.val (elem f.width (t.vreg a) e)) (f.val (elem f.width (t.vreg b) e)))

/-- Three sources in format f. -/
def fpTernary (f : Fmt) (op : Val → Val → Val → Op) (m : Rm) (t : Thread) (g : Guard) (d a b c : Reg6) (rm : Rm)
    (k n : Reg6) : LaneEffect :=
  .rounded g [rv a, rv b, rv c] d rm k n 8 f.width f.width fun e =>
    f.finish m (drawn t k n e)
      (op (f.val (elem f.width (t.vreg a) e)) (f.val (elem f.width (t.vreg b) e)) (f.val (elem f.width (t.vreg c) e)))

/-- R162, R163: the arithmetic that rounds, in the mode m that applies. -/
def fpOf (m : Rm) (t : Thread) : Instr → Option (Rm × LaneEffect)
  | .vaddF32 g d a b rm => some (rm, fpBinary fp32 (addV m) m t g d a b rm 0 0 4)
  | .vsubF32 g d a b rm => some (rm, fpBinary fp32 (subV m) m t g d a b rm 0 0 4)
  | .vmulF32 g d a b rm => some (rm, fpBinary fp32 mulV m t g d a b rm 0 0 4)
  | .vaddBf16 g d a b rm => some (rm, fpBinary bf16 (addV m) m t g d a b rm 0 0 4)
  | .vsubBf16 g d a b rm => some (rm, fpBinary bf16 (subV m) m t g d a b rm 0 0 4)
  | .vmulBf16 g d a b rm => some (rm, fpBinary bf16 mulV m t g d a b rm 0 0 4)
  | .vaddF16 g d a b rm => some (rm, fpBinary fp16 (addV m) m t g d a b rm 0 0 4)
  | .vsubF16 g d a b rm => some (rm, fpBinary fp16 (subV m) m t g d a b rm 0 0 4)
  | .vmulF16 g d a b rm => some (rm, fpBinary fp16 mulV m t g d a b rm 0 0 4)
  | .vdivF32 g d a b rm => some (rm, fpBinary fp32 divV m t g d a b rm 0 0 4)
  | .vsqrtF32 g d a rm => some (rm, fpUnary fp32 sqrtV m t g d a rm 0 0 4)
  | .vrcpF32 g d a rm => some (rm, fpUnary fp32 rcpV m t g d a rm 0 0 4)
  | .vrsqF32 g d a rm => some (rm, fpUnary fp32 rsqV m t g d a rm 0 0 4)
  | .vexp2F32 g d a rm => some (rm, fpUnary fp32 exp2V m t g d a rm 0 0 4)
  | .vlog2F32 g d a rm => some (rm, fpUnary fp32 log2V m t g d a rm 0 0 4)
  | .vaddL g d a b ty rm k n => some (rm, fpBinary (fmtOf ty) (addV m) m t g d a b rm k n 8)
  | .vsubL g d a b ty rm k n => some (rm, fpBinary (fmtOf ty) (subV m) m t g d a b rm k n 8)
  | .vmulL g d a b ty rm k n => some (rm, fpBinary (fmtOf ty) mulV m t g d a b rm k n 8)
  | .vdivL g d a b ty rm k n => some (rm, fpBinary (fmtOf ty) divV m t g d a b rm k n 8)
  | .vfma g d a b c ty rm k n => some (rm, fpTernary (fmtOf ty) (fmaV false false m) m t g d a b c rm k n)
  | .vfms g d a b c ty rm k n => some (rm, fpTernary (fmtOf ty) (fmaV false true m) m t g d a b c rm k n)
  | .vfnma g d a b c ty rm k n => some (rm, fpTernary (fmtOf ty) (fmaV true false m) m t g d a b c rm k n)
  | .vsqrtL g d a ty rm k n => some (rm, fpUnary (fmtOf ty) sqrtV m t g d a rm k n 8)
  | .vrcpL g d a ty rm k n => some (rm, fpUnary (fmtOf ty) rcpV m t g d a rm k n 8)
  | .vrsqL g d a ty rm k n => some (rm, fpUnary (fmtOf ty) rsqV m t g d a rm k n 8)
  | .vexp2L g d a ty rm k n => some (rm, fpUnary (fmtOf ty) exp2V m t g d a rm k n 8)
  | .vlog2L g d a ty rm k n => some (rm, fpUnary (fmtOf ty) log2V m t g d a rm k n 8)
  | _ => none

/-- R171, R172, R173, R176: conversions, in the mode m that applies. -/
def convertOf (m : Rm) (t : Thread) : Instr → Option (Rm × LaneEffect)
  | .vcvt g d a sty dty rm =>
    some (rm, .rounded g [rv a] d rm 0 0 4 (max (tyBits sty) (tyBits dty)) (tyBits dty) fun e =>
      convert sty dty m (drawn t 0 0 e) (elem (tyBits sty) (t.vreg a) e))
  | .vcvtL g d a sty dty rm k n =>
    some (rm, .rounded g [rv a] d rm k n 8 (max (tyBits sty) (tyBits dty)) (tyBits dty) fun e =>
      convert sty dty m (drawn t k n e) (elem (tyBits sty) (t.vreg a) e))
  | .vqsc g d a b sty dty rm k n =>
    some (rm, .rounded g [rv a, rv b] d rm k n 8 (max (tyBits sty) (tyBits dty)) (tyBits dty) fun e =>
      quantScale sty dty m (drawn t k n e) (elem (tyBits sty) (t.vreg a) e) (elem (tyBits sty) (t.vreg b) e))
  | .vunpk g d a mx ty rm k n =>
    some (rm, .rounded g [rv a] d rm k n 8 (fmtOf ty).width (fmtOf ty).width fun e =>
      (((fmtOf ty).round .rne 0 (mxVal mx (mxScaleAt (t.vreg a) (e / 32)) (elem (mxN mx) (t.vreg a) e)).exact).1, 0))
  | _ => none

/-- The mode that applies: the instruction's own, or FPRM's under DYN; none where R16 makes it illegal. -/
def modeOf (rm : Rm) (fprm : BitVec 3) : Option Rm :=
  if rm = .dyn then
    match fprm.toNat with
    | 0 => some .rne
    | 1 => some .rtz
    | 2 => some .rdn
    | 3 => some .rup
    | 4 => some .rna
    | 6 => some .rto
    | _ => none
  else some rm

/-- R164: maximum, minimum, absolute value and negation. -/
def signOf (t : Thread) : Instr → Option LaneEffect
  | .vmin g d a b ty => some (pick false g d a b (fmtOf ty))
  | .vmax g d a b ty => some (pick true g d a b (fmtOf ty))
  | .vabs g d a ty => some (sign (fmtOf ty) g d a fun f x => x % 2 ^ (f.width - 1))
  | .vneg g d a ty => some (sign (fmtOf ty) g d a fun f x => if x < 2 ^ (f.width - 1) then x + 2 ^ (f.width - 1) else x - 2 ^ (f.width - 1))
  | _ => none
where
  pick (isMax : Bool) (g : Guard) (d a b : Reg6) (f : Fmt) : LaneEffect :=
    .rounded g [rv a, rv b] d .rne 0 0 8 f.width f.width fun e =>
      f.pick isMax (elem f.width (t.vreg a) e) (elem f.width (t.vreg b) e)
  sign (f : Fmt) (g : Guard) (d a : Reg6) (new : Fmt → Nat → Nat) : LaneEffect :=
    .rounded g [rv a] d .rne 0 0 8 f.width f.width fun e =>
      let x := elem f.width (t.vreg a) e
      (if (f.val x).isNan then f.nan else new f x, if (f.val x).isSig then Fl.invalid else 0)

/-- A zero times an infinity (R85). -/
def zeroTimesInf (x y : Val) : Bool :=
  match x, y with
  | .num _ m _, .inf _ => m == 0
  | _, _ => false

/-! ### Instructions with a shape of their own (R158) -/

/-- The form of a vector instruction whose result a rule states as a whole: its guard, the registers it reads, those it reads
where the guard does not activate every element of a layout, its destinations, its length. -/
structure VForm where
  g : Guard
  reads : List Nat
  merged : List Nat
  layout : Nat
  dests : List Nat
  len : Nat

/-- Its operands are ready. -/
def VForm.ready (q : VForm) (s : State) : Prop :=
  s.Ready q.g q.reads q.dests ∧ (Full q.layout (s.thr.preg q.g) ∨ ∀ i ∈ q.merged, s.thr.rstate i = .full)

/-- It completes: it writes its destinations, with values and flags of which the argument holds, and nothing else. -/
def Gives (i : Instr) (q : VForm) (s : State) (holds : List Vec → BitVec 5 → Prop) : Prop :=
  ∃ t xs fl, exec i s = .next t ∧ xs.length = q.dests.length
    ∧ WritesOnly s t (q.dests.zip xs) fl (s.thr.pc + BitVec.ofNat 64 q.len) ∧ holds xs fl

/-- The lane or element at a place in a list of values. -/
def at0 (xs : List Vec) : Vec := xs.getD 0 0

/-- VSEL, VINS, VCOMP (R169, R170) and VDOT (R177). -/
def selectShape : Instr → Option VForm
  | .vsel g d a b w =>
    some { g := g, reads := [rv a, rv b], merged := [rv d], layout := widthBits w, dests := [rv d], len := 4 }
  | .vins g d a b => some { g := g, reads := [rs a, rs b, rv d], merged := [], layout := 32, dests := [rv d], len := 4 }
  | .vcomp g d a => some { g := g, reads := [rv a], merged := [rv d], layout := 32, dests := [rv d], len := 4 }
  | .vdotS8 g d a b => some (dot g d a b)
  | .vdotU8 g d a b => some (dot g d a b)
  | .vdotSu8 g d a b => some (dot g d a b)
  | _ => none
where
  dot (g : Guard) (d a b : Reg6) : VForm :=
    { g := g, reads := [rv a, rv b, rv d], merged := [], layout := 32, dests := [rv d], len := 4 }

/-- A byte, signed or not. -/
def byteVal (sgn : Bool) (v : Vec) (i : Nat) : Int :=
  if sgn && decide (128 ≤ elem 8 v i) then (elem 8 v i : Int) - 256 else elem 8 v i

/-- A lane of a dot product: the accumulator and four exact products, modulo 2^32 (R177). -/
def dotSum (x y : Bool) (acc : Nat) (va vb : Vec) (i : Nat) : Int :=
  ((acc : Int) + byteVal x va (4 * i) * byteVal y vb (4 * i) + byteVal x va (4 * i + 1) * byteVal y vb (4 * i + 1)
    + byteVal x va (4 * i + 2) * byteVal y vb (4 * i + 2) + byteVal x va (4 * i + 3) * byteVal y vb (4 * i + 3)) % 2 ^ 32

/-- What R177 says of a dot product's lanes. -/
def dotSays (t : Thread) (x y : Bool) (g : Guard) (d a b : Reg6) (v : Vec) : Prop :=
  ∀ i < 64, (activates 32 (t.preg g) i → (elem 32 v i : Int) = dotSum x y (elem 32 (t.vreg d) i) (t.vreg a) (t.vreg b) i)
    ∧ (¬activates 32 (t.preg g) i → elem 32 v i = elem 32 (t.vreg d) i)

/-- What R169, R170 and R177 say of the result. -/
def selectSays (t : Thread) (xs : List Vec) (fl : BitVec 5) : Instr → Prop
  | .vsel g _ a b w =>
    fl = 0 ∧ ∀ e < 2048 / widthBits w,
      (activates (widthBits w) (t.preg g) e → elem (widthBits w) (at0 xs) e = elem (widthBits w) (t.vreg a) e)
        ∧ (¬activates (widthBits w) (t.preg g) e → elem (widthBits w) (at0 xs) e = elem (widthBits w) (t.vreg b) e)
  | .vins g d a b =>
    fl = 0 ∧ ∀ i < 64, elem 32 (at0 xs) i =
      if i = (t.sreg b).toNat % 64 ∧ (t.preg g).getLsbD i = true then (t.sreg a).toNat % 2 ^ 32 else elem 32 (t.vreg d) i
  | .vcomp g _ a =>
    fl = 0 ∧ (∀ i < 64, (t.preg g).getLsbD i = true →
        elem 32 (at0 xs) ((List.range i).countP fun j => (t.preg g).getLsbD j) = elem 32 (t.vreg a) i)
      ∧ ∀ k, ((List.range 64).countP fun j => (t.preg g).getLsbD j) ≤ k → k < 64 → elem 32 (at0 xs) k = 0
  | .vdotS8 g d a b => fl = 0 ∧ dotSays t true true g d a b (at0 xs)
  | .vdotU8 g d a b => fl = 0 ∧ dotSays t false false g d a b (at0 xs)
  | .vdotSu8 g d a b => fl = 0 ∧ dotSays t true false g d a b (at0 xs)
  | _ => False

/-! ### Compares (R168) -/

/-- The form of the vector compares. -/
def vcompareShape : Instr → Option VForm
  | .vfcmp g _ pd a b ty => some (pair g pd a b (fmtOf ty).width)
  | .vicmp g _ pd a b w => some (pair g pd a b (widthBits w))
  | _ => none
where
  pair (g : Guard) (pd : PReg) (a b : Reg6) (w : Nat) : VForm :=
    { g := g, reads := [rv a, rv b], merged := [rp pd, rp pd + 1], layout := w, dests := [rp pd, rp pd + 1], len := 4 }

/-- The elements that lie in lane i: those of a 32-bit lane; a 64-bit element lies in two lanes. -/
def inLane (w i e : Nat) : Prop := if w = 64 then e = i / 2 else 32 * i ≤ w * e ∧ w * e < 32 * i + 32

/-- Lane i is active: its guard bit, or for 64-bit elements the bit of the lower lane. -/
def laneActive (w : Nat) (pg : Word) (i : Nat) : Prop := pg.getLsbD (if w = 64 then 2 * (i / 2) else i) = true

/-- What R168 says of the pair: in an active lane the first bit is the AND of the conditions of its elements, the second its
complement; in an inactive one both keep their values; an active lane's flags are raised. -/
def pairSays (t : Thread) (w : Nat) (g : Guard) (pd : PReg) (c : Nat → Bool × Nat) (xs : List Vec) (fl : BitVec 5) : Prop :=
  (∀ i < 64, (laneActive w (t.preg g) i →
        (((xs.getD 0 0).getLsbD i = true ↔ ∀ e < 2048 / w, inLane w i e → (c e).1 = true)
          ∧ (xs.getD 1 0).getLsbD i = !(xs.getD 0 0).getLsbD i))
      ∧ (¬laneActive w (t.preg g) i →
          (xs.getD 0 0).getLsbD i = (t.preg pd).getLsbD i ∧ (xs.getD 1 0).getLsbD i = (t.preg (pd + 1)).getLsbD i))
    ∧ ∀ b < 5, fl.getLsbD b = true ↔
        ∃ i < 64, laneActive w (t.preg g) i ∧ ∃ e < 2048 / w, inLane w i e ∧ (c e).2.testBit b = true

/-- What R168 says of a compare's result. -/
def vcompareSays (t : Thread) (xs : List Vec) (fl : BitVec 5) : Instr → Prop
  | .vfcmp g c pd a b ty =>
    let f := fmtOf ty
    pairSays t f.width g pd (fun e => fcond c (f.val (elem f.width (t.vreg a) e)) (f.val (elem f.width (t.vreg b) e))) xs fl
  | .vicmp g c pd a b w =>
    pairSays t (widthBits w) g pd
      (fun e => (icondW c (BitVec.ofNat (widthBits w) (elem (widthBits w) (t.vreg a) e))
        (BitVec.ofNat (widthBits w) (elem (widthBits w) (t.vreg b) e)), 0)) xs fl
  | _ => False
where
  icondW {w : Nat} (c : ICond) (x y : BitVec w) : Bool :=
    match c with
    | .eq => decide (x = y)
    | .lt => x.slt y
    | .ltu => x.ult y
    | .tst => decide (x &&& y ≠ 0)

/-! ### Reductions (R98, R178, R179) -/

/-- The fixed tree over the 2^k elements from lo on: the two halves' roots combined; an absent element leaves the other
(R98). -/
def treeRoot (op : Nat → Nat → Nat × Nat) (x : Nat → Option Nat) : Nat → Nat → Option Nat × Nat
  | 0, lo => (x lo, 0)
  | k + 1, lo =>
    let l := treeRoot op x k lo
    let r := treeRoot op x k (lo + 2 ^ k)
    match l.1, r.1 with
    | some a, some b => (some (op a b).1, (op a b).2 ||| l.2 ||| r.2)
    | some a, none => (some a, l.2 ||| r.2)
    | none, y => (y, l.2 ||| r.2)

/-- The active elements of a register. -/
def chosen (w : Nat) (pg : Word) (v : Vec) (e : Nat) : Option Nat :=
  if pg.getLsbD (if w = 64 then 2 * e else w * e / 32) then some (elem w v e) else none

/-- The form of the reductions, with the rounding mode in the encoding. -/
def reduceShape : Instr → Option (VForm × Rm)
  | .vredAddF32 g d a => some (form g d a 32 4, .rne)
  | .vredMaxF32 g d a => some (form g d a 32 4, .rne)
  | .vredMinF32 g d a => some (form g d a 32 4, .rne)
  | .vredAddI32 g d a => some (form g d a 32 4, .rne)
  | .vredMaxS32 g d a => some (form g d a 32 4, .rne)
  | .vredMinS32 g d a => some (form g d a 32 4, .rne)
  | .vredMaxuI32 g d a => some (form g d a 32 4, .rne)
  | .vredMinuI32 g d a => some (form g d a 32 4, .rne)
  | .vredAdd g d a ty rm => some (form g d a (fmtOf ty).width 8, rm)
  | .vredMax g d a ty => some (form g d a (fmtOf ty).width 8, .rne)
  | .vredMin g d a ty => some (form g d a (fmtOf ty).width 8, .rne)
  | _ => none
where
  form (g : Guard) (d a : Reg6) (w len : Nat) : VForm :=
    { g := g, reads := [rv a], merged := [rv d], layout := w, dests := [rv d], len := len }

/-- Element 0 of the result is x, and every other element is zero. -/
def onlyFirst (w : Nat) (v : Vec) (x : Nat) : Prop := elem w v 0 = x % 2 ^ w ∧ ∀ e, 0 < e → e < 2048 / w → elem w v e = 0

/-- The number of levels of the tree. -/
def levels (w : Nat) : Nat := if w = 16 then 7 else 6

/-- A floating-point reduction: the root, a NaN as the default NaN, +0 without an active element; a signalling NaN raises
invalid. -/
def fpReduces (f : Fmt) (op : Nat → Nat → Nat × Nat) (t : Thread) (g : Guard) (a : Reg6) (v : Vec) (fl : BitVec 5) : Prop :=
  let r := treeRoot op (chosen f.width (t.preg g) (t.vreg a)) (levels f.width) 0
  onlyFirst f.width v (match r.1 with
    | none => 0
    | some x => if (f.val x).isNan then f.nan else x)
    ∧ (∃ sig : Bool, (sig = true ↔ ∃ e < 2048 / f.width, ∃ x, chosen f.width (t.preg g) (t.vreg a) e = some x ∧ (f.val x).isSig = true)
      ∧ fl = BitVec.ofNat 5 (r.2 ||| if sig then Fl.invalid else 0))

/-- An integer reduction. -/
def intReduces (op : BitVec 32 → BitVec 32 → BitVec 32) (t : Thread) (g : Guard) (a : Reg6) (v : Vec) (fl : BitVec 5) : Prop :=
  onlyFirst 32 v
      ((treeRoot (fun x y => ((op (BitVec.ofNat 32 x) (BitVec.ofNat 32 y)).toNat, 0)) (chosen 32 (t.preg g) (t.vreg a)) 6 0).1.getD 0)
    ∧ fl = 0

/-- What R179 says of the result, in the mode m that applies. -/
def reduceSays (t : Thread) (m : Rm) (xs : List Vec) (fl : BitVec 5) : Instr → Prop
  | .vredAddF32 g _ a => fpReduces fp32 (fp32.add m) t g a (at0 xs) fl
  | .vredMaxF32 g _ a => fpReduces fp32 (fp32.pick true) t g a (at0 xs) fl
  | .vredMinF32 g _ a => fpReduces fp32 (fp32.pick false) t g a (at0 xs) fl
  | .vredAddI32 g _ a => intReduces (fun x y => x + y) t g a (at0 xs) fl
  | .vredMaxS32 g _ a => intReduces (fun x y => if x.slt y then y else x) t g a (at0 xs) fl
  | .vredMinS32 g _ a => intReduces (fun x y => if y.slt x then y else x) t g a (at0 xs) fl
  | .vredMaxuI32 g _ a => intReduces (fun x y => if x.ult y then y else x) t g a (at0 xs) fl
  | .vredMinuI32 g _ a => intReduces (fun x y => if y.ult x then y else x) t g a (at0 xs) fl
  | .vredAdd g _ a ty _ => fpReduces (fmtOf ty) ((fmtOf ty).add m) t g a (at0 xs) fl
  | .vredMax g _ a ty => fpReduces (fmtOf ty) ((fmtOf ty).pick true) t g a (at0 xs) fl
  | .vredMin g _ a ty => fpReduces (fmtOf ty) ((fmtOf ty).pick false) t g a (at0 xs) fl
  | _ => False

/-! ### Histograms, MX blocks and top-k (R174, R175, R180, R182) -/

/-- The form of VHIST, VHIST.mx, VPACK and VTOPK, with the rounding mode in the encoding. -/
def gatherShape : Instr → Option (VForm × Rm)
  | .vhist g d a b ty =>
    some ({ g := g, reads := [rv a, rs b, rv d], merged := [], layout := (fmtOf ty).width, dests := [rv d], len := 4 }, .rne)
  | .vhistMx g d a b _ =>
    some ({ g := g, reads := [rv a, rs b, rv d], merged := [], layout := 16, dests := [rv d], len := 8 }, .rne)
  | .vpack g d a _ ty rm k n =>
    some ({ g := g, reads := [rv a] ++ (if rm = .sr then [rs k, rs n] else []), merged := [rv d], layout := (fmtOf ty).width,
            dests := [rv d], len := 8 }, rm)
  | .vtopk g d a b c ty =>
    some ({ g := g, reads := [rv a, rs b, rv c], merged := [rv d, rv d + 1], layout := tyBits ty, dests := [rv d, rv d + 1],
            len := 8 }, .rne)
  | _ => none

/-- Every bin grows by the number of active elements that fall into it, and saturates (R180). -/
def counted (w n : Nat) (pg : Word) (old new : Vec) (base : Int) (val : Nat → Val) : Prop :=
  ∀ j < 64, elem 32 new j =
    min 0xFFFFFFFF (elem 32 old j + ((List.range n).countP fun e =>
      pg.getLsbD (if w = 64 then 2 * e else w * e / 32) && decide (hbin (val e) base = j)))

/-- The value that element e of VPACK's source enters with: +0 where the guard does not activate it (R175). -/
def packed (f : Fmt) (pg : Word) (v : Vec) (e : Nat) : Val :=
  if pg.getLsbD (f.width * e / 32) then f.val (elem f.width v e) else .num false 0 0

/-- What R174 and R175 say of VPACK: the scale of each block of 32 at byte 248 + b, its elements' codes packed from bit 0 on,
and zero elsewhere; NB blocks, 2 for FP32 and 4 for BF16. -/
def blocksSay (mx : Mx) (f : Fmt) (m : Rm) (t : Thread) (g : Guard) (a k n : Reg6) (v : Vec) : Prop :=
  let nb := 64 / f.width
  let x := packed f (t.preg g) (t.vreg a)
  let scale := fun b => mxScale ((List.range 32).map fun j => x (32 * b + j))
  (∀ b < nb, elem 8 v (248 + b) = scale b)
    ∧ (∀ e < 32 * nb, elem (mxN mx) v e =
        ((mxElem mx (scale (e / 32)) m (drawn t k n e) (x e)).1 % 2 ^ mxN mx).toNat)
    ∧ (∀ i, 4 * nb * mxN mx ≤ i → i < 248 → elem 8 v i = 0) ∧ ∀ i, 248 + nb ≤ i → i < 256 → elem 8 v i = 0

/-- The order of VTOPK's candidates: rank descending, then logical index ascending, then element ascending (R182). -/
def ahead (r : Nat → Int) (idx : Nat → Nat) (e e' : Nat) : Prop :=
  r e' < r e ∨ r e = r e' ∧ (idx e < idx e' ∨ idx e = idx e' ∧ e < e')

/-- What R182 says of VTOPK: the active elements in that order; the first K of them with their indices; zero and all ones
beyond; a signalling NaN raises invalid. -/
def topkSays (t : Thread) (g : Guard) (a b c : Reg6) (ty : Ty) (xs : List Vec) (fl : BitVec 5) : Prop :=
  let w := tyBits ty
  let x := elem w (t.vreg a)
  let idx := elem 32 (t.vreg c)
  ∃ order : List Nat,
    order.Perm ((List.range 64).filter fun e => (t.preg g).getLsbD (w * e / 32))
      ∧ order.Pairwise (ahead (fun e => rank ty (x e)) idx)
      ∧ (∀ j < 64, if h : j < order.length ∧ j < (t.sreg b).toNat then
            elem w (xs.getD 0 0) j = (if (tyVal ty (x order[j])).isNan then (fmtOf ty).nan else x order[j])
              ∧ elem 32 (xs.getD 1 0) j = idx order[j]
          else elem w (xs.getD 0 0) j = 0 ∧ elem 32 (xs.getD 1 0) j = 0xFFFFFFFF)
      ∧ (∀ e, 64 ≤ e → e < 2048 / w → elem w (xs.getD 0 0) e = 0)
      ∧ fl = if order.any fun e => (tyVal ty (x e)).isSig then BitVec.ofNat 5 Fl.invalid else 0

/-- What the rules say of the result, in the mode m that applies. -/
def gatherSays (t : Thread) (m : Rm) (xs : List Vec) (fl : BitVec 5) : Instr → Prop
  | .vhist g d a b ty =>
    let f := fmtOf ty
    fl = 0 ∧ counted f.width (2048 / f.width) (t.preg g) (t.vreg d) (at0 xs) (t.sreg b).toInt fun e => f.val (elem f.width (t.vreg a) e)
  | .vhistMx g d a b mx =>
    fl = 0 ∧ counted 16 128 (t.preg g) (t.vreg d) (at0 xs) (t.sreg b).toInt fun e =>
      mxVal mx (elem 8 (t.vreg a) (248 + e / 32)) (elem (mxN mx) (t.vreg a) e)
  | .vpack g _ a mx ty _ k n => blocksSay mx (fmtOf ty) m t g a k n (at0 xs)
  | .vtopk g _ a b c ty => topkSays t g a b c ty xs fl
  | _ => False

end Sys2Proof.Machine
end

