-- ==== Sys2Proof/Safety/Memory.lean ====
section
/-! DEFINITION. The terms of the statements about producers and memory: what issuing a producer does (spec/02 R32-R34,
spec/05 R124), what loads, stores, FENCE and ATOM do (spec/08), and the future instructions (spec/02 R42-R46). -/

namespace Sys2Proof.Machine

/-! ### Issuing a producer -/

/-- Register i of the current thread is bound to a producer of a class, with an issue tag (R32-R34): the register is pending
with the tag's bits, a constant register stays as it is, and no other register of the thread changes; `fates` are its
outside-domain accesses that this instruction issued (R73). -/
structure Issued (s t : State) (i cls : Nat) (mask : BitVec 256) (len : Nat) (fates : List Fate) (tag : ITag) : Prop where
  producer : tag.core = s.cur / 8 ∧ tag.cls = cls
  bound : t.binds = s.binds ++ [{ tag := tag, entryCore := s.cur / 8, entry := tag.slot, mask := mask,
                                  loc := if isConst i then .sink s.cur else .reg s.cur i }]
  pending : isConst i = false → t.thr.rstate i = .pending (tagBits tag.epoch cls tag.slot)
  states : ∀ j < 144, j ≠ i ∨ isConst i = true → t.thr.rstate j = s.thr.rstate j
  pc : t.thr.pc = s.thr.pc + BitVec.ofNat 64 len
  count : t.thr.count.toNat = min (2 ^ 32 - 1) (s.thr.count.toNat + fates.length)
  unacked : t.thr.unacked = s.thr.unacked ++ fates
  thread : { t.thr with st := s.thr.st, pc := s.thr.pc, count := s.thr.count, unacked := s.thr.unacked } = s.thr
  threads : ∀ h, h ≠ s.cur → t.thread h = s.thread h

/-- The completion of the producer with a tag has set out (R32), after every completion under way. -/
def Answers (s t : State) (tag : ITag) (r : Result) : Prop := t.flying = s.flying ++ [{ tag := tag, ctx := s.ctx, res := r }]

/-- Outside the threads, the pending table, the completions under way and the leases of lines, nothing has changed. -/
def OnlyIssues (s t : State) : Prop :=
  { t with threads := s.threads, binds := s.binds, epochs := s.epochs, flying := s.flying, lines := s.lines } = s

/-- The same, with the timestamps, the package's logical time and the memories left to other clauses. -/
def OnlyStores (s t : State) : Prop :=
  { t with threads := s.threads, binds := s.binds, epochs := s.epochs, flying := s.flying, lines := s.lines,
           ltime := s.ltime, mem := s.mem, pool := s.pool, hostMem := s.hostMem, remoteMem := s.remoteMem } = s

/-- The command issues, its result sets out at once, and it does nothing else. -/
def Gets (i : Instr) (s : State) (d cls len : Nat) (r : Result) : Prop :=
  ∃ t tag, exec i s = .next t ∧ Issued s t d cls (BitVec.allOnes 256) len [] tag ∧ Answers s t tag r ∧ OnlyIssues s t

/-! ### Accesses -/

/-- No watchpoint (R378), no trail of the current thread's region (R365) and no soft-error mark (R415) takes part in what the
thread does, and no load or atomic of it that comes earlier waits on a held page (R62). -/
structure State.Quiet (s : State) : Prop where
  watches : s.watches = []
  trail : s.trailOf s.thr.pack = none
  marks : s.marks = []
  stalled : s.thr.stalled = false
  behind : s.behind = false

/-- A load or an atomic of the current thread that waits on a held page (R62). -/
def HeldAccess (s : State) (h : Held) : Prop := h.op.orders = true ∧ h.ctx.gtid = s.cur ∧ h.ctx.pack = s.thr.pack

/-- Stack logic would execute an atomic of the current thread at an address, now or once the page is no longer held (R57). -/
def State.InStack (s : State) (va : Word) : Prop :=
  inStack ((s.beyondHold (s.agentOf s.cur) va .rmw).getD (s.locate (s.agentOf s.cur) va .rmw)) = true

/-- n bytes of entries fit in a trail of which no page is held (R335, R375). -/
structure State.TrailRoom (s : State) (r : Region) (n : Nat) : Prop where
  area : 0 < r.area
  fits : s.trailFits r n = true
  pages : ∀ off < 4096 + r.area, s.locate (s.trailAgent r) (r.trailBase + BitVec.ofNat 64 off) .store ≠ .held
  hold : (s.trailUse r.owner).hold = none

/-- Nothing beside an access takes part in it: nor does a trail that a write could strike (R367), a phaser with a registration
that it could break (R208), or a copy of another module's line (R68). -/
structure State.Plain (s : State) : Prop extends s.Quiet where
  trails : s.trails = []
  phasers : s.phasers = []
  copies : s.fabCopies = []

/-- A producer into register i executes, and finds an entry of the pending table (R33). -/
structure State.Issuable (s : State) (g : Guard) (reads : List Nat) (i : Nat) : Prop where
  runs : s.Runs g reads [i]
  quiet : s.Quiet
  entry : s.mayBind s.cur = true

/-- Of the paths to a module the first in time has one hop (R393). -/
def State.OneHop (s : State) (m : Nat) : Prop :=
  ∃ d, s.hop s.portLive m = some d ∧ ∀ t, s.twoHop s.portLive m = some t → d ≤ t

/-- An agent reaches storage at an address, at a place: its translation needs no A or D update and is cached, and a page of
another module is reached in one hop (R332-R336, R393). -/
def State.ReachesFor (s : State) (ag : Agent) (va : Word) (need : Need) (p : Place) : Prop :=
  p.isStorage = true ∧ ∃ e, s.locate ag va need = .ok p e ∧ ∀ x, e = some x →
    s.tlb.contains x = true ∧ x.leaf ||| (if need.w then 0x60 else 0x20) = x.leaf
      ∧ (bits x.leaf 62 60 = 2 → s.OneHop (bits (s.creg (0x9100 + 8 * bits x.leaf 55 48)) 47 32))

/-- The current thread reaches storage at an address, at a place. -/
abbrev State.Reaches (s : State) (va : Word) (need : Need) (p : Place) : Prop := s.ReachesFor (s.agentOf s.cur) va need p

/-- A byte that its memory holds under a key of its own. -/
def Place.proper : Place → Prop
  | .dev _ => True
  | .pool _ _ o => o < 2 ^ 21
  | .host _ => True
  | .remote _ pa => pa < 2 ^ 48
  | .ctl _ => False

/-- n bytes of storage from a place on. -/
def Place.spans (p : Place) (n : Nat) : Prop := ∀ k < n, (p.add k).proper ∧ ∀ j < k, samePlace (p.add j) (p.add k) = false

/-! ### Loads (R184, R188, R192) -/

/-- A load: guard, registers read, those read beside where the guard does not activate every element of a layout, the
register that it binds, its length, the bytes that it writes, and its parts in order (R63). -/
structure LoadForm where
  g : Guard
  reads : List Nat
  merged : List Nat
  layout : Nat
  dest : Nat
  len : Nat
  mask : BitVec 256
  parts : List Part

/-- The value of a scalar load: its bytes, extended as the size says (R119). -/
def extended (sz : LdSz) (raw : Nat) : Word :=
  match sz with
  | .s8 => (BitVec.ofNat 8 raw).signExtend 64
  | .s16 => (BitVec.ofNat 16 raw).signExtend 64
  | .s32 => (BitVec.ofNat 32 raw).signExtend 64
  | .z8 => (BitVec.ofNat 8 raw).setWidth 64
  | .z16 => (BitVec.ofNat 16 raw).setWidth 64
  | .z32 => (BitVec.ofNat 32 raw).setWidth 64
  | .x64 => BitVec.ofNat 64 raw

/-- A scalar load of the bytes of a size at a base and an offset. -/
def LoadForm.scalar (t : Thread) (g : Guard) (d a : Reg6) (sz : LdSz) (off : Int) (len : Nat) : LoadForm :=
  { g := g, reads := [rs a], merged := [], layout := 64, dest := rs d, len := len, mask := BitVec.allOnes 256,
    parts := partsOf (t.sreg a + BitVec.ofInt 64 off) (loadBytes sz) }

/-- The scalar loads, with what becomes of the bytes that they read (R188, R190). -/
def scalarLoadOf (t : Thread) : Instr → Option (LoadForm × LdSz)
  | .ld g d a sz off => some (.scalar t g d a sz (off.toInt * loadBytes sz) 4, sz)
  | .ldx g d a sz _ _ imm => some (.scalar t g d a sz imm.toInt 8, sz)
  | _ => none

/-- The vector loads (R192): contiguous, strided and indexed. -/
def vectorLoadOf (t : Thread) : Instr → Option LoadForm
  | .vld g d a w off =>
    let mask := contiguousMask (widthBits w) (t.preg g)
    some { g := g, reads := [rs a], merged := [rv d], layout := widthBits w, dest := rv d, len := 4, mask := mask,
           parts := contiguousParts mask (t.sreg a + BitVec.ofInt 64 (off.toInt * 256)) }
  | .vlds g d a b w => some (slots g d a (rs b) w (strideAddr a b t))
  | .vgath g d a b w => some (slots g d a (rv b) w (indexAddr a b w t))
  | _ => none
where
  slots (g : Guard) (d a : Reg6) (src : Nat) (w : Width) (addr : Nat → Word) : LoadForm :=
    let es := slotElems (widthBits w) (t.preg g) addr
    { g := g, reads := [rs a, src], merged := [rv d], layout := guardWidth (widthBits w), dest := rv d, len := 4,
      mask := elemMask es ||| aboveNarrow (widthBits w), parts := elemParts es }

/-- The bytes of an image are those that the parts name, each at its place. -/
def Image (s : State) (parts : List Part) (place : Part → Place) (x : Vec) : Prop :=
  ∀ p ∈ parts, ∀ k < p.len, elem 8 x (p.pos + k) = (s.peek ((place p).add k)).toNat

/-- The load issues and its completion, with value v, sets out; it changes no byte. -/
def Loads (i : Instr) (l : LoadForm) (s : State) (holds : Vec → Prop) : Prop :=
  ∃ t tag v, exec i s = .next t ∧ Issued s t l.dest Cls.lsu l.mask l.len [] tag ∧ Answers s t tag (.full v) ∧ holds v
    ∧ OnlyIssues s t

/-- The operands of a load are ready, an entry of the pending table is to be had, and every part lies in storage. -/
structure LoadForm.Ready (l : LoadForm) (s : State) (place : Part → Place) : Prop where
  operands : s.Ready l.g l.reads [l.dest]
  merge : Full l.layout (s.thr.preg l.g) ∨ ∀ i ∈ l.merged, s.thr.rstate i = .full
  plain : s.Plain
  entry : s.mayBind s.cur = true
  parts : ∀ p ∈ l.parts, s.Reaches p.va .load (place p)

/-! ### Stores (R188, R192, R193) -/

/-- A store: guard, registers read, length, whether it is a release at SYS, the bytes of its data register, which of them it
writes, and its parts in order. -/
structure StoreForm where
  g : Guard
  reads : List Nat
  len : Nat
  release : Bool
  data : Vec
  mask : BitVec 256
  parts : List Part

/-- The scalar stores (R188, R190). -/
def scalarStoreOf (t : Thread) : Instr → Option StoreForm
  | .st g d a w off => some (form g d a w (off.toInt * (widthBits w / 8 : Nat)) 4 false)
  | .stx g d a w sc o imm => some (form g d a w imm.toInt 8 (decide (o = .rel ∧ sc = .sys)))
  | _ => none
where
  form (g : Guard) (d a : Reg6) (w : Width) (off : Int) (len : Nat) (rel : Bool) : StoreForm :=
    { g := g, reads := [rs a, rs d], len := len, release := rel, data := wide (t.sreg d), mask := BitVec.allOnes 256,
      parts := partsOf (t.sreg a + BitVec.ofInt 64 off) (widthBits w / 8) }

/-- The vector stores (R192, R193). -/
def vectorStoreOf (t : Thread) : Instr → Option StoreForm
  | .vst g d a w off =>
    let mask := contiguousMask (widthBits w) (t.preg g)
    some { g := g, reads := [rs a, rv d], len := 4, release := false, data := t.vreg d, mask := mask,
           parts := contiguousParts mask (t.sreg a + BitVec.ofInt 64 (off.toInt * 256)) }
  | .vsts g d a b w => some (slots g d a (rs b) w (strideAddr a b t))
  | .vscat g d a b w => some (slots g d a (rv b) w (indexAddr a b w t))
  | _ => none
where
  slots (g : Guard) (d a : Reg6) (src : Nat) (w : Width) (addr : Nat → Word) : StoreForm :=
    { g := g, reads := [rs a, src, rv d], len := 4, release := false, data := t.vreg d, mask := BitVec.allOnes 256,
      parts := elemParts (slotElems (widthBits w) (t.preg g) addr) }

/-- A byte that a store writes: byte k of a part, at its place. -/
def StoreForm.writes (m : StoreForm) (place : Part → Place) (p : Part) (k : Nat) (q : Place) : Prop :=
  k < p.len ∧ m.mask.getLsbD (p.pos + k) = true ∧ samePlace ((place p).add k) q = true

/-- Every part of a store lies in storage, and a release at SYS finds every earlier access acknowledged (R69). -/
structure StoreForm.Ready (m : StoreForm) (s : State) (place : Part → Place) : Prop where
  memory : s.wf
  plain : s.Plain
  release : m.release = true → s.thr.unacked = []
  parts : ∀ p ∈ m.parts, s.Reaches p.va .store (place p) ∧ (place p).spans p.len

/-- The store completes (R65, R69, R73, R193): each byte that no later part writes again holds its data, every other byte of
storage keeps its value, and its parts outside the SC domain are counted. -/
def Stores (i : Instr) (m : StoreForm) (s : State) (place : Part → Place) : Prop :=
  ∃ t, exec i s = .next t
    ∧ (∀ l p r k, m.parts = l ++ p :: r → k < p.len → m.mask.getLsbD (p.pos + k) = true →
        (∀ q ∈ r, ∀ j, ¬m.writes place q j ((place p).add k)) →
        (t.peek ((place p).add k)).toNat = elem 8 m.data (p.pos + k))
    ∧ (∀ q : Place, q.proper → (∀ p ∈ m.parts, ∀ k, ¬m.writes place p k q) → t.peek q = s.peek q)
    ∧ t.thr.pc = s.thr.pc + BitVec.ofNat 64 m.len
    ∧ t.thr.count.toNat = min (2 ^ 32 - 1) (s.thr.count.toNat + m.parts.countP fun p => !(place p).sc)
    ∧ t.thr.unacked = s.thr.unacked ++ List.replicate (m.parts.countP fun p => !(place p).sc) .done
    ∧ { t.thr with pc := s.thr.pc, count := s.thr.count, unacked := s.thr.unacked } = s.thr
    ∧ (∀ h, h ≠ s.cur → t.thread h = s.thread h)
    ∧ t.binds = s.binds ∧ t.epochs = s.epochs ∧ t.flying = s.flying ∧ OnlyStores s t ∧ t.wf

/-! ### Atomics (R196, R197) -/

/-- What an atomic leaves at its location, from the old value, its operand and the value compared with; none where it writes
nothing. -/
def atomLeaves (op : AOp) (aw : AWidth) (old x cmp : Nat) : Option Nat :=
  let n := 8 * atomBytes aw
  let a := BitVec.ofNat n old
  let b := BitVec.ofNat n x
  match op, aw with
  | .add, .f32 => some (fp32.add .rne old x).1
  | .add, .bf16 => some (bf16.add .rne old x).1
  | .add, _ => some (a + b).toNat
  | .and, _ => some (a &&& b).toNat
  | .or, _ => some (a ||| b).toNat
  | .xor, _ => some (a ^^^ b).toNat
  | .mins, _ => some (if b.slt a then b else a).toNat
  | .minu, _ => some (if b.ult a then b else a).toNat
  | .maxs, _ => some (if a.slt b then b else a).toNat
  | .maxu, _ => some (if a.ult b then b else a).toNat
  | .swap, _ => some b.toNat
  | .cas, _ => if old = cmp then some b.toNat else none

/-- The n bytes of a place hold a number, least significant first. -/
def Holds (s : State) (p : Place) (n x : Nat) : Prop := ∀ k < n, (s.peek (p.add k)).toNat = x / 2 ^ (8 * k) % 256

/-! ### Future control (R42-R46) -/

/-- Register number of a class and a 6-bit field (R114). -/
def registerOf (cl : RClass) (r : Reg6) : Nat :=
  match cl with
  | .s => r.toNat
  | .v => 64 + r.toNat
  | .p => 128 + r.toNat % 16

/-- The result of the future instructions that write registers of their thread and nothing else. -/
def futureOf (t : Thread) : Instr → Option Effect
  | .ftst g pd a cl set =>
    some (.pair g [] pd (match t.rstate (registerOf cl a) with
      | .full => set.getLsbD 0
      | .pending _ => set.getLsbD 1
      | .poisoned _ => set.getLsbD 2) 4)
  | .fwait g a cl => some { g := g, reads := [registerOf cl a], outs := [], len := 4 }
  | _ => none

/-- The current thread changed the state of one register and moved on; nothing else changed. -/
structure OnlyState (s t : State) (i : Nat) (x : RegState) (len : Nat) : Prop where
  state : t.thr.rstate i = x
  kept : ∀ j < 144, j ≠ i → t.thr.rstate j = s.thr.rstate j
  pc : t.thr.pc = s.thr.pc + BitVec.ofNat 64 len
  thread : { t.thr with st := s.thr.st, pc := s.thr.pc } = s.thr
  threads : ∀ h, h ≠ s.cur → t.thread h = s.thread h
  machine : { t with threads := s.threads } = s

end Sys2Proof.Machine
end

