-- ==== Sys2Proof/Safety/Sync.lean ====
section
/-! DEFINITION. The terms of the statements about phasers, waits, the sequence unit and PROBE (spec/04 R104, R105, spec/08
R199-R210, spec/09 R231-R233). -/

namespace Sys2Proof.Machine

/-! ### Phasers (R201-R208) -/

/-- A phaser form of the current thread executes on the phaser at an address that it reaches in the SC domain. -/
structure State.AtPhaser (s : State) (g : Guard) (reads : List Nat) (va : Word) (p : Place) : Prop where
  runs : s.Runs g reads []
  quiet : s.Quiet
  memory : s.wf
  aligned : va.toNat % 32 = 0
  reaches : s.Reaches va .rmw p
  sc : p.sc = true
  spans : p.spans 32

/-- The phaser with the counts of R204 after a registration's role becomes (sig, wait): a signaller that leaves takes its
arrival for the current phase with it. -/
def withRole (x : Ph) (r : Registration) (sig wait : Bool) : Ph :=
  { x with
    nsig := if sig && !r.sig then x.nsig + 1 else if !sig && r.sig then x.nsig - 1 else x.nsig
    nwait := if wait && !r.wait then x.nwait + 1 else if !wait && r.wait then x.nwait - 1 else x.nwait
    narr := if (!sig && r.sig) = true ∧ r.arrived = x.phase then x.narr - 1 else x.narr }

/-- The flip condition of R202. -/
def flipsNow (x : Ph) : Prop :=
  x.broken = false ∧ (0 < x.nsig.toNat ∨ 0 < x.expb) ∧ x.nsig.toNat ≤ x.narr.toNat ∧ (x.expb ≤ x.arrb ∨ x.fault = true)

/-- The phaser after a flip (R202). -/
def flipped (x : Ph) : Ph := { x with phase := x.phase + 1, lfault := x.fault, fault := false, narr := 0, arrb := 0 }

/-- A phaser form that does not flip the phaser left it as y and the thread with registrations `regs`, and wrote no other
byte. -/
structure PhaserLeft (s t : State) (p : Place) (y : Ph) (regs : List Registration) (len : Nat) : Prop where
  phaser : t.ph p = y
  others : ∀ q : Place, q.proper → (∀ k < 32, samePlace (p.add k) q = false) → t.peek q = s.peek q
  thread : t.thr = { s.thr with regs := regs, pc := s.thr.pc + BitVec.ofNat 64 len }
  threads : ∀ h, h ≠ s.cur → t.thread h = s.thread h
  waits : t.phWaits = s.phWaits
  flying : t.flying = s.flying
  binds : t.binds = s.binds
  memory : t.wf

/-- The registrations of a thread but the one with an address. -/
def otherRegs (t : Thread) (va : Word) : List Registration := t.regs.filter fun r => r.va ≠ va

/-- The thread holds one registration with the phaser at an address, and it is r. -/
def Registered (t : Thread) (va : Word) (r : Registration) : Prop := t.reg? va = some r ∧ r.va = va

/-- The registrations with r in place of the one of its address. -/
def replaced (t : Thread) (r : Registration) : List Registration := t.regs.map fun q => if q.va = r.va then r else q

/-- PH.WAIT's completion word (R206): the phase above the number of phases since the token. -/
def phaseWord (phase : BitVec 32) (token : Nat) : Vec :=
  wide (BitVec.ofNat 64 ((phase.toNat + 2 ^ 32 - token) % 2 ^ 32 * 2 ^ 32 + phase.toNat))

/-! ### Semaphores (R209, R288) -/

/-- The condition of a SEM.WAIT. -/
def semHolds (c : SCond) (w y : Word) : Prop :=
  match c with
  | .eq => w = y
  | .ne => w ≠ y
  | .geu => y.toNat ≤ w.toNat
  | .ges => y.toInt ≤ w.toInt
  | .ltu => w.toNat < y.toNat
  | .maskAll => w &&& y = y
  | .maskAny => w &&& y ≠ 0

/-! ### Points (R104, R105) -/

/-- Point i before scrambling, of direction words v: the words of the one bits of the Gray code of i, combined by xor. -/
def point (v : Nat → BitVec 32) (i : BitVec 32) : BitVec 32 :=
  (List.range 32).foldl (fun y k => if (i ^^^ (i >>> 1)).getLsbD k then y ^^^ v k else y) 0

/-- What SCRAMBLE makes of a point of dimension d under a key (R105). -/
def Scrambled (mode key : Word) (d : Nat) (y z : BitVec 32) : Prop :=
  if mode.extractLsb' 0 2 = 1 then z = y ^^^ (hash key (0x4000000000000000 + BitVec.ofNat 64 d)).extractLsb' 0 32
  else if mode.extractLsb' 0 2 = 2 then
    ∀ j < 32, z.getLsbD j = (y.getLsbD j !=
      (hash (hash key (0x8000000000000000 + BitVec.ofNat 64 d))
        (BitVec.ofNat 64 (j * 2 ^ 32) ||| y.setWidth 64 >>> (j + 1))).getLsbD 0)
  else z = y

/-- The address of dimension d of the table that SEQDESC names. -/
def dimAddr (t : Thread) (d : Nat) : Word := (t.seqdesc.extractLsb' 7 45 ++ 0#7).setWidth 64 + BitVec.ofNat 64 (128 * d)

/-- Word k of a line of direction words. -/
def lineWord (s : State) (p : Place) (k : Nat) : Nat := s.peekNat (p.add (4 * k)) 4

/-! ### PROBE (R200) -/

/-- The pages from lo to hi, k of them, all walk with the needs of the access; none is held. -/
inductive PagesPass (s : State) (asid : BitVec 16) (need : Need) (hi : Nat) : Nat → Nat → Prop where
  | done {lo : Nat} : hi ≤ lo → PagesPass s asid need hi lo 0
  | page {lo k : Nat} (e : TlbEntry) : lo < hi → s.walk asid lo need = .leaf e → bits e.leaf 7 7 = 0 →
      PagesPass s asid need hi ((lo / 2 ^ e.size + 1) * 2 ^ e.size) k → PagesPass s asid need hi lo (k + 1)

end Sys2Proof.Machine
end

