-- ==== Sys2Proof/Safety/Engines.lean ====
section
/-! DEFINITION. The terms of the statements about copy engines, rings, collective walkers and stream sequencers (spec/09,
spec/10, spec/13, spec/14). -/

namespace Sys2Proof.Machine

/-! ### Copies (R212-R223) -/

/-- The copy commands: guard, destination, operands. -/
def copyOf : Instr → Option (Guard × Reg6 × CpArgs)
  | .cpCopy g d a b c ord bar hist ring hty eng =>
    some (g, d, ⟨.copy, a, b, c, ord, bar, hist, ring, hty, .f32, .f32, .rne, eng⟩)
  | .cpFill g d a b c ord bar ring eng => some (g, d, ⟨.fill, a, b, c, ord, bar, false, ring, .f32, .f32, .f32, .rne, eng⟩)
  | .cpCvt g d a b c ord bar hist ring dty sty rm eng =>
    some (g, d, ⟨.cvt, a, b, c, ord, bar, hist, ring, .f32, dty, sty, rm, eng⟩)
  | .cpStride g d a b c ord bar hist hty eng =>
    some (g, d, ⟨.stride, a, b, c, ord, bar, hist, false, hty, .f32, .f32, .rne, eng⟩)
  | _ => none

/-- The registers that a copy command reads (R212, R216). -/
def copyReads (x : CpArgs) : List Nat :=
  [rs x.a, rs x.b, rs x.c] ++ (if x.bar then [rs (x.c + 1)] else []) ++ (if x.hist then [rs (x.c + 2)] else [])
    ++ (if x.op = .stride ∨ x.rm = .sr then [rs (x.c + 3)] else []) ++ (if x.rm = .sr then [rs (x.c + 4)] else [])

/-- What an accepted command keeps of its operands (R212, R216, R217). -/
structure Captured (c : Copy) (x : CpArgs) (t : Thread) (m : Rm) (tag : ITag) (ctx : Ctx) : Prop where
  issuer : c.tag = tag ∧ c.ctx = ctx
  kind : c.op = x.op ∧ c.ord = x.ord ∧ c.bar = x.bar ∧ c.hist = x.hist ∧ c.engine = ctx.gtid / 1024 * 8 + x.eng.toNat
  addresses : c.dst = t.sreg x.a ∧ c.src = t.sreg x.b
  entry : c.q = (t.sreg x.a).toNat / 2 ^ 32
  bytes : (x.op = .copy ∨ x.op = .fill) → c.rowBytes = (t.sreg x.c).toNat ∧ c.rows = 1
  rows : x.op = .stride → c.rowBytes = (t.sreg x.c).toNat % 2 ^ 32 ∧ c.rows = (t.sreg x.c).toNat / 2 ^ 32
    ∧ c.dpitch = (t.sreg (x.c + 3)).toNat / 2 ^ 32
    ∧ c.spitch = ((t.sreg (x.c + 3)).setWidth 32).toInt
  elements : x.op = .cvt → c.rowBytes = (t.sreg x.c).toNat * (tyBits x.dty / 8) ∧ c.rows = 1 ∧ c.dty = x.dty ∧ c.sty = x.sty
  phaser : x.bar = true → c.phaser = t.sreg (x.c + 1)
  histogram : x.hist = true → c.haddr = ((t.sreg (x.c + 2)).extractLsb' 0 52).setWidth 64
    ∧ c.hbase = ((t.sreg (x.c + 2)).extractLsb' 52 12).toInt ∧ c.hty = if x.op = .cvt then x.sty else x.hty
  rounding : c.rm = m ∧ (x.rm = .sr → c.key = t.sreg (x.c + 3) ∧ c.ctr = t.sreg (x.c + 4))
  fresh : c.stage = .order ∧ c.refused = false ∧ c.fenced = false ∧ c.done = 0 ∧ c.err = none ∧ c.flags = 0 ∧ c.hold = none
    ∧ c.stale = false ∧ c.ring = none

/-- Outside the commands in the engines, a copy command changes what a producer changes. -/
def OnlyCopies (s t : State) : Prop :=
  { t with threads := s.threads, binds := s.binds, epochs := s.epochs, flying := s.flying, lines := s.lines,
           copies := s.copies, nextTicket := s.nextTicket } = s

/-- The ring that a reference names for the current thread: a ring of a core that holds its launch (R226). -/
structure RingNamed (s : State) (ref : Word) (key : Nat) : Prop where
  reserved : ref.toNat % 2 ^ 32 / 2 ^ 11 = 0
  number : key = (s.cur / 1024 * 128 + ref.toNat / 16 % 128) * 16 + ref.toNat % 16
  launch : (s.core (key / 16)).pack.map (· / 2 ^ 24) = some (s.thr.pack / 2 ^ 24)

/-- The phaser of a BAR action has an address that R219 allows. -/
def PhaserAllowed (s : State) (va : Word) : Prop := va.toNat % 32 = 0 ∧ s.liesSc s.ctx.agent va = true

/-- The cases in which R219, R226 and R227 refuse a command whose operands are captured in c. -/
def CopyRefused (s : State) (c : Copy) (x : CpArgs) : Prop :=
  let d := tyBits (if x.op = .cvt then x.dty else x.hty) / 8
  let e := tyBits (if x.op = .cvt then x.sty else x.hty) / 8
  (∀ r, s.regionOf s.thr.pack = some r → r.cemask.testBit x.eng.toNat = false)
    ∨ 2 ^ 36 < c.rowBytes * c.rows
    ∨ (x.op = .stride ∧ c.dpitch < c.rowBytes ∧ 1 < c.rows)
    ∨ ((x.op = .cvt ∨ x.hist = true) ∧
        ((x.ring = false ∧ c.dst.toNat % d ≠ 0) ∨ c.src.toNat % e ≠ 0 ∨ c.rowBytes % d ≠ 0))
    ∨ (x.op = .stride ∧ x.hist = true ∧ (c.dpitch % e ≠ 0 ∨ c.spitch % e ≠ 0))
    ∨ (x.bar = true ∧ ¬PhaserAllowed s c.phaser)
    ∨ (x.hist = true ∧ (c.haddr.toNat % 256 ≠ 0 ∨ s.liesSc s.ctx.agent c.haddr = false))
    ∨ (x.ring = true ∧ ∀ key, RingNamed s c.dst key → (s.ring key).reset = false ∨ (s.ring key).eb < c.rowBytes * c.rows
        ∨ 2 ^ 31 ≤ (BitVec.ofNat 32 c.q - (s.ring key).free).toNat)

/-- Nothing beside the accesses of a command's pack takes part in them. -/
structure State.PlainFor (s : State) (pack : Nat) : Prop where
  trail : s.trailOf pack = none
  trails : s.trails = []
  phasers : s.phasers = []
  marks : s.marks = []
  memory : s.wf

/-- No completion under way has a record to write first or ends a wait, which a BAR action delivers first (R307). -/
def State.Recorded (s : State) : Prop :=
  ∀ f ∈ s.flying, f.tag.cls ≠ Cls.phaser ∧ ∀ code addr info reason, f.res ≠ .poison code addr info reason

/-- The copy command whose turn it is: its engine may access now, and no other has its number. -/
structure CopyTurn (s : State) (j : Nat) (c : Copy) : Prop where
  event : s.ev = some (.chunk j)
  command : s.copies[j]? = some c
  alone : ∀ k x, s.copies[k]? = some x → x.id = c.id → k = j
  free : c.hold = none ∧ c.ring = none
  present : c.needsPack = false ∨ s.packOut c.ctx.pack = false

/-- A RING command whose turn it is: its ring is there and holds no soft error, and its pack is present. -/
structure RingTurn (s : State) (j : Nat) (c : Copy) (key : Nat) : Prop where
  event : s.ev = some (.chunk j)
  command : s.copies[j]? = some c
  alone : ∀ k x, s.copies[k]? = some x → x.id = c.id → k = j
  free : c.hold = none ∧ c.ring = some key ∧ c.stale = false
  present : s.packOut c.ctx.pack = false ∧ s.ringAway key = false
  clean : ∀ n, Mark.ring key n ∉ s.marks

/-- The phaser of an engine's command lies at a place: in the pool of the pack that holds it (R364), else where its address
leads. -/
def State.PhaserAt (s : State) (ag : Agent) (own : Option (Nat × Nat)) (va : Word) (p : Place) : Prop :=
  s.phaserPlace ag own va = .ok p none ∨ ((own.bind fun x => s.pack? x.1) = none ∧ s.ReachesFor ag va .rmw p)

/-- The bins after m elements from a place on are counted (R222). -/
def Binned (s : State) (c : Copy) (q : Place) (m : Nat) (bins : List Nat) : Prop :=
  let w := tyBits c.hty / 8
  bins.length = 64 ∧ ∀ b < 64, bins.getD b 0 = c.bins.getD b 0
    + (List.range m).countP fun k => decide (hbin (tyVal c.hty (s.peekNat (q.add (w * k)) w)) c.hbase = b)

/-- The address of a command's next destination byte, and how many bytes its next access writes (R218). -/
def Copy.nextDest (c : Copy) : Word := c.dst + BitVec.ofNat 64 (c.done / c.rowBytes * c.dpitch + c.done % c.rowBytes)

/-- The next access ends with its row and at the next multiple of 4,096. -/
def Copy.nextBytes (c : Copy) : Nat := min (c.rowBytes - c.done % c.rowBytes) (4096 - c.nextDest.toNat % 4096)

/-- The address of the source bytes of the next access. -/
def Copy.nextSource (c : Copy) : Word := c.src + BitVec.ofInt 64 ((c.done / c.rowBytes : Nat) * c.spitch + (c.done % c.rowBytes : Nat))

/-! ### Rings (R225-R230) -/

/-- A ring that has been reset: at most 2^12 entries, of which FILL − FREE are held, and no RING.WAIT waits on it. -/
structure RingIdle (s : State) (key : Nat) : Prop where
  reset : (s.ring key).reset = true
  size : (s.ring key).log2n ≤ 12
  held : ((s.ring key).fill - (s.ring key).free).toNat ≤ 2 ^ (s.ring key).log2n
  waits : ∀ w ∈ s.ringWaits, w.ring ≠ key

/-- The advance step of R225: FILL moves over marked entries as far as it can. -/
def Advanced (r : Ring) (fill : BitVec 32) : Prop :=
  ∃ k, r.fill = fill + BitVec.ofNat 32 k
    ∧ (∀ j < k, r.mark (fill.toNat + j) ≠ 0 ∧ (fill + BitVec.ofNat 32 j - r.free).toNat < 2 ^ r.log2n)
    ∧ (r.mark r.fill.toNat = 0 ∨ 2 ^ r.log2n ≤ (r.fill - r.free).toNat)

/-- Every ring but one is as it was. -/
def OtherRings (s t : State) (key : Nat) : Prop := ∀ k, k ≠ key → t.ring k = s.ring k

/-- A ring keeps its geometry. -/
def SameGeometry (r r' : Ring) : Prop :=
  r'.base = r.base ∧ r'.asid = r.asid ∧ r'.log2n = r.log2n ∧ r'.eb = r.eb ∧ r'.reset = r.reset

/-- Outside the rings, a ring command changes what a producer changes. -/
def OnlyRings (s t : State) : Prop :=
  { t with threads := s.threads, binds := s.binds, epochs := s.epochs, flying := s.flying, lines := s.lines,
           rings := s.rings } = s

/-! ### Collectives (R234-R237, R291-R296) -/

/-- The key of the handle that a register names on the current thread's die. -/
def handleKey (s : State) (h : Nat) : Nat := 16 * dieOf (s.cur / 8) + h

/-- The run on a handle. -/
def State.runOn (s : State) (key : Nat) : Option CollRun := (s.coll? key).bind (·.run)

/-- Bytes of storage from a place on. -/
def BytesAt (s : State) (p : Place) (bs : List Byte) : Prop := ∀ k (h : k < bs.length), s.peek (p.add k) = bs[k]

/-- The 256 bytes of a record that a COLL.ARM of the current thread reads: in device memory, 256-aligned (R234). -/
structure RecordAtArm (s : State) (addr : Word) (p : Nat) (bs : List Byte) : Prop where
  aligned : addr.toNat % 256 = 0
  reaches : s.ReachesFor s.ctx.walker addr .load (.dev p)
  bytes : bs.length = 256 ∧ BytesAt s (.dev p) bs

/-- What R234 and R295 ask of a record's addresses: SBASE does not lie outside the SC domain, and under BAR the phaser is
aligned and lies in it. -/
def RecordAllowed (s : State) (r : CollRec) : Prop :=
  (s.beyond s.ctx.walker r.sbase).outside = false
    ∧ (r.bar = true → r.phaser.toNat % 32 = 0 ∧ s.liesSc s.ctx.walker r.phaser = true)

/-- A GROUP is armed on the current thread's die. -/
def GroupArmed (s : State) (group : Nat) : Prop := ∃ x ∈ s.colls, x.1 / 16 = dieOf (s.cur / 8) ∧ x.2.cr.group = group

/-- A run has ended aborted, or is being ended so (R237). -/
def RunAborted (t : State) (key : Nat) : Prop := ∀ r, t.runOn key = some r → r.stage = .finish ∧ r.aborted = true

/-- A run that has not ended. -/
def RunOpen (s : State) (key : Nat) : Prop := ∃ r, s.runOn key = some r ∧ r.stage ≠ .finish

/-- Two packets of notices name one GROUP and GEN and come from one die. -/
def sameSender (x y : NoticePkt) : Prop := x.group = y.group ∧ x.gen = y.gen ∧ x.module = y.module ∧ x.die = y.die

/-- A packet sent at a NOW is older than 40 µs (R395). -/
def tooOld (s : State) (sent : Nat) : Prop := 40000 * Config.ns < s.now.toNat - sent

/-! ### Streams (R242-R273) -/

/-- The sequencer whose turn it is runs a program. -/
def Running (s : State) (q : Nat) (x : Seqr) (c : SCmd) : Prop := s.curq = q ∧ s.seqr q = x ∧ x.cmd = some c

/-- The configuration after a word that sets it or moves the micro-PC (R246, R247, R260), in a program started with REF or
not. -/
def confAfter (c : SConf) (ref : Bool) : Instr → Option SConf
  | .sJmp t => some { c with upc := t.toNat }
  | .sLoop l t =>
    some (if c.lc.getD l.toNat 0 = 0 then { c with upc := c.upc + 1 }
      else { c with lc := c.lc.set l.toNat (c.lc.getD l.toNat 0 - 1), upc := t.toNat })
  | .sSetlc l imm => some { c with lc := c.lc.set l.toNat imm.toNat, upc := c.upc + 1 }
  | .sBrz l t => some { c with upc := if c.lc.getD l.toNat 0 = 0 then t.toNat else c.upc + 1 }
  | .sWin w => if 2 ≤ w.toNat ∧ w.toNat ≤ 128 then some { c with wd := w.toNat, upc := c.upc + 1 } else none
  | .sGain g => if 8 ≤ g.toNat ∧ g.toNat ≤ 26 then some { c with g := g.toNat, upc := c.upc + 1 } else none
  | .sFmt f => if f.toNat < 3 then some { c with fmt := f.toNat, upc := c.upc + 1 } else none
  | .sFmtA f => some { c with fmta := f.toNat, upc := c.upc + 1 }
  | .sScl m x =>
    if m = 1 ∧ x.toNat = 0xFF then none else some { c with scm := m.toNat, scx := x.toNat, upc := c.upc + 1 }
  | .sMode f => some { c with mode := ref || f == 1, upc := c.upc + 1 }
  | .sAcc n => some { c with acc := n.toNat, upc := c.upc + 1 }
  | _ => none

/-- The words whose value R247 can refuse. -/
def mayRefuse : Instr → Bool
  | .sWin _ | .sGain _ | .sFmt _ | .sScl _ _ => true
  | _ => false

/-- Sequencer q has new contents; nothing else has changed. -/
def OnlySeqr (s t : State) (q : Nat) (y : Seqr) : Prop :=
  t.seqr q = y ∧ (∀ k, k ≠ q → t.seqr k = s.seqr k) ∧ { t with seqrs := s.seqrs } = s

/-- Every window of a sequencer's program has been accumulated (R246, R247). -/
def Seqr.Accumulated (x : Seqr) : Prop := x.busy = none ∧ x.closed = []

/-- The program of sequencer q ends with a result: at once, where no window waits for its accumulation, and the next one in line
is its program; else once the windows that are over have been accumulated (R261). -/
structure ProgramEnds (s t : State) (q : Nat) (x : Seqr) (c : SCmd) (r : Result) : Prop where
  future : x.closed = [] → t.flying = s.flying ++ [{ tag := c.tag, ctx := c.ctx, res := r }]
  next : x.closed = [] → (t.seqr q).cmd = x.line.head? ∧ (t.seqr q).line = x.line.tail
  waits : x.closed ≠ [] → t.flying = s.flying ∧ (t.seqr q).cmd = x.cmd ∧ (t.seqr q).line = x.line
    ∧ (t.seqr q).closed = x.closed ∧ (t.seqr q).ending = some (x.ending.getD r)
  idle : (t.seqr q).run = none ∧ (t.seqr q).busy = none
  others : ∀ k, k ≠ q → t.seqr k = s.seqr k

/-- The fields of the completion word of a program (R273); a transmitter reports zero for those of the receivers. -/
structure CompletionWord (x : Seqr) (tx : Bool) (w : Nat) : Prop where
  frames : w / 2 ^ 40 = min x.sdone.frames 0xFFFFFF
  flags : w / 2 ^ 32 % 2 ^ 8 = if tx then 0 else x.sdone.flags.toNat
  degr : w.testBit 31 = x.sdone.degr
  sat : w.testBit 30 = (x.sdone.sat && !tx)
  promo : w.testBit 29 = (x.sdone.promo && !tx)
  flush : w.testBit 28 = x.sdone.flush
  nansc : w.testBit 27 = x.sdone.nansc
  skew : w.testBit 26 = (x.sdone.skew && !tx)
  refall : w.testBit 25 = (x.sdone.anyRun && x.sdone.allRef && !tx)
  drains : w / 2 ^ 16 % 2 ^ 8 = if tx then 0 else min x.sdone.drains 0xFF
  upc : w % 2 ^ 16 = x.conf.upc % 2 ^ 16

/-- The words that wait until every window of the program has been accumulated (R246, R247). -/
def waitsForWindows : Instr → Bool
  | .sRing _ _ _ | .sSelb _ | .sAclr _ | .sDrain _ _ _ _ _ | .sEnd => true
  | _ => false

/-- A sequencer past the word that it has executed. -/
def Seqr.past (x : Seqr) : Seqr := { x with conf := { x.conf with upc := x.conf.upc + 1 } }

/-- The ring that a RING word names, which R248 allows. -/
structure RingBindable (s : State) (c : SCmd) (core : BitVec 7) (ring : BitVec 4) (key : Nat) : Prop where
  number : key = (c.ctx.gtid / 1024 * 128 + core.toNat) * 16 + ring.toNat
  launch : (s.core (key / 16)).pack.map (· / 2 ^ 24) = some (c.ctx.pack / 2 ^ 24)
  reset : (s.ring key).reset = true

/-- The bytes of an entry that a RUN needs (R249): the elements of 64 or 128 lines, and their scales unless they are
constant. -/
def entryNeeds (tx : Bool) (c : SConf) : Nat :=
  let n := (if c.fmt = 0 then 8 else if c.fmt = 1 then 6 else 4)
  let lines := if tx then 64 else 128
  lines * n * (8 * c.wd) + if c.scm = 1 then 0 else lines * (2 * c.wd)

/-- A RUN may wait for a frame (R249, R254, R260): its entry is large enough, and a tile is registered, in REFMODE with a
local bus; its entry is not poisoned, and one that is filled translates. -/
structure RunAllowed (s : State) (q : Nat) (x : Seqr) (key : Nat) : Prop where
  ring : x.inr = some key
  entry : entryNeeds (decide (32 ≤ q)) x.conf ≤ (s.ring key).eb
  tile : q < 32 → ∃ sel, x.sel = some sel ∧ (4 ≤ sel → x.conf.mode = false)
  bus : ∀ b, (q = 32 + b ∨ (q < 32 ∧ b < 4 ∧ x.sel = some b)) → (s.bus b).lost = false ∧ (s.bus b).off = false
  late : x.late = []
  clean : ∀ n, Mark.ring key n ∉ s.marks
  mark : (s.ring key).mark x.cursor.toNat = 0 ∨ ((s.ring key).mark x.cursor.toNat = 1
    ∧ s.paged (x.agent q) .load ((s.ring key).entry x.cursor.toNat) (entryNeeds (decide (32 ≤ q)) x.conf) = .ok)

/-- The encoding that a DRAIN writes for element e of a set (R270): an exact copy of an FP32 element, or its rounding to BF16
or FP16, under SR with the bits of R95. -/
def drained (ty : Nat) (m : Rm) (x : Seqr) (e : Nat) (acc : BitVec 32) : Nat :=
  if ty = 0 then acc.toNat
  else ((if ty = 1 then bf16 else fp16).round m
    ((hash x.par.srkey (x.par.srctr + BitVec.ofNat 64 (8192 * x.dcnt.toNat + e))).toNat % 2 ^ 32) (fp32.val acc.toNat).exact).1

/-- The bytes of an element that a DRAIN writes. -/
def drainBytes (ty : Nat) : Nat := if ty = 0 then 4 else 2

/-- Element i of a set of a tile. -/
def State.accAt (s : State) (tile set i : Nat) : BitVec 32 := tget 0 s.accs ((4 * tile + set) * 8192 + i)

/-- A DRAIN of sequencer q can write the row under way: its operands are in order, nothing failed before, and nothing beside
its accesses takes part. -/
structure DrainRow (s : State) (q : Nat) (x : Seqr) (c : SCmd) (bar : BitVec 1) (rm ty : BitVec 3) : Prop where
  runs : Running s q x c
  tile : q < 32
  operands : ty.toNat ≤ 2 ∧ rm ≠ 7
  windows : x.Accumulated
  good : x.drainErr = none
  plain : s.PlainFor c.ctx.pack
  first : x.row = 0 → s.rowsOutside q x (128 * drainBytes ty.toNat) = false
    ∧ (bar = 1 → x.par.phaser.toNat % 32 = 0 ∧ s.liesSc (x.agent q) x.par.phaser = true)

/-- A tile command names a tile of the current thread's pack. -/
def State.hasTile (s : State) (tile : Nat) : Prop := ∃ p, s.pack? s.thr.pack = some p ∧ tile ∈ p.tiles

/-- A bus of the current thread's pack. -/
def State.hasBus (s : State) (bus : Nat) : Prop := ∃ p, s.pack? s.thr.pack = some p ∧ bus ∈ p.buses

/-- A stream program's address that R239 allows: a multiple of 8 in device memory, whether or not its page is held. -/
def ProgramAllowed (s : State) (va : Word) : Prop :=
  va.toNat % 8 = 0 ∧ va.toNat / 2 ^ 40 % 2 ^ 12 ≠ 0xFFF ∧ ∃ pa e, s.beyond s.ctx.agent va = .ok (.dev pa) e

/-- The session of a selector can be joined by a tile of the current thread (R240, R250). -/
def SessionOpen (s : State) (sel : Nat) : Prop :=
  if sel < 4 then (s.bus sel).lost = false ∧ (s.bus sel).off = false
    ∧ ∃ p ∈ s.packs, p.key / 2 ^ 24 = s.thr.pack / 2 ^ 24 ∧ p.out = none ∧ sel ∈ p.buses
  else s.cfield (0x90A0 + 8 * (sel - 4)) 63 62 = 3

/-- A boundary of a local bus at which no line is low or has been, no margin is reported, no comb has failed, no tile joins and no
pack is being killed. -/
structure QuietBoundary (s : State) (b : Nat) : Prop where
  event : s.ev = some (.frameBoundary b 0 0 [])
  local_ : b < 4
  on : s.cfield 0x20 0 0 = 1 ∧ (s.bus b).lost = false ∧ (s.bus b).off = false ∧ (s.bus b).fails = none
  lines : ∀ d ∈ s.deadLines, d.1 ≠ (s.bus b).comb
  joins : ∀ q, (s.seqr q).join = none
  alive : ∀ p ∈ s.packs, p.killing = false

/-- A tile waits, ready for a frame of its local bus, on an entry that lies in one page (R252). -/
structure TileWaits (s : State) (u : Nat) (y : Seqr) (w : Window) (key : Nat) (p : Place) : Prop where
  runs : s.seqr u = y ∧ y.run = some w ∧ y.goes = true ∧ y.stop = false ∧ y.leaving = false ∧ y.again = false
  free : y.busy = none ∧ y.closed = [] ∧ s.statusRoom y 0 = true
  entry : y.inr = some key ∧ (s.ring key).mark y.inq.toNat = 1 ∧ 2 ^ 31 ≤ (y.inq - (s.ring key).fill).toNat
  page : ((s.ring key).entry y.inq.toNat).toNat % 4096 + entryNeeds false w.conf ≤ 4096 ∧ 0 < entryNeeds false w.conf
  reaches : s.ReachesFor (y.agent u) ((s.ring key).entry y.inq.toNat) .load p

/-! ### Window arithmetic (R255-R259) -/

/-- A code is the integer nearest to d × 2^-n, and the even one of two. -/
def Nearest (c : Int) (d : Int) (n : Nat) : Prop :=
  2 * (c * 2 ^ n - d).natAbs ≤ 2 ^ n ∧ (2 * (c * 2 ^ n - d).natAbs = 2 ^ n → c % 2 = 0)

/-- The REFMODE code of the sum d × 2^-14 at gain g, and its exponent G or G + 6 (R257). -/
def RefCodeIs (g : Nat) (d : Int) (c : Int) (gp : Nat) : Prop :=
  ∃ f : Int, Nearest f d (g + 3) ∧
    if f.natAbs ≤ 2047 then c = f ∧ gp = g
    else gp = g + 6 ∧ ∃ k : Int, Nearest k d (g + 9) ∧ c = if k.natAbs ≤ 2047 then k else if d < 0 then -2047 else 2047

/-- The element that REFMODE leaves at a receiver (R259). -/
def RefAccumulates (g fa fb : Nat) (lost : Bool) (a b : Line) (old new : BitVec 32) : Prop :=
  if lost then new = old
  else if (a.nan || b.nan) = true then new.toNat = fp32.nan
  else ∃ c gp, RefCodeIs g (lineSum a b) c gp
    ∧ new.toNat = (fp32.finish .rne 0 (addV .rne (fp32.val old.toNat)
        (.num (decide (c < 0)) c.natAbs ((gp : Int) - 11 + a.x + b.x - 254 - fa - fb)))).1

end Sys2Proof.Machine
end

