-- ==== Sys2Proof/Safety/Scalar.lean ====
section
/-! DEFINITION. What the rules of spec/06 say that the scalar and predicate instructions write, as tables over the thread
that the statements compare the machine with. -/

namespace Sys2Proof.Machine

/-- The high half of an exact product of 128 bits (R138). -/
def highHalf (p : Int) : Word := BitVec.ofInt 64 (p / 2 ^ 64)

/-- −2^63, the dividend of the one overflow case (R139). -/
def leastWord : Word := BitVec.ofNat 64 (2 ^ 63)

/-- The quotient of R139. -/
def quotS (x y : Word) : Word :=
  if y = 0 then BitVec.allOnes 64
  else if x = leastWord ∧ y = BitVec.allOnes 64 then x
  else BitVec.ofInt 64 (x.toInt.tdiv y.toInt)

/-- The remainder of R139: x − q × y. -/
def remdS (x y : Word) : Word := if y = 0 then x else x - quotS x y * y

/-- R138, R139, R140, R141, R142: sums, products, quotients, minima and maxima. -/
def arithmeticOf (t : Thread) : Instr → Option Effect
  | .add g d a b => some (.toS g [rs a, rs b] d (t.sreg a + t.sreg b) 4)
  | .sub g d a b => some (.toS g [rs a, rs b] d (t.sreg a - t.sreg b) 4)
  | .mul g d a b => some (.toS g [rs a, rs b] d (t.sreg a * t.sreg b) 4)
  | .mulhs g d a b => some (.toS g [rs a, rs b] d (highHalf ((t.sreg a).toInt * (t.sreg b).toInt)) 4)
  | .mulhu g d a b => some (.toS g [rs a, rs b] d (highHalf ((t.sreg a).toNat * (t.sreg b).toNat : Nat)) 4)
  | .divs g d a b => some (.toS g [rs a, rs b] d (quotS (t.sreg a) (t.sreg b)) 4)
  | .divu g d a b =>
    some (.toS g [rs a, rs b] d (if t.sreg b = 0 then BitVec.allOnes 64 else t.sreg a / t.sreg b) 4)
  | .rems g d a b => some (.toS g [rs a, rs b] d (remdS (t.sreg a) (t.sreg b)) 4)
  | .remu g d a b => some (.toS g [rs a, rs b] d (if t.sreg b = 0 then t.sreg a else t.sreg a % t.sreg b) 4)
  | .addi g d a imm => some (.toS g [rs a] d (t.sreg a + imm.signExtend 64) 4)
  | .movi g d imm => some (.toS g [] d (imm.signExtend 64) 8)
  | .addiL g d a imm => some (.toS g [rs a] d (t.sreg a + imm.signExtend 64) 8)
  | .muladd g d a b c => some (.toS g [rs a, rs b, rs c] d (t.sreg a * t.sreg b + t.sreg c) 8)
  | .mins g d a b => some (.toS g [rs a, rs b] d (if (t.sreg b).slt (t.sreg a) then t.sreg b else t.sreg a) 4)
  | .minu g d a b => some (.toS g [rs a, rs b] d (if (t.sreg b).ult (t.sreg a) then t.sreg b else t.sreg a) 4)
  | .maxs g d a b => some (.toS g [rs a, rs b] d (if (t.sreg a).slt (t.sreg b) then t.sreg b else t.sreg a) 4)
  | .maxu g d a b => some (.toS g [rs a, rs b] d (if (t.sreg a).ult (t.sreg b) then t.sreg b else t.sreg a) 4)
  | .shadd g d a b n => some (.toS g [rs a, rs b] d (t.sreg a + t.sreg b * BitVec.ofNat 64 (2 ^ n.toNat)) 4)
  | _ => none

/-- R138, R141, R142: bitwise operations and shifts. -/
def logicOf (t : Thread) : Instr → Option Effect
  | .and g d a b => some (.toS g [rs a, rs b] d (t.sreg a &&& t.sreg b) 4)
  | .or g d a b => some (.toS g [rs a, rs b] d (t.sreg a ||| t.sreg b) 4)
  | .xor g d a b => some (.toS g [rs a, rs b] d (t.sreg a ^^^ t.sreg b) 4)
  | .sll g d a b => some (.toS g [rs a, rs b] d (t.sreg a <<< ((t.sreg b).toNat % 64)) 4)
  | .srl g d a b => some (.toS g [rs a, rs b] d (t.sreg a >>> ((t.sreg b).toNat % 64)) 4)
  | .sra g d a b => some (.toS g [rs a, rs b] d ((t.sreg a).sshiftRight ((t.sreg b).toNat % 64)) 4)
  | .andi g d a imm => some (.toS g [rs a] d (t.sreg a &&& imm.signExtend 64) 4)
  | .ori g d a imm => some (.toS g [rs a] d (t.sreg a ||| imm.signExtend 64) 4)
  | .xori g d a imm => some (.toS g [rs a] d (t.sreg a ^^^ imm.signExtend 64) 4)
  | .slli g d a sh => some (.toS g [rs a] d (t.sreg a <<< sh.toNat) 4)
  | .srli g d a sh => some (.toS g [rs a] d (t.sreg a >>> sh.toNat) 4)
  | .srai g d a sh => some (.toS g [rs a] d ((t.sreg a).sshiftRight sh.toNat) 4)
  | .rotri g d a sh => some (.toS g [rs a] d ((t.sreg a).rotateRight sh.toNat) 4)
  | .andiL g d a imm => some (.toS g [rs a] d (t.sreg a &&& imm.signExtend 64) 8)
  | .xoriL g d a imm => some (.toS g [rs a] d (t.sreg a ^^^ imm.signExtend 64) 8)
  | .orhi g d a imm => some (.toS g [rs a] d ((imm.setWidth 64 <<< 32) ||| (t.sreg a &&& 0xFFFFFFFF)) 8)
  | _ => none

/-- The condition of R144. -/
def cond64 (c : ICond) (x y : Word) : Bool :=
  match c with
  | .eq => decide (x = y)
  | .lt => x.slt y
  | .ltu => x.ult y
  | .tst => decide (x &&& y ≠ 0)

/-- R144: the compares. -/
def compareOf (t : Thread) : Instr → Option Effect
  | .cmp g c pd a b => some (.pair g [rs a, rs b] pd (cond64 c (t.sreg a) (t.sreg b)) 4)
  | .cmpi g c pd a imm => some (.pair g [rs a] pd (cond64 c (t.sreg a) (imm.signExtend 64)) 4)
  | .cmpiL g c pd a imm => some (.pair g [rs a] pd (cond64 c (t.sreg a) (imm.signExtend 64)) 8)
  | _ => none

/-- The number of one bits of a word. -/
def ones (x : Word) : Nat := (List.range 64).countP fun i => x.getLsbD i

/-- R145: predicate instructions. -/
def predicateOf (t : Thread) : Instr → Option Effect
  | .pand g d a b => some (.toP g [rp a, rp b] d (t.preg a &&& t.preg b) 4)
  | .por g d a b => some (.toP g [rp a, rp b] d (t.preg a ||| t.preg b) 4)
  | .pxor g d a b => some (.toP g [rp a, rp b] d (t.preg a ^^^ t.preg b) 4)
  | .pandn g d a b => some (.toP g [rp a, rp b] d (t.preg a &&& ~~~(t.preg b)) 4)
  | .pnot g d a => some (.toP g [rp a] d (~~~(t.preg a)) 4)
  | .pfroms g d a => some (.toP g [rs a] d (t.sreg a) 4)
  | .ptos g d a => some (.toS g [rp a] d (t.preg a) 4)
  | .pcnt g d a => some (.toS g [rp a] d (BitVec.ofNat 64 (ones (t.preg a))) 4)
  | _ => none

/-- What R138 and R143 say of bit j of the result x, for the instructions that name bits. -/
def bitsOf (t : Thread) (x : Word) (j : Nat) : Instr → Prop
  | .brev _ _ a => x.getLsbD j = (t.sreg a).getLsbD (63 - j)
  | .bfxu _ _ a pos len1 => x.getLsbD j = (decide (j ≤ len1.toNat) && (t.sreg a).getLsbD (pos.toNat + j))
  | .bfxs _ _ a pos len1 => x.getLsbD j = (t.sreg a).getLsbD (pos.toNat + min j len1.toNat)
  | .bfi _ d a pos len1 =>
    x.getLsbD j = if pos.toNat ≤ j ∧ j ≤ pos.toNat + len1.toNat then (t.sreg a).getLsbD (j - pos.toNat)
      else (t.sreg d).getLsbD j
  | _ => False

/-- The form of those instructions: guard, registers read, destination, length. -/
def bitsForm : Instr → Option (Guard × List Nat × Reg6 × Nat)
  | .brev g d a => some (g, [rs a], d, 4)
  | .bfxu g d a _ _ => some (g, [rs a], d, 8)
  | .bfxs g d a _ _ => some (g, [rs a], d, 8)
  | .bfi g d a _ _ => some (g, [rs a, rs d], d, 8)
  | _ => none

/-- What R138 says of the count n, for the instructions that count bits. -/
def countOf (t : Thread) (n : Nat) : Instr → Prop
  | .clz _ _ a => n ≤ 64 ∧ (∀ j < n, (t.sreg a).getLsbD (63 - j) = false) ∧ (n < 64 → (t.sreg a).getLsbD (63 - n) = true)
  | .ctz _ _ a => n ≤ 64 ∧ (∀ j < n, (t.sreg a).getLsbD j = false) ∧ (n < 64 → (t.sreg a).getLsbD n = true)
  | .popc _ _ a => n = ones (t.sreg a)
  | _ => False

/-- The form of those instructions: guard, source, destination. -/
def countForm : Instr → Option (Guard × Reg6 × Reg6)
  | .clz g d a => some (g, a, d)
  | .ctz g d a => some (g, a, d)
  | .popc g d a => some (g, a, d)
  | _ => none

/-! ### Control registers (spec/01 R15, spec/05 R126, spec/20 R349) -/

/-- The value that CRR reads, for every index of R15 but FRPTR. -/
def crValue (s : State) (x : BitVec 8) : Word :=
  let t := s.thr
  let k := s.core (s.cur / 8)
  if x = 0x00 then t.fprm.setWidth 64
  else if x = 0x01 then t.fpflags.setWidth 64
  else if x = 0x08 then 0x0104000000000000
  else if x = 0x10 then BitVec.ofNat 64 (s.config.moduleId.toNat * 2 ^ 32 + s.cur)
  else if x = 0x11 then t.packinfo
  else if x = 0x12 then t.launchid
  else if x = 0x13 then t.rcbaddr
  else if x = 0x14 then (if t.dclass then 1 else 0)
  else if x = 0x18 then BitVec.ofNat 64 k.pb0
  else if x = 0x19 then BitVec.ofNat 64 k.pb1
  else if x = 0x1A then BitVec.ofNat 64 k.pb2
  else if x = 0x20 then s.now
  else if x = 0x28 then t.seqdesc
  else if x = 0x29 then t.seqmode
  else if x = 0x2A then t.seqkey
  else if x = 0x30 then t.frbase
  else if x = 0x38 then t.utvec
  else 0

/-- The indices of R15 that CRW may write. -/
def writableCr (x : BitVec 8) : Prop :=
  x = 0x00 ∨ x = 0x01 ∨ x = 0x28 ∨ x = 0x29 ∨ x = 0x2A ∨ x = 0x30 ∨ x = 0x38

/-- The control registers of a thread that CRW may write, after a write of v to index x: reserved bits keep reading zero
(R15, R150). -/
structure CrWritten (x : BitVec 8) (v : Word) (t u : Thread) : Prop where
  fprm : u.fprm = if x = 0x00 then v.extractLsb' 0 3 else t.fprm
  fpflags : u.fpflags = if x = 0x01 then v.extractLsb' 0 5 else t.fpflags
  seqdesc : u.seqdesc = if x = 0x28 then (v.extractLsb' 7 45 ++ 0#7).setWidth 64 else t.seqdesc
  seqmode : u.seqmode = if x = 0x29 then (v.extractLsb' 32 16 ++ 0#30 ++ v.extractLsb' 0 2).setWidth 64 else t.seqmode
  seqkey : u.seqkey = if x = 0x2A then v else t.seqkey
  frbase : u.frbase = if x = 0x30 then (v.extractLsb' 6 46 ++ 0#6).setWidth 64 else t.frbase
  utvec : u.utvec = if x = 0x38 then (v.extractLsb' 2 50 ++ 0#2).setWidth 64 else t.utvec
  pc : u.pc = t.pc + 4
  rest : { u with fprm := t.fprm, fpflags := t.fpflags, seqdesc := t.seqdesc, seqmode := t.seqmode, seqkey := t.seqkey,
                  frbase := t.frbase, utvec := t.utvec, pc := t.pc } = t

end Sys2Proof.Machine
end

