-- ==== Sys2Proof/Safety/Control.lean ====
section
/-! DEFINITION. The terms of the statements about steps, traps and what stops an instruction before its effect (spec/02
R33-R37, spec/05 R107, R124, spec/20 R345-R354). -/

namespace Sys2Proof.Machine

/-- The guard of an instruction that bit 0 of its guard turns on or off as a whole (R35): every guarded instruction but the
vector instructions and the vector memory instructions. -/
def controlGuard : Instr → Option Guard
  | .add g _ _ _ => some g
  | .sub g _ _ _ => some g
  | .and g _ _ _ => some g
  | .or g _ _ _ => some g
  | .xor g _ _ _ => some g
  | .sll g _ _ _ => some g
  | .srl g _ _ _ => some g
  | .sra g _ _ _ => some g
  | .mul g _ _ _ => some g
  | .mulhs g _ _ _ => some g
  | .mulhu g _ _ _ => some g
  | .divs g _ _ _ => some g
  | .divu g _ _ _ => some g
  | .rems g _ _ _ => some g
  | .remu g _ _ _ => some g
  | .addi g _ _ _ => some g
  | .andi g _ _ _ => some g
  | .ori g _ _ _ => some g
  | .xori g _ _ _ => some g
  | .slli g _ _ _ => some g
  | .srli g _ _ _ => some g
  | .srai g _ _ _ => some g
  | .rotri g _ _ _ => some g
  | .movi g _ _ => some g
  | .addiL g _ _ _ => some g
  | .orhi g _ _ _ => some g
  | .andiL g _ _ _ => some g
  | .xoriL g _ _ _ => some g
  | .cmpiL g _ _ _ _ => some g
  | .muladd g _ _ _ _ => some g
  | .mins g _ _ _ => some g
  | .minu g _ _ _ => some g
  | .maxs g _ _ _ => some g
  | .maxu g _ _ _ => some g
  | .clz g _ _ => some g
  | .ctz g _ _ => some g
  | .popc g _ _ => some g
  | .brev g _ _ => some g
  | .cmp g _ _ _ _ => some g
  | .cmpi g _ _ _ _ => some g
  | .pand g _ _ _ => some g
  | .por g _ _ _ => some g
  | .pxor g _ _ _ => some g
  | .pandn g _ _ _ => some g
  | .pnot g _ _ => some g
  | .pfroms g _ _ => some g
  | .ptos g _ _ => some g
  | .pcnt g _ _ => some g
  | .br g _ => some g
  | .call g _ => some g
  | .jr g _ => some g
  | .jalr g _ _ => some g
  | .yield g => some g
  | .exit g => some g
  | .brk g _ => some g
  | .crr g _ _ => some g
  | .crw g _ _ => some g
  | .shadd g _ _ _ _ => some g
  | .bfxu g _ _ _ _ => some g
  | .bfxs g _ _ _ _ => some g
  | .bfi g _ _ _ _ => some g
  | .ld g _ _ _ _ => some g
  | .st g _ _ _ _ => some g
  | .ldx g _ _ _ _ _ _ => some g
  | .stx g _ _ _ _ _ _ => some g
  | .fence g _ _ => some g
  | .atom g _ _ _ _ _ _ _ _ _ => some g
  | .ftst g _ _ _ _ => some g
  | .fmov g _ _ _ => some g
  | .fdrop g _ _ => some g
  | .fwait g _ _ => some g
  | .tmark g _ => some g
  | .phReg g _ _ => some g
  | .phArrive g _ => some g
  | .phWait g _ _ _ => some g
  | .phDereg g _ => some g
  | .phRole g _ _ => some g
  | .phInit g _ _ => some g
  | .fpoison g _ _ _ => some g
  | .semWait g _ _ _ _ => some g
  | .qseq g _ _ _ => some g
  | .qseqLane g _ _ _ => some g
  | .qtbl g _ _ _ => some g
  | .vrand g _ _ _ => some g
  | .probeR g _ _ _ => some g
  | .probeW g _ _ _ => some g
  | .cpCopy g _ _ _ _ _ _ _ _ _ _ => some g
  | .cpFill g _ _ _ _ _ _ _ _ => some g
  | .cpCvt g _ _ _ _ _ _ _ _ _ _ _ _ => some g
  | .cpStride g _ _ _ _ _ _ _ _ _ => some g
  | .ringAdvFill g _ _ _ => some g
  | .ringAdvFree g _ _ _ => some g
  | .ringWaitFill g _ _ _ => some g
  | .ringWaitFree g _ _ _ => some g
  | .ringReset g _ _ _ _ => some g
  | .collArm g _ _ => some g
  | .collDisarm g _ _ => some g
  | .collGo g _ _ => some g
  | .collGoResume g _ _ => some g
  | .launch g _ _ _ _ => some g
  | .strmGoTile g _ _ _ _ _ => some g
  | .strmGoBus g _ _ _ _ _ => some g
  | .strmReg g _ _ _ => some g
  | .strmDereg g _ _ => some g
  | .lnkAlign g _ _ => some g
  | _ => none

/-- The registers that an instruction uses: its guard, those that it reads, in order, those that it reads beside them where the
guard does not activate every element of a layout (R35, R38), and those that it writes. -/
structure Uses where
  g : Guard
  reads : List Nat
  merged : List Nat
  layout : Nat
  writes : List Nat

/-- Those of an instruction that merges nothing. -/
def Uses.plain (g : Guard) (reads writes : List Nat) : Uses :=
  { g := g, reads := reads, merged := [], layout := 32, writes := writes }

/-- Those of a synchronous instruction. -/
def Effect.uses (e : Effect) : Uses := .plain e.g e.reads (e.outs.map (·.1))

/-- Those of a merging vector instruction. -/
def LaneEffect.uses (r : LaneEffect) : Uses :=
  { g := r.g, reads := r.reads, merged := [rv r.d], layout := r.layout, writes := [rv r.d] }

/-- Those of a vector instruction with a shape of its own. -/
def VForm.uses (q : VForm) : Uses :=
  { g := q.g, reads := q.reads, merged := q.merged, layout := q.layout, writes := q.dests }

/-- Those of a load. -/
def LoadForm.uses (l : LoadForm) : Uses :=
  { g := l.g, reads := l.reads, merged := l.merged, layout := l.layout, writes := [l.dest] }

/-- Those of a store. -/
def StoreForm.uses (m : StoreForm) : Uses := .plain m.g m.reads []

/-- Those of the bit-field and counting instructions, control transfers, control registers, FENCE, ATOM, the future and phaser
forms, the waits, the sequence unit and PROBE. -/
def threadUses : Instr → Option Uses
  | .call g _ => some (.plain g [] [63])
  | .jr g a => some (.plain g [rs a] [])
  | .jalr g d a => some (.plain g [rs a] [rs d])
  | .crr g d _ => some (.plain g [] [rs d])
  | .crw g a _ => some (.plain g [rs a] [])
  | .fence g d _ => some (.plain g [] [rs d])
  | .atom g d a b c op _ _ _ _ => some (.plain g ([rs a, rs b] ++ if op = .cas then [rs c] else []) [rs d])
  | .fmov g d a cl => some (.plain g [] (if d = a then [] else [registerOf cl d]))
  | .fpoison g d cl _ => some (.plain g [] [registerOf cl d])
  | .phReg g a b => some (.plain g [rs a, rs b] [])
  | .phRole g a b => some (.plain g [rs a, rs b] [])
  | .phInit g a b => some (.plain g [rs a, rs b] [])
  | .phArrive g a => some (.plain g [rs a] [])
  | .phDereg g a => some (.plain g [rs a] [])
  | .phWait g d a b => some (.plain g [rs a, rs b] [rs d])
  | .semWait g d a b _ => some (.plain g [rs a, rs b] [rs d])
  | .qseq g d a b => some (.plain g [rs a, rs b] [rv d])
  | .qseqLane g d a b => some (.plain g [rv a, rs b] [rv d])
  | .qtbl g d a b => some (.plain g [rs a, rs b] [rs d])
  | .vrand g d a b => some (.plain g [rs a, rs b] [rv d])
  | .probeR g d a b => some (.plain g [rs a, rs b] [rs d])
  | .probeW g d a b => some (.plain g [rs a, rs b] [rs d])
  | i => ((bitsForm i).map fun x => .plain x.1 x.2.1 [rs x.2.2.1]).or ((countForm i).map fun x => .plain x.1 [rs x.2.1] [rs x.2.2])

/-- Those of the commands of the engines (spec/09). -/
def commandUses : Instr → Option Uses
  | .ringAdvFill g d a b => some (.plain g [rs a, rs b] [rs d])
  | .ringAdvFree g d a b => some (.plain g [rs a, rs b] [rs d])
  | .ringWaitFill g d a b => some (.plain g [rs a, rs b] [rs d])
  | .ringWaitFree g d a b => some (.plain g [rs a, rs b] [rs d])
  | .ringReset g d a b c => some (.plain g [rs a, rs b, rs c] [rs d])
  | .collArm g d a => some (.plain g [rs a] [rs d])
  | .collDisarm g d a => some (.plain g [rs a] [rs d])
  | .collGo g d a => some (.plain g [rs a] [rs d])
  | .collGoResume g d a => some (.plain g [rs a] [rs d])
  | .launch g d a _ _ => some (.plain g [rs a] [rs d])
  | .strmGoTile g d a b _ _ => some (.plain g [rs a, rs b] [rs d])
  | .strmGoBus g d a b _ _ => some (.plain g [rs a, rs b] [rs d])
  | .strmReg g d a _ => some (.plain g [rs a] [rs d])
  | .strmDereg g d _ => some (.plain g [] [rs d])
  | .lnkAlign g d a => some (.plain g [rs a] [rs d])
  | i => (copyOf i).map fun x => .plain x.1 (copyReads x.2.2) [rs x.2.1]

/-- Those of the vector instructions. -/
def vectorUses (t : Thread) (i : Instr) : Option Uses :=
  [(lanesOf t i).map LaneEffect.uses, (widthsOf t i).map LaneEffect.uses, (permuteOf t i).map LaneEffect.uses,
    (signOf t i).map LaneEffect.uses, (fpOf .rne t i).map fun x => x.2.uses, (convertOf .rne t i).map fun x => x.2.uses,
    (selectShape i).map VForm.uses, (vcompareShape i).map VForm.uses, (reduceShape i).map fun x => x.1.uses,
    (gatherShape i).map fun x => x.1.uses].findSome? id

/-- The registers that an instruction uses, for every instruction that reads or writes one beside its guard, TMARK and FDROP
apart. -/
def usesOf (t : Thread) (i : Instr) : Option Uses :=
  [(arithmeticOf t i).map Effect.uses, (logicOf t i).map Effect.uses, (compareOf t i).map Effect.uses,
    (predicateOf t i).map Effect.uses, (futureOf t i).map Effect.uses, threadUses i, commandUses i, vectorUses t i,
    (scalarLoadOf t i).map fun x => x.1.uses, (vectorLoadOf t i).map LoadForm.uses, (scalarStoreOf t i).map StoreForm.uses,
    (vectorStoreOf t i).map StoreForm.uses].findSome? id

/-- The registers that an instruction reads under its guard, in order. -/
def Uses.Reads (q : Uses) (s : State) (l : List Nat) : Prop :=
  (Full q.layout (s.thr.preg q.g) → l = q.reads) ∧ (¬Full q.layout (s.thr.preg q.g) → l = q.reads ++ q.merged)

/-- The guard is full, and it does not turn the instruction off as a whole (R35). -/
def Uses.On (q : Uses) (i : Instr) (s : State) : Prop :=
  s.thr.rstate (rp q.g) = .full ∧ (controlGuard i = none ∨ (s.thr.preg q.g).getLsbD 0 = true)

/-- Whether a copy command's mode is one that R16 allows. -/
def copyMode (t : Thread) (i : Instr) : Prop := ∃ g d x m, copyOf i = some (g, d, x) ∧ modeOf x.rm t.fprm = some m

/-- A producer that nothing but the pending table stops: its address is aligned, its mode and its class are in order, no link
awaits the beacon of its slot (R394), and a release at SYS finds every access acknowledged. -/
def takesEntry (s : State) : Instr → Prop
  | .phWait _ _ a _ => (s.thr.sreg a).toNat % 32 = 0
  | .semWait _ _ a _ _ => (s.thr.sreg a).toNat % 8 = 0
  | .qseq _ _ _ _ | .qseqLane _ _ _ _ | .qtbl _ _ _ _ => s.thr.seqmode.extractLsb' 0 2 ≠ 3
  | .vrand _ _ _ _ | .probeR _ _ _ _ | .probeW _ _ _ _ | .ringAdvFill _ _ _ _ | .ringAdvFree _ _ _ _ | .ringWaitFill _ _ _ _
  | .ringWaitFree _ _ _ _ | .ringReset _ _ _ _ _ | .collArm _ _ _ | .collDisarm _ _ _ | .collGo _ _ _ | .collGoResume _ _ _
  | .strmReg _ _ _ _ | .strmDereg _ _ _ | .lnkAlign _ _ _ => True
  | .launch _ _ _ unord _ => ¬(s.thr.dclass = true ∧ unord = true)
  | .strmGoTile _ _ _ _ ref _ | .strmGoBus _ _ _ _ ref _ => ¬(s.thr.dclass = true ∧ ref = false)
  | .atom _ _ a _ _ op aw o sc imm =>
    let va := s.thr.sreg a + imm.signExtend 64
    va.toNat % atomBytes aw = 0 ∧ (s.thr.dclass = true → isFpAdd op aw = true → ¬s.InStack va)
      ∧ s.locate (s.agentOf s.cur) va .rmw ≠ .away ∧ ((o = .rel ∨ o = .ar) ∧ sc = .sys → s.thr.unacked = [])
  | i => copyMode s.thr i ∨ ∃ l, ((scalarLoadOf s.thr i).map (·.1) = some l ∨ vectorLoadOf s.thr i = some l)
      ∧ ∀ p ∈ l.parts, s.locate (s.agentOf s.cur) p.va .load ≠ .away

/-- The current thread parked until an entry of the pending table frees, and nothing else changed (R33). -/
def parkedForEntry (s : State) : State :=
  s.setThread s.cur { s.thr with status := .parked, woke := false, parkedAt := s.now.toNat, waitsOn := [], waitsEntry := true }

/-- The current thread parked on registers, and nothing else changed (R36). -/
def parkedOn (s : State) (regs : List Nat) : State :=
  s.setThread s.cur { s.thr with status := .parked, woke := false, parkedAt := s.now.toNat, waitsOn := regs,
                                 waitsEntry := false }

/-- The trap that a poisoned register raises (R37, R353): CODE is the poison code, INFO the register and its poison value. -/
def usesPoison (i : Nat) (pv : BitVec 32) : Trap :=
  { cause := .poisonUse, code := (pv.extractLsb' 0 16).toNat, addr := 0, info := BitVec.ofNat 64 (i * 2 ^ 32 + pv.toNat),
    reason := 0 }

/-- A target that an instruction may go to (R148). -/
def fetchable (a : Word) : Prop := a.toNat % 4 = 0 ∧ a.toNat < 2 ^ 52

/-- The trap of a target that cannot be fetched from (R148): MISALIGN first, else ACCESS_FAULT with reason RANGE. -/
def badTarget (a : Word) : Trap :=
  if a.toNat % 4 ≠ 0 then ⟨.misalign, 0, a, 0, 0⟩ else ⟨.accessFault, 0, a, 0, 1⟩

/-- A ring of fault records at FRBASE that the current thread reaches and that is full (R350, R351): its header at h, with its
count of overflows. -/
structure FullRing (s : State) (h : Place) (log2n prod cons ovf : Nat) : Prop where
  plain : s.Plain
  memory : s.wf
  base : s.thr.frbase ≠ 0
  header : s.Reaches s.thr.frbase .rmw h
  sc : h.sc = true
  spans : h.spans 64
  size : (s.peek (h.add 8)).toNat = log2n ∧ 4 ≤ log2n ∧ log2n ≤ 12
  counts : Holds s h 4 prod ∧ Holds s (h.add 4) 4 cons ∧ prod < 2 ^ 32 ∧ cons < 2 ^ 32
  overflows : Holds s (h.add 0x10) 4 ovf ∧ ovf < 2 ^ 32
  full : 2 ^ log2n ≤ (prod + 2 ^ 32 - cons) % 2 ^ 32

/-- No header of a ring that can be used: none is named, it is not reached in the SC domain, or it lies on a held page (R351). -/
def NoRing (s : State) : Prop :=
  s.thr.frbase = 0 ∨ ∀ p e, s.locate (s.agentOf s.cur) s.thr.frbase .rmw = .ok p e → p.sc = false

/-- The header of a ring that cannot be used: a soft error in it, or a size out of range (R351). -/
def BadHeader (s : State) (h : Place) : Prop :=
  s.thr.frbase ≠ 0 ∧ s.Reaches s.thr.frbase .rmw h ∧ h.sc = true
    ∧ ((∃ k < 64, s.marked (h.add k) = true) ∨ (s.peek (h.add 8)).toNat < 4 ∨ 12 < (s.peek (h.add 8)).toNat)

/-- A ring with room whose next slot cannot be used: it is not reached in the SC domain, or it lies on a held page (R351). -/
def NoSlot (s : State) (h : Place) : Prop :=
  s.marks = [] ∧ s.thr.frbase ≠ 0 ∧ s.Reaches s.thr.frbase .rmw h ∧ h.sc = true
    ∧ 4 ≤ (s.peek (h.add 8)).toNat ∧ (s.peek (h.add 8)).toNat ≤ 12
    ∧ ∃ prod cons, Holds s h 4 prod ∧ Holds s (h.add 4) 4 cons ∧ prod < 2 ^ 32 ∧ cons < 2 ^ 32
      ∧ (prod + 2 ^ 32 - cons) % 2 ^ 32 < 2 ^ (s.peek (h.add 8)).toNat
      ∧ ∀ p e, s.locate (s.agentOf s.cur)
          (s.thr.frbase + 64 + BitVec.ofNat 64 (64 * (prod % 2 ^ (s.peek (h.add 8)).toNat))) .store = .ok p e → p.sc = false

/-- The write of a trap's record for the current thread: the state that it leaves, and the record's index, or 0xFFFF. -/
def State.recordOf (s : State) (kind : Nat) (x : Trap) : State × Nat :=
  s.writeRecord (s.agentOf s.cur) s.thr.frbase (s.trapRec kind x)

/-- FRLOST of the current thread's core has advanced, and nothing else has changed. -/
def OnlyLost (s t : State) : Prop :=
  (t.core (s.cur / 8)).frlost = (s.core (s.cur / 8)).frlost + 1 ∧ { t with cores := s.cores } = s

/-- A ring of fault records at FRBASE that the current thread reaches and that has room (R350, R351): its header at h, its
next slot at p, apart from the header. -/
structure RecordRing (s : State) (h p : Place) (log2n prod cons : Nat) : Prop where
  plain : s.Plain
  memory : s.wf
  base : s.thr.frbase ≠ 0
  header : s.Reaches s.thr.frbase .rmw h
  sc : h.sc = true ∧ p.sc = true
  spans : h.spans 64 ∧ p.spans 64 ∧ ∀ j < 64, ∀ k < 64, samePlace (h.add j) (p.add k) = false
  size : (s.peek (h.add 8)).toNat = log2n ∧ 4 ≤ log2n ∧ log2n ≤ 12
  counts : Holds s h 4 prod ∧ Holds s (h.add 4) 4 cons ∧ prod < 2 ^ 32 ∧ cons < 2 ^ 32
  room : (prod + 2 ^ 32 - cons) % 2 ^ 32 < 2 ^ log2n
  slot : s.Reaches (s.thr.frbase + 64 + BitVec.ofNat 64 (64 * (prod % 2 ^ log2n))) .store p

/-- The 64 bytes of a trap's record, in the layout of R352. -/
structure RecordAt (s t : State) (p : Place) (seq kind : Nat) (x : Trap) : Prop where
  seq : Holds t p 4 seq
  kind : Holds t (p.add 4) 1 kind
  cause : Holds t (p.add 5) 1 x.cause.code
  code : Holds t (p.add 6) 2 x.code
  pc : Holds t (p.add 8) 8 s.thr.pc.toNat
  addr : Holds t (p.add 0x10) 8 x.addr.toNat
  info : Holds t (p.add 0x18) 8 x.info.toNat
  word0 : Holds t (p.add 0x20) 4 s.ir0.toNat
  word1 : Holds t (p.add 0x24) 4 s.ir1.toNat
  gtid : Holds t (p.add 0x28) 2 s.cur
  cls : Holds t (p.add 0x2A) 1 0
  reason : Holds t (p.add 0x2B) 1 x.reason
  launch : Holds t (p.add 0x2C) 4 (s.thr.pack / 2 ^ 24)
  now : Holds t (p.add 0x30) 8 s.now.toNat

/-- The trap codes of R345. -/
def causeCode : Cause → Nat
  | .illegalOp => 1
  | .extAbsent => 2
  | .poisonUse => 3
  | .accessFault => 4
  | .misalign => 5
  | .priv => 6
  | .determinism => 7
  | .trailFull => 8
  | .breakpoint => 9
  | .watch => 10

/-- What a step from s makes of the outcome of exec: what follows every turn, where no timestamp passes its limit (DESIGN CHOICE,
notes/assumptions/1.md, 14.md). -/
def afterTurn (s : State) (o : Out) : Out :=
  match o with
  | .next t => .next (s.within t.settle)
  | .fault f => .fault f
  | .refused r => .refused r

/-- The state in which a turn of the agenda begins: the turn is taken off, and NOW has moved on by a cycle. -/
def State.turnBegins (s : State) (rest : List Turn) : State := { s.tick Config.cycle with agenda := rest }

/-- The state in which thread g fetches in its turn: it is the current thread, and whatever it waited for is over. -/
def State.fetching (s : State) (g : Nat) : State :=
  { s with cur := g, prior := (s.thread g).hold }.onThr fun t =>
    { t with woke := false, yielded := false, waitsEntry := false, status := .ready, hold := none }

/-- The state in which a fetched instruction runs: its words are noted. -/
def State.fetched (s : State) (w0 w1 : Nat) : State :=
  { s with ir0 := BitVec.ofNat 32 w0, ir1 := BitVec.ofNat 32 w1 }.onThr fun t => { t with delivering := 0 }

/-- The word at an address of the current thread's code: its place, which is cached and holds no mark. -/
structure CodeWord (s : State) (va : Word) (p : Place) (w : Nat) : Prop where
  reaches : s.Reaches va .fetch p
  clean : s.marks = []
  word : w = s.peekNat p 4

end Sys2Proof.Machine
end

