-- ==== Sys2Proof/Safety/Package.lean ====
section
/-! DEFINITION. The terms of the statements about the package: control space, the shepherd and the kennel (spec/18, spec/20),
translation (spec/19), boot and the host (spec/22), the fabric and the optics (spec/23, spec/24), and the debug mailbox
(spec/21). -/

namespace Sys2Proof.Machine

/-! ### Control space -/

/-- Outside some registers of control space nothing has changed. -/
def OnlyRegisters (s t : State) (offs : List Nat) : Prop :=
  (∀ o, o ∉ offs → t.creg o = s.creg o) ∧ { t with ctl := s.ctl } = s

/-- Bit v of HSTAT is set; its message is written, or waits for the link, when the bit was 0 and HMASK leaves it (R385,
R387). -/
structure Signals (s t : State) (v : Nat) : Prop where
  bit : t.cfield 0x4000 v v = 1
  sent : s.cfield 0x4000 v v = 0 → s.cfield 0x4008 v v = 0 → s.linkUp = true →
    tget 0 t.msix v = tget 0 s.msix v + 1 ∧ t.msixWait = s.msixWait
  waits : s.cfield 0x4000 v v = 0 → s.cfield 0x4008 v v = 0 → s.linkUp = false →
    t.msixWait = s.msixWait ++ [v] ∧ t.msix = s.msix
  silent : s.cfield 0x4000 v v = 1 ∨ s.cfield 0x4008 v v = 1 → t.msix = s.msix ∧ t.msixWait = s.msixWait

/-- Outside some registers and the signals to the host nothing has changed. -/
def OnlySignals (s t : State) (offs : List Nat) : Prop :=
  (∀ o, o ≠ 0x4000 → o ∉ offs → t.creg o = s.creg o)
    ∧ { t with ctl := s.ctl, msix := s.msix, msixWait := s.msixWait } = s

/-! ### Launch packets (R318-R322) -/

/-- Flag i of a packet. -/
def packetFlag (bs : List Byte) (i : Nat) : Bool := (fieldAt bs 1 1).testBit i

/-- The first check of R322, on the layout of R318. -/
structure PacketGood (bs : List Byte) : Prop where
  length : bs.length = 128
  kind : fieldAt bs 0x00 1 = 1
  flags : fieldAt bs 0x01 1 < 2 ^ 6
  bounds : fieldAt bs 0x04 2 < 2 ^ 9 ∧ fieldAt bs 0x06 2 < 2 ^ 9
  masks : fieldAt bs 0x25 1 < 2 ^ 4 ∧ fieldAt bs 0x26 1 < 2 ^ 4 ∧ (packetFlag bs 5 = false → fieldAt bs 0x26 1 = 0)
  reserved : fieldAt bs 0x27 1 = 0 ∧ fieldAt bs 0x42 6 = 0 ∧ fieldAt bs 0x68 24 = 0
  conditions : fieldAt bs 0x40 1 < 7 ∧ fieldAt bs 0x41 1 < 7
  packs : 1 ≤ fieldAt bs 0x20 4 ∧ fieldAt bs 0x20 4 ≤ 2 ^ 24
  aligned : fieldAt bs 0x08 8 % 256 = 0 ∧ fieldAt bs 0x10 8 % 4 = 0 ∧ fieldAt bs 0x58 8 % 32 = 0 ∧ fieldAt bs 0x60 8 % 8 = 0
    ∧ fieldAt bs 0x30 8 % 8 = 0 ∧ fieldAt bs 0x48 8 % 8 = 0

/-- A packet that R322 accepts into region r, whose values are kept (R321) and which has no trail: `root` is the device
physical address of the queue's QRCB, or of the parent's region. -/
structure Acceptable (s : State) (ag : Agent) (root : Nat) (bs : List Byte) (r : Region) : Prop where
  packet : PacketGood bs
  region : ∃ pa e, s.locate ag (BitVec.ofNat 64 (fieldAt bs 0x08 8)) .load = .ok (.dev pa) e ∧ s.region? pa = some r
  root : root ∈ r.chain
  trail : r.trail = 0
  threads : 1 ≤ fieldAt bs 2 1 ∧ fieldAt bs 2 1 ≤ 8
  cores : 1 ≤ fieldAt bs 3 1 ∧ fieldAt bs 3 1 ≤ 128
  bounds : 4 * fieldAt bs 2 1 ≤ fieldAt bs 4 2 ∧ fieldAt bs 4 2 ≤ fieldAt bs 6 2 ∧ fieldAt bs 6 2 ≤ 368
  budget : ∀ m ∈ r.limits, (m.cores = 0 ∨ fieldAt bs 3 1 ≤ m.cores)
    ∧ (m.tiles = 0 ∨ ((List.range 4).filter (fieldAt bs 0x25 1).testBit).length ≤ m.tiles)
    ∧ (m.pool = 0 ∨ fieldAt bs 3 1 * (fieldAt bs 6 2 - 4 * fieldAt bs 2 1) ≤ m.pool)
  place : (fieldAt bs 0x25 1 = 0 ∨ s.cfield 0x10 15 8 ≠ 5) ∧ (packetFlag bs 5 = true → ∀ b < 4, (s.bus b).lost = false)
  semaphores : ∀ k : Nat × Nat, k = (1, 0x30) ∨ k = (2, 0x48) → packetFlag bs k.1 = true →
    let x := s.locate ag (BitVec.ofNat 64 (fieldAt bs k.2 8)) .load
    x = .held ∨ ∃ p e, x = .ok p e ∧ p.sc = true

/-- The launch that an accepted packet becomes (R318, R322). -/
structure AcceptedAs (l : Launch) (id : Nat) (src : Source) (parent : Option Parent) (asid : BitVec 16) (r : Region)
    (bs : List Byte) : Prop where
  names : l.id = id ∧ l.src = src ∧ l.parent = parent ∧ l.asid = asid ∧ l.region = r.rcb
  entry : l.entry = BitVec.ofNat 64 (fieldAt bs 0x10 8) ∧ l.arg = BitVec.ofNat 64 (fieldAt bs 0x18 8)
  shape : l.tpc = fieldAt bs 2 1 ∧ l.cores = fieldAt bs 3 1 ∧ l.pb1 = fieldAt bs 4 2 ∧ l.pb2 = fieldAt bs 6 2
  masks : l.clmask = fieldAt bs 0x24 1 ∧ l.tmask = fieldAt bs 0x25 1 ∧ l.bmask = fieldAt bs 0x26 1 ∧ l.bus = packetFlag bs 5
  packs : l.packs = fieldAt bs 0x20 4 ∧ l.left = List.range l.packs ∧ l.begun = [] ∧ l.ended = 0
  start : l.start = if packetFlag bs 0 then some (fieldAt bs 0x28 8) else none
  record : l.crec = if packetFlag bs 3 then some (BitVec.ofNat 64 (fieldAt bs 0x58 8)) else none
  signal : l.csig = if packetFlag bs 4 then some (BitVec.ofNat 64 (fieldAt bs 0x60 8)) else none
  alive : l.killed = false ∧ l.semFail = false ∧ l.faulted = false

/-- The launch id after another: 1 follows 0xFFFF_FFFE (R322). -/
def idAfter (id : Nat) : Nat := if id = 0xFFFFFFFE then 1 else id + 1

/-- The physical address of the packet at a queue's HEAD (R315). -/
def State.slotAt (s : State) (q : Nat) : Nat :=
  let o := 0x1000 + 0x40 * q
  s.cfield o 47 12 * 4096 + 128 * (s.cfield (o + 0x18) 31 0 % 2 ^ s.cfield (o + 8) 7 4)

/-- The agent that reads a queue's packets, in the queue's address space. -/
def State.queueAgent (s : State) (q : Nat) : Agent :=
  { core := 0, lid := 0, pack := none, asid := BitVec.ofNat 16 (s.cfield (0x1000 + 0x40 * q + 8) 63 48) }

/-- The packet bs at a queue's HEAD is next: it is visible and can be read, the queue waits on no page, and the page of its
QRCB is not held. -/
structure PacketNext (s : State) (q : Nat) (bs : List Byte) : Prop where
  event : s.ev = some (.acceptance q)
  waits : s.queueWaits q = true ∧ (s.queue q).hold = none
  reads : s.slotAt q + 128 ≤ Config.deviceBytes ∧ s.marks = [] ∧ bs.length = 128 ∧ BytesAt s (.dev (s.slotAt q)) bs
  root : s.locate (s.queueAgent q) (BitVec.ofNat 64 (s.cfield (0x1000 + 0x40 * q + 0x10) 51 8 * 256)) .load ≠ .held

/-- The state in which a LAUNCH has taken its call index (R238). -/
def State.called (s : State) : State := s.onThr fun t => { t with nlaunch := satInc t.nlaunch }

/-- A launch of the package, the only one with its id. -/
structure LaunchIn (s : State) (l : Launch) : Prop where
  found : s.launch? l.id = some l
  alone : ∀ x ∈ s.launches, x.id = l.id → x = l

/-! ### Dispatch (R13, R325) -/

/-- A thread of a new pack as R13 and R325 start it. -/
structure StartsAs (x : Thread) (l : Launch) (r : Region) (key rank : Nat) : Prop where
  runs : x.status = .ready ∧ x.pc = l.entry ∧ x.asid = l.asid
  scalars : ∀ i < 64, x.value i = if i = 1 then wide l.arg else 0
  vectors : ∀ i < 128, 64 ≤ i → x.value i = 0
  predicates : ∀ i < 144, 128 ≤ i → x.value i = if i = 128 then wide (BitVec.allOnes 64) else 0
  states : ∀ i < 144, x.rstate i = .full
  counts : x.count = 0 ∧ x.deadlink = 0 ∧ x.refused = 0 ∧ x.nlaunch = 0 ∧ x.regs = []
  modes : x.fprm = 0 ∧ x.fpflags = 0 ∧ x.seqdesc = 0 ∧ x.seqmode = 0 ∧ x.seqkey = 0
  region : x.frbase = r.frbase ∧ x.utvec = r.utvec ∧ x.dclass = r.dclass ∧ x.rcbaddr = l.rcbVa
  place : x.pack = key ∧ x.rank = rank

/-- A core of a new pack: its boundaries, its SPM and STG zero, its rings unreset, and its threads (R19, R325). -/
structure CoreStarts (t : State) (l : Launch) (r : Region) (key core index : Nat) : Prop where
  boundaries : (t.core core).pack = some key ∧ (t.core core).pb0 = 4 * l.tpc ∧ (t.core core).pb1 = l.pb1
    ∧ (t.core core).pb2 = l.pb2
  zero : ∀ o, 4 * l.tpc * 4096 ≤ o → o < l.pb2 * 4096 → t.peek (.pool core 0 o) = 0
  rings : ∀ k < 16, (t.ring (core * 16 + k)).reset = false
  threads : ∀ j < l.tpc, StartsAs (t.thread (core * 8 + j)) l r key (index * l.tpc + j)
  others : ∀ j < 8, l.tpc ≤ j → (t.thread (core * 8 + j)).status = .idle

/-- A resident pack that ends by EXIT of all its threads (R154). -/
structure PackEnds (s : State) (p : Pack) (l : Launch) : Prop where
  event : s.ev = some (.packEnd p.key)
  pack : s.pack? p.key = some p ∧ p.out = none ∧ p.killing = false ∧ p.kennel = none
  launch : LaunchIn s l ∧ l.id = p.key / 2 ^ 24 ∧ l.killed = false ∧ l.semFail = false
  threads : ∀ c ∈ p.cores, ∀ i < 8, (s.thread (c * 8 + i)).pack = p.key → (s.thread (c * 8 + i)).status ≠ .idle →
    (s.thread (c * 8 + i)).status = .exited ∧ (s.thread (c * 8 + i)).unacked = []
  performed : ∀ h ∈ s.held, h.op.orders = true → h.ctx.pack ≠ p.key

/-- The pack is the last of its launch. -/
def LastPack (s : State) (p : Pack) (l : Launch) : Prop :=
  (∀ k ∈ l.left, k = p.key % 2 ^ 24) ∧ (∀ q ∈ s.packs, q.key / 2 ^ 24 = l.id → q.key = p.key) ∧ l.hold = none

/-! ### Pre-emption (R327) -/

/-- A resident pack that a launch may pre-empt to run on a cluster (R311, R327, R379): its region priority is at least 2 below the
launch's, and it holds cores there, or a bus that the launch's next pack is fixed to. -/
structure MayBeVictim (s : State) (l : Launch) (cluster : Nat) (p : Pack) : Prop where
  resident : p ∈ s.packs ∧ p.out = none ∧ p.killing = false ∧ p.saving = false
  place : p.cluster = cluster ∨ ∃ b ∈ p.buses, b ∈ s.leftBuses l
  prio : s.packPrio p + 2 ≤ s.prioOf l
  runs : ∀ m, s.launch? (p.key / 2 ^ 24) = some m → s.isHalted m = false

/-- R327 takes one pack before another: the lower region priority first, then the one dispatched more recently. -/
def VictimBefore (s : State) (p r : Pack) : Prop :=
  s.packPrio p < s.packPrio r ∨ (s.packPrio p = s.packPrio r ∧ r.order < p.order)

/-- A list of victims follows the order of R327, each with the packs that share a session with it (R266), and goes on only until
the pack fits; a pack without a kennel is passed over (R358). -/
structure VictimsInOrder (s : State) (l : Launch) (cluster : Nat) (v : Victims) : Prop where
  each : ∀ x ∈ v.taken, ∃ r, MayBeVictim s l cluster r ∧ r.key ∈ v.taken.map (·.1) ∧ x.1 ∈ (s.fellows r).map (·.key)
    ∧ ∀ p, MayBeVictim s l cluster p → VictimBefore s p r → p.key ∈ v.taken.map (·.1) ∨ p.key ∈ v.denied
  needed : ∃ first last r, v.taken = first ++ last ∧ last ≠ [] ∧ (∀ x ∈ last, x.1 ∈ (s.fellows r).map (·.key))
    ∧ s.placesOn (s.staying { v with taken := first }) l cluster = none

/-! ### Boot and trips (R385-R388, R425) -/

/-- Boot has reached a stage without an error. -/
def BootedTo (s : State) (stage : Nat) : Prop := s.cfield 0x10 7 0 = stage ∧ s.cfield 0x10 15 8 = 0 ∧ s.fwRun ≠ none

/-- BOOTSTAT shows a stage and an error code. -/
def BootShows (t : State) (stage err : Nat) : Prop := t.cfield 0x10 7 0 = stage ∧ t.cfield 0x10 15 8 = err

/-- A reset has ended all work; the memories, NOW, the flash and the link are as they were. -/
structure Restarted (s t : State) : Prop where
  work : t.launches = [] ∧ t.packs = [] ∧ t.copies = [] ∧ t.colls = [] ∧ t.flying = [] ∧ t.binds = []
  threads : ∀ g, (t.thread g).status = .idle
  kept : t.mem = s.mem ∧ t.hostMem = s.hostMem ∧ t.now = s.now ∧ t.flash = s.flash ∧ t.linkUp = s.linkUp

/-! ### The host (R71, R384, R389) -/

/-- A write of the host or of another module changes the bytes that it names and no other. -/
def WritesDevice (s t : State) (pa : Nat) (bs : List Byte) : Prop :=
  BytesAt t (.dev pa) bs ∧ ∀ q : Place, q.proper → (∀ k < bs.length, q ≠ .dev (pa + k)) → t.peek q = s.peek q

/-! ### Time (R401) -/

/-- An offset in ns disciplines NOW (R401): before boot stage READY it is stepped forward, or stays; from READY on it is slewed,
and an offset above 1 ms is a holdover. -/
structure Disciplined (s t : State) (st : Nat) (offs : BitVec 32) : Prop where
  offset : t.cfield 0x9020 31 0 = offs.toNat
  early : s.cfield 0x10 7 0 ≠ 6 → t.cfield 0x9020 63 62 = st ∧ t.slew = 0
    ∧ t.now = s.now + BitVec.ofNat 64 ((-offs.toInt).toNat * Config.ns)
  slewed : s.cfield 0x10 7 0 = 6 → offs.toInt.natAbs ≤ 1000000 → t.cfield 0x9020 63 62 = st ∧ t.now = s.now
    ∧ t.slew = -offs.toInt * Config.ns
  far : s.cfield 0x10 7 0 = 6 → 1000000 < offs.toInt.natAbs → t.cfield 0x9020 63 62 = 3 ∧ t.now = s.now ∧ t.slew = 0
    ∧ Signals s t 5 ∧ OnlySignals s { t with slew := s.slew } [0x9020]
  others : s.cfield 0x10 7 0 ≠ 6 ∨ offs.toInt.natAbs ≤ 1000000 → OnlyRegisters s { t with now := s.now, slew := s.slew } [0x9020]

/-! ### Soft errors (R414, R415) -/

/-- The granule that a patrol scrub reads, where an uncorrectable error there is marked: in a memory, an accumulator or a ring
context, or the pending-table entry of a binding (R415; the numbers of the last two are DESIGN CHOICE, notes/assumptions/57.md).
-/
def ScrubMarks (s : State) (n : Nat) (k : Mark) : ScrubMem → Prop
  | .hbm => k = .hbm n
  | .l2 => k = .l2 n
  | .pool => k = .pool n
  | .acc => k = .acc (n / 16384) (n % 16384)
  | .ring => k = .ring (n / 144) (n % 144)
  | .pending => ∃ b ∈ s.binds, b.holder.isSome = true ∧ b.entryCore = n / 512 ∧ b.entry = n % 512 ∧ k = .pending b.tag
      ∧ ∀ c ∈ s.binds, c.holder.isSome = true → c.entryCore = n / 512 → c.entry = n % 512 → c.tag = b.tag
  | .reg => False

/-! ### The debug mailbox (R377) -/

/-- A command of the mailbox on the region whose RCB lies at device physical address pa: no command is under way, and no page of
the region's chain is held. -/
structure Commands (s : State) (c : DbgCmd) (pa : Nat) : Prop where
  idle : s.cfield 0x5020 0 0 = 0
  region : ∃ e, s.locate (dbgAgent c) (dbgVa c) .load = .ok (.dev pa) e
  chain : ∀ va, (s.packetRegion (dbgAgent c) (dbgVa c)).1 ≠ .held va

/-- The command has ended with a result, a window, and an obstacle's time and address. -/
def EndsAt (t : State) (code window ts addr : Nat) : Prop :=
  t.cfield 0x5020 0 0 = 0 ∧ t.cfield 0x5020 15 8 = code ∧ t.cfield 0x5020 63 32 = window ∧ t.cfield 0x5028 47 0 = ts
    ∧ t.cfield 0x5030 51 0 = addr

/-- The command has ended with a result and a window, and without an obstacle. -/
def EndsWith (t : State) (code window : Nat) : Prop := EndsAt t code window 0 0

/-- The mailbox apart, nothing has changed. -/
def OnlyEnds (s t : State) : Prop := OnlyRegisters s { t with named := s.named, dbgWait := s.dbgWait } [0x5020, 0x5028, 0x5030]

/-- A slot that a region above the one at pa watches is clear for it and its descendants (R378). -/
def Hides (s : State) (above : List Nat) (pa slot : Nat) (w : Watch) : Prop :=
  (∃ u, s.watchIn above slot = some u ∧ (u.read = true ∨ u.write = true))
    ∧ w = { rcb := pa, slot := slot, addr := 0, len := 0, read := false, write := false }

/-- The commands of DBGCMD: the row of each, and its arguments. -/
def debugRow : Event → Option (Instr × DbgCmd)
  | .attach c => some (.attach, c)
  | .detach c => some (.detach, c)
  | .halt c => some (.halt, c)
  | .resume c => some (.resume, c)
  | .rewind c => some (.rewind, c)
  | .replay c => some (.replay, c)
  | .trim c => some (.trim, c)
  | .watch c => some (.watch, c)
  | _ => none

/-- A trail is in use, and no page of its buffer is held. -/
def State.TrailOpen (s : State) (r : Region) : Prop :=
  (∃ u ∈ s.trails, u.owner = r.owner)
    ∧ ∀ va, s.trailPages (s.trailAgent r) r.trailBase 0 (r.trailU * 2 ^ 21) (32 * r.trailU) ≠ .held va

/-- The header of a trail lies at device physical address b, reached through cached translations that need no update. -/
structure TrailAt (s : State) (r : Region) (b : Nat) : Prop where
  place : ∀ off < 64, s.trailPlace r off = some (.dev (b + off))
  cached : ∀ off < 64, (s.tlbHit (s.trailAgent r) (r.trailBase + BitVec.ofNat 64 off).toNat .store).isSome = true
  settled : ∀ e ∈ s.tlb, e.leaf ||| 0x60 = e.leaf
  memory : s.wf

/-- The region at pa, whose values are kept while it is active. -/
def KeptRegion (s : State) (pa : Nat) (r : Region) : Prop := s.region? pa = some r

end Sys2Proof.Machine
end

