-- ==== Sys2Proof/Certificates/Slice0/Obligations.lean ====
section
/-! DEFINITION. The statements for the provers. Each formalises rules of spec/ in the terms of Sys2Proof/Safety. -/

open Sys2Proof Sys2Proof.Machine

/-! ### Reset, decoding and steps -/

/-- What reset leaves where the spec gives it (R10, R15, R389): boot stage ROM, no launch, no pack, nothing pending, every
thread idle with FPRM, FPFLAGS and UTVEC zero. -/
def Obligations.ResetState : Prop :=
  State.reset.cfield 0x10 7 0 = 1 ∧ State.reset.launches = [] ∧ State.reset.packs = [] ∧ State.reset.binds = []
    ∧ State.reset.flying = [] ∧ State.reset.copies = [] ∧ State.reset.stuck = none
    ∧ ∀ h, (State.reset.thread h).status = .idle ∧ (State.reset.thread h).fprm = 0 ∧ (State.reset.thread h).fpflags = 0
        ∧ (State.reset.thread h).utvec = 0

/-- Every memory has its canonical form after reset. -/
def Obligations.ResetMemoryCanonical : Prop := State.reset.wf

/-- Words of every family that spec/05 to spec/10 write out decode to the instructions that they stand for. -/
def Obligations.WordsDecode : Prop :=
  decode 0x00028A30 0 = .ok (.add 0 5 5 6) ∧ decode 0x16018400 0x240 = .ok (.bfxu 0 3 2 0 9)
    ∧ decode 0x14090A30 0 = .ok (.cmp 0 .lt 2 5 6) ∧ decode 0x1C7FFFFD 0 = .ok (.br 3 0x1FFFFD)
    ∧ decode 0x28010010 0 = .ok (.crr 0 2 0x10) ∧ decode 0x40410209 0 = .ok (.vaddF32 2 2 1 1 .rtz)
    ∧ decode 0x46018210 0x10826904 = .ok (.vfma 0 3 1 2 4 .bf16 .sr 8 9)
    ∧ decode 0x70839048 0 = .ok (.vdotS8 4 7 8 9) ∧ decode 0x5C090210 0 = .ok (.vfcmp 0 .lt 2 1 2 .f32)
    ∧ decode 0x56051828 0x34000010 = .ok (.vtopk 0 10 12 5 13 .f32)
    ∧ decode 0xA6041323 0x1000 = .ok (.ldx 0 8 9 .x64 .sys .acq 0x1000)
    ∧ decode 0xB6020A30 0x1E400000 = .ok (.atom 0 4 5 6 7 .cas .i32 .plain .cl 0)
    ∧ decode 0xC0022810 0 = .ok (.ftst 0 4 20 .s 2) ∧ decode 0xC4050852 0 = .ok (.phWait 0 10 4 10)
    ∧ decode 0xD6050828 0x18100222 = .ok (.cpCvt 0 10 4 5 6 false false false false .bf16 .f32 .rtz 2)
    ∧ decodeStream 0x04000000 = .ok .sEnd ∧ decodeStream 0x0E000005 = .ok (.sLoop 2 5)
    ∧ decodeStream 0x30000032 = .ok (.sRing 0 3 2) ∧ decodeStream 0x64000227 = .ok (.sDrain 1 0 1 1 3)

/-- R107, R110-R123: the bytes of a well-formed instruction decode to it, whatever follows them. -/
def Obligations.EncodedInstructionsDecode : Prop :=
  ∀ (i : Instr) (bs : List Byte), wellFormed i = true → encode i ≠ [] → (∀ b, streamSideOk b i = false) →
    (∀ w, i ≠ .badStreamOp w) → decodeBytes (encodeBytes i ++ bs) = .ok (i, bs)

/-- R245-R248: the word of a well-formed instruction of a stream program decodes to it. -/
def Obligations.EncodedStreamWordsDecode : Prop :=
  ∀ (i : Instr) (b : Bool), wellFormed i = true → streamSideOk b i = true →
    ∃ w, encode i = [w] ∧ w < 2 ^ 32 ∧ decodeStream w = .ok i

/-- A turn of a thread goes to the thread h that the issue slot chooses, which fetches the words at its pc and runs the
instruction that they decode to: exec in the state that the fetch leaves (R107, R124), and what follows every turn; a turn of an
event runs the event's row. A step whose outcome would hold a timestamp above the limit is not taken: REBASE comes first (R66;
that the step is the unit is the model's choice, notes/assumptions/14.md, and so are the agenda and the turns,
notes/assumptions/1.md). -/
def Obligations.StepRunsTheDecodedInstruction : Prop :=
  (∀ (s b : State) (g h : Nat) (rest : List Turn) (i : Instr) (p q : Place) (w0 w1 : Nat),
    s.stuck = none → s.agenda = .thread g :: rest → s.rebaseDue = false → s.replay = none →
    (s.turnBegins rest).issueTurn g = some (h, b) →
    let u := b.fetching h
    CodeWord u u.thr.pc p w0 → decode w0 w1 = .ok i →
    (isLong w0 = false → w1 = 0 → step s = afterTurn s (exec i ((u.lease p 4).fetched w0 0)))
      ∧ (isLong w0 = true → CodeWord u (u.thr.pc + 4) q w1 →
          step s = afterTurn s (exec i (((u.lease p 4).lease q 4).fetched w0 w1))))
  ∧ (∀ (s : State) (e : Event) (rest : List Turn), s.stuck = none → s.agenda = .event e :: rest → s.rebaseDue = false →
    step s = afterTurn s (exec e.row { s.turnBegins rest with ev := some e }))
  ∧ (∀ s : State, s.stuck = none → s.rebaseDue = true →
    step s = afterTurn s (exec .rebase { s.tick Config.cycle with ev := some .rebase }))
  ∧ (∀ (s : State) (g : Nat), s.canIssue g = true →
    ((s.thread g).status = .waiting → s.issueTurn g = some (g, s))
      ∧ ((s.thread g).status ≠ .waiting → ∃ h b, s.issueTurn g = some (h, b) ∧ s.canIssue h = true
          ∧ (s.thread h).status ≠ .waiting ∧ s.slotOf h = s.slotOf g
          ∧ { b with cores := s.cores, threads := s.threads } = s
          ∧ ∀ k, { b.thread k with yielded := (s.thread k).yielded } = s.thread k))
  ∧ ∀ s t : State, s.stuck = none → step s = .next t → s.rebaseDue = false → s.ltime ≤ topStamp → t.ltime ≤ topStamp

/-! ### What stops an instruction before its effect -/

/-- R35: with bit 0 of its guard zero, a guarded instruction only moves on. -/
def Obligations.GuardOffMovesOn : Prop :=
  ∀ (i : Instr) (g : Guard) (s : State), controlGuard i = some g → s.thr.rstate (rp g) = .full →
    (s.thr.preg g).getLsbD 0 = false →
    exec i s = .next (s.setThread s.cur { s.thr with pc := s.thr.pc + BitVec.ofNat 64 (4 * (encode i).length) })

/-- R33, R36: every guarded instruction parks on its guard while that is pending, and, with its guard on, on all the registers
that it reads or writes while one of them is pending; a producer that finds no entry of the pending table parks until one frees,
and does nothing. -/
def Obligations.PendingOperandsPark : Prop :=
  ((∀ (i : Instr) (g : Guard) (s : State), controlGuard i = some g → s.thr.isPending (rp g) = true →
    exec i s = .next (parkedOn s [rp g]))
  ∧ (∀ (i : Instr) (q : Uses) (s : State), usesOf s.thr i = some q → wellFormed i = true → s.thr.isPending (rp q.g) = true →
    exec i s = .next (parkedOn s [rp q.g]))
  ∧ ∀ (i : Instr) (q : Uses) (s : State) (l : List Nat), usesOf s.thr i = some q → wellFormed i = true → q.On i s →
    q.Reads s l → (∃ j ∈ l ++ q.writes, s.thr.isPending j = true) → exec i s = .next (parkedOn s (l ++ q.writes)))
  ∧ (∀ (g : Guard) (d a b : Reg6) (s : State), s.Runs g [rs a, rs b] [rv d] → s.mayBind s.cur = false →
    exec (.vrand g d a b) s = .next (parkedForEntry s))
  ∧ ∀ (i : Instr) (q : Uses) (s : State) (l : List Nat), usesOf s.thr i = some q → wellFormed i = true → q.On i s →
    q.Reads s l → (∀ j ∈ l, s.thr.rstate j = .full) → (∀ j ∈ q.writes, s.thr.isPending j = false) → takesEntry s i →
    s.Quiet → s.mayBind s.cur = false → exec i s = .next (parkedForEntry s)

/-- R37: a poisoned guard traps, and so does the first poisoned register that an executing instruction reads. -/
def Obligations.PoisonedOperandsTrap : Prop :=
  (∀ (i : Instr) (g : Guard) (s : State) (pv : BitVec 32), controlGuard i = some g →
    s.thr.rstate (rp g) = .poisoned pv → exec i s = .next (s.trap (usesPoison (rp g) pv)))
  ∧ (∀ (i : Instr) (q : Uses) (s : State) (pv : BitVec 32), usesOf s.thr i = some q → wellFormed i = true →
    s.thr.rstate (rp q.g) = .poisoned pv → exec i s = .next (s.trap (usesPoison (rp q.g) pv)))
  ∧ ∀ (i : Instr) (q : Uses) (s : State) (l r : List Nat) (j : Nat) (pv : BitVec 32), usesOf s.thr i = some q →
      wellFormed i = true → q.On i s → q.Reads s (l ++ j :: r) →
      (∀ k ∈ l ++ j :: r ++ q.writes, s.thr.isPending k = false) →
      (∀ k ∈ l, s.thr.rstate k = .full) → s.thr.rstate j = .poisoned pv →
      exec i s = .next (s.trap (usesPoison j pv))

/-- R345, R346, R351-R354: a trap with a user handler writes its record into the next slot of the ring, counts it, and enters
the handler with the record's index in TRAPIDX, and no register changes; an ACCESS_FAULT, a trap without a user handler, and one
whose record finds no slot is fatal: the pack's threads issue nothing further, its launch is faulted, and with a record written
the host has the signal. A full ring counts an overflow; a ring that is missing, held, broken or without a usable slot counts in
FRLOST. Where a debugger holds the region, BREAK and WATCH write no record and halt its threads. -/
def Obligations.TrapsAreTaken : Prop :=
  (∀ (s : State) (x : Trap) (h p : Place) (log2n prod cons : Nat),
    x.cause ≠ .accessFault → s.replay = none →
    ((x.cause = .breakpoint ∨ x.cause = .watch) → s.debugged s.thr.pack = false) →
    s.thr.utvec ≠ 0 → RecordRing s h p log2n prod cons →
    let t := s.trap x
    t.thr.pc = BitVec.ofNat 64 (bits s.thr.utvec 51 2 * 4) ∧ t.thr.trapidx = BitVec.ofNat 16 (prod % 2 ^ log2n)
      ∧ (∀ i < 144, t.thr.value i = s.thr.value i ∧ t.thr.rstate i = s.thr.rstate i)
      ∧ x.cause.code = causeCode x.cause ∧ RecordAt s t p prod 2 x ∧ Holds t h 4 ((prod + 1) % 2 ^ 32)
      ∧ (∀ g, g ≠ s.cur → t.thread g = s.thread g) ∧ t.wf)
  ∧ (∀ (s : State) (x : Trap),
    x.cause = .accessFault ∨ ((s.thr.utvec = 0 ∨ (s.recordOf 2 x).2 = 0xFFFF)
      ∧ ((x.cause = .breakpoint ∨ x.cause = .watch) → s.debugged s.thr.pack = false)) →
    s.replay = none →
    let t := s.trap x
    (t.thr.status = .exited ∨ t.thr.status = .idle)
      ∧ (∀ p, s.pack? s.thr.pack = some p → p.out = none → p.killing = false → ∀ g ∈ s.threadsOf p,
          (t.thread g).status = .exited ∨ (t.thread g).status = .idle)
      ∧ (∀ l, t.launch? (s.thr.pack / 2 ^ 24) = some l → l.faulted = true)
      ∧ (x.cause = .accessFault ∨ s.thr.utvec = 0 → (s.recordOf 3 x).2 ≠ 0xFFFF → t.cfield 0x4000 2 2 = 1))
  ∧ ((∀ (s : State) (x : Trap) (h p : Place) (log2n prod cons kind : Nat), RecordRing s h p log2n prod cons →
    let t := (s.recordOf kind x).1
    (s.recordOf kind x).2 = prod % 2 ^ log2n ∧ RecordAt s t p prod kind x ∧ Holds t h 4 ((prod + 1) % 2 ^ 32)
      ∧ t.threads = s.threads ∧ t.wf)
  ∧ (∀ (s : State) (x : Trap) (h : Place) (log2n prod cons ovf kind : Nat), FullRing s h log2n prod cons ovf →
    let t := (s.recordOf kind x).1
    (s.recordOf kind x).2 = 0xFFFF ∧ Holds t (h.add 0x10) 4 (min (2 ^ 32 - 1) (ovf + 1))
      ∧ (∀ q : Place, q.proper → (∀ k < 4, samePlace (h.add (0x10 + k)) q = false) → t.peek q = s.peek q)
      ∧ t.threads = s.threads ∧ t.cores = s.cores)
  ∧ (∀ (s : State) (x : Trap) (kind : Nat), NoRing s ∨ (∃ h, BadHeader s h ∨ NoSlot s h) →
    (s.recordOf kind x).2 = 0xFFFF ∧ OnlyLost s (s.recordOf kind x).1))
  ∧ ∀ (s : State) (x : Trap), x.cause = .breakpoint ∨ x.cause = .watch → s.debugged s.thr.pack = true → s.replay = none →
    let t := s.trap x
    t.mem = s.mem ∧ t.pool = s.pool ∧ t.hostMem = s.hostMem ∧ t.remoteMem = s.remoteMem ∧ t.thr.pc = s.thr.pc
      ∧ t.cfield 0x4000 4 4 = 1
      ∧ (s.detached = [] → ∀ p, s.pack? s.thr.pack = some p → s.cur ∈ s.threadsOf p → t.thr.halted = true)

/-- R16, R57, R76, R124, R125, R149, R155, R197, R198: BRK, a CRW of a register that is read-only and the words that do not
decode raise their traps; words that do not decode raise theirs whatever their guard; a vector instruction in mode DYN while
FPRM holds SR or DYN, VRED.ADD and VPACK too, raises ILLEGAL_OP and writes nothing; an FP add in class D1 that stack logic would
execute, on a memory-side page or on one of another module, held or not, raises DETERMINISM and changes nothing else. -/
def Obligations.TrappingInstructions : Prop :=
  ((∀ (w0 w1 : BitVec 32) (s : State),
    exec (.illegalOp w0 w1) s = .next ({ s with ir0 := w0, ir1 := w1 }.trap ⟨.illegalOp, 0, 0, 0, 0⟩))
  ∧ (∀ (w0 w1 : BitVec 32) (s : State),
    exec (.extAbsent w0 w1) s = .next ({ s with ir0 := w0, ir1 := w1 }.trap ⟨.extAbsent, 0, 0, 0, 0⟩))
  ∧ (∀ (g : Guard) (code : Reg6) (s : State), s.Runs g [] [] →
    exec (.brk g code) s = .next (s.trap ⟨.breakpoint, 0, 0, code.setWidth 64, 0⟩))
  ∧ ∀ (g : Guard) (a : Reg6) (x : BitVec 8) (s : State), ¬writableCr x → s.Runs g [rs a] [] →
    exec (.crw g a x) s = .next (s.trap ⟨.priv, 0, 0, 0, 0⟩))
  ∧ (∀ (i : Instr) (s : State) (m : Rm) (r : LaneEffect), fpOf m s.thr i = some (.dyn, r) ∨ convertOf m s.thr i = some (.dyn, r) →
    modeOf .dyn s.thr.fprm = none → wellFormed i = true → r.ready s →
    exec i s = .next (s.trap ⟨.illegalOp, 0, 0, 0, 0⟩))
  ∧ (∀ (i : Instr) (s : State) (q : VForm), reduceShape i = some (q, .dyn) ∨ gatherShape i = some (q, .dyn) →
    modeOf .dyn s.thr.fprm = none → wellFormed i = true → q.ready s →
    exec i s = .next (s.trap ⟨.illegalOp, 0, 0, 0, 0⟩))
  ∧ (∀ (g : Guard) (d a b : Reg6) (aw : AWidth) (o : Ordr) (sc : Scope) (imm : BitVec 16) (s : State),
    s.Runs g [rs a, rs b] [rs d] → isFpAdd .add aw = true → s.thr.dclass = true →
    let va := s.thr.sreg a + imm.signExtend 64
    va.toNat % atomBytes aw = 0 → s.InStack va →
    exec (.atom g d a b 0 .add aw o sc imm) s = .next (s.trap ⟨.determinism, 0, 0, 0, 0⟩))

/-! ### Scalar and predicate instructions -/

/-- R138-R143: sums, products, quotients, minima, maxima, bitwise operations and shifts complete with their results; BREV and
the bit-field instructions complete, and every bit of the result is the one that the rule names; CLZ, CTZ and POPC complete
with their counts; x = q * y + rem holds modulo 2^64 for every quotient and remainder. -/
def Obligations.ScalarResults : Prop :=
  (∀ (i : Instr) (s : State) (e : Effect), arithmeticOf s.thr i = some e → s.Runs e.g e.reads (e.outs.map (·.1)) →
    Completes i e s)
  ∧ (∀ (i : Instr) (s : State) (e : Effect), logicOf s.thr i = some e → s.Runs e.g e.reads (e.outs.map (·.1)) → Completes i e s)
  ∧ (∀ (i : Instr) (s : State) (g : Guard) (reads : List Nat) (d : Reg6) (len : Nat),
    bitsForm i = some (g, reads, d, len) → wellFormed i = true → s.Runs g reads [rs d] →
    ∃ x, Completes i (.toS g reads d x len) s ∧ ∀ j < 64, bitsOf s.thr x j i)
  ∧ (∀ (i : Instr) (s : State) (g : Guard) (a d : Reg6), countForm i = some (g, a, d) → s.Runs g [rs a] [rs d] →
    ∃ n, Completes i (.toS g [rs a] d (BitVec.ofNat 64 n) 4) s ∧ countOf s.thr n i)
  ∧ (∀ (signed : Bool) (g : Guard) (d c a b : Reg6) (s : State), s.Runs g [rs a, rs b] [rs d, rs c] →
    isConst (rs d) = false → isConst (rs c) = false →
    ∃ t u, exec (if signed then .divs g d a b else .divu g d a b) s = .next t
      ∧ exec (if signed then .rems g c a b else .remu g c a b) s = .next u
      ∧ t.thr.sreg d * s.thr.sreg b + u.thr.sreg c = s.thr.sreg a)

/-- R144, R145: a compare writes all ones or zero, and the complement into the next predicate register; the predicate
instructions complete with their results. -/
def Obligations.PredicateResults : Prop :=
  (∀ (i : Instr) (s : State) (e : Effect), compareOf s.thr i = some e → wellFormed i = true →
    s.Runs e.g e.reads (e.outs.map (·.1)) → Completes i e s)
  ∧ (∀ (i : Instr) (s : State) (e : Effect), predicateOf s.thr i = some e → s.Runs e.g e.reads (e.outs.map (·.1)) →
    Completes i e s)

/-- R146-R148: branches, calls and jumps to a fetchable target go there; a link register holds pc + 4; a target that is not
a multiple of 4 or lies beyond 2^52 traps, with nothing written. The words of JR and JALR are those of R147. -/
def Obligations.ControlTransfers : Prop :=
  (∀ (g : Guard) (i : BitVec 21) (s : State), s.Runs g [] [] →
    let to' := s.thr.pc + BitVec.ofInt 64 (4 * i.toInt)
    (fetchable to' → ∃ t, exec (.br g i) s = .next t ∧ WritesOnly s t [] 0 to')
      ∧ (¬fetchable to' → exec (.br g i) s = .next (s.trap (badTarget to'))))
  ∧ (∀ (g : Guard) (i : BitVec 21) (s : State), s.Runs g [] [63] →
    let to' := s.thr.pc + BitVec.ofInt 64 (4 * i.toInt)
    (fetchable to' → ∃ t, exec (.call g i) s = .next t ∧ WritesOnly s t [(63, wide (s.thr.pc + 4))] 0 to')
      ∧ (¬fetchable to' → exec (.call g i) s = .next (s.trap (badTarget to'))))
  ∧ (∀ (g : Guard) (a : Reg6) (s : State), s.Runs g [rs a] [] →
    (fetchable (s.thr.sreg a) → ∃ t, exec (.jr g a) s = .next t ∧ WritesOnly s t [] 0 (s.thr.sreg a))
      ∧ (¬fetchable (s.thr.sreg a) → exec (.jr g a) s = .next (s.trap (badTarget (s.thr.sreg a)))))
  ∧ (∀ (g : Guard) (d a : Reg6) (s : State), s.Runs g [rs a] [rs d] →
    (fetchable (s.thr.sreg a) →
        ∃ t, exec (.jalr g d a) s = .next t ∧ WritesOnly s t [(rs d, wide (s.thr.pc + 4))] 0 (s.thr.sreg a))
      ∧ (¬fetchable (s.thr.sreg a) → exec (.jalr g d a) s = .next (s.trap (badTarget (s.thr.sreg a)))))
  ∧ ∀ (g : Guard) (d a : Reg6),
      encode (.jr g a) = [encR 0x11 g 0 a.toNat 0 0]
      ∧ encode (.jalr g d a) = [encR 0x11 g d.toNat a.toNat 0 1]

/-- R15, R102, R126, R149, R150, R349: CRR reads every control register of R15, and FRPTR without a ring reads TRAPIDX alone;
CRW writes the fields of a writable control register, whose reserved bits keep reading zero, and nothing else. -/
def Obligations.ControlRegisters : Prop :=
  ((∀ (g : Guard) (d : Reg6) (x : BitVec 8) (s : State), x ≠ 0x31 → wellFormed (.crr g d x) = true → s.Runs g [] [rs d] →
    Completes (.crr g d x) (.toS g [] d (crValue s x) 4) s)
  ∧ ∀ (g : Guard) (d : Reg6) (s : State), s.thr.frbase = 0 → s.Runs g [] [rs d] →
    Completes (.crr g d 0x31) (.toS g [] d (BitVec.ofNat 64 (s.thr.trapidx.toNat * 2 ^ 48)) 4) s)
  ∧ (∀ (g : Guard) (a : Reg6) (x : BitVec 8) (s : State), writableCr x → s.Runs g [rs a] [] →
    ∃ t, exec (.crw g a x) s = .next t ∧ CrWritten x (s.thr.sreg a) s.thr t.thr ∧ t = s.setThread s.cur t.thr)

/-- R153, R154: YIELD gives way once and moves on; EXIT detaches every pending register with DROPPED, frees the registrations
and ends the thread; without a registration it waits for nothing. -/
def Obligations.YieldAndExit : Prop :=
  (∀ (g : Guard) (s : State), s.Runs g [] [] →
    exec (.yield g) s = .next (s.setThread s.cur { s.thr with yielded := true, pc := s.thr.pc + 4 }))
  ∧ ∀ (g : Guard) (s : State), s.Runs g [] [] →
    (s.thr.regs ≠ [] → s.Quiet ∧ ∀ r ∈ s.thr.regs, s.locate (s.agentOf s.cur) r.va .rmw ≠ .held) →
    ∃ t, exec (.exit g) s = .next t ∧ t.thr.status = .exited ∧ t.thr.regs = []
      ∧ (s.thr.regs = [] → ∀ i < 144, isConst i = false →
          t.thr.rstate i = if s.thr.isPending i = true then .poisoned 0xFFFF0002 else s.thr.rstate i)

/-! ### Vector instructions -/

/-- R164-R167, R169, R170, R177: the integer forms, VSPLATI, the permutes, VMIN, VMAX, VABS, VNEG, VSEL, VINS, VCOMP and VDOT
complete element by element under their guard, as their rules say. -/
def Obligations.VectorLanes : Prop :=
  (∀ (i : Instr) (s : State) (r : LaneEffect), lanesOf s.thr i = some r → r.ready s → Merges i r s)
  ∧ (∀ (i : Instr) (s : State) (r : LaneEffect), widthsOf s.thr i = some r → r.ready s → Merges i r s)
  ∧ (∀ (i : Instr) (s : State) (r : LaneEffect), permuteOf s.thr i = some r → r.ready s → Merges i r s)
  ∧ (∀ (i : Instr) (s : State) (r : LaneEffect), signOf s.thr i = some r → wellFormed i = true → r.ready s → Merges i r s)
  ∧ (∀ (i : Instr) (s : State) (q : VForm), selectShape i = some q → q.ready s →
    Gives i q s fun xs fl => selectSays s.thr xs fl i)

/-- R162, R163, R171-R173, R176: the rounding arithmetic and the conversions complete in the mode that applies, one rounding
for each active element. -/
def Obligations.VectorRounding : Prop :=
  (∀ (i : Instr) (s : State) (rm m : Rm) (r : LaneEffect), fpOf m s.thr i = some (rm, r) →
    modeOf rm s.thr.fprm = some m → wellFormed i = true → r.ready s → Merges i r s)
  ∧ (∀ (i : Instr) (s : State) (rm m : Rm) (r : LaneEffect), convertOf m s.thr i = some (rm, r) →
    modeOf rm s.thr.fprm = some m → wellFormed i = true → r.ready s → Merges i r s)

/-- R168: the vector compares write their pair lane by lane. -/
def Obligations.VectorCompares : Prop :=
  ∀ (i : Instr) (s : State) (q : VForm), vcompareShape i = some q → wellFormed i = true → q.ready s →
    Gives i q s fun xs fl => vcompareSays s.thr xs fl i

/-- R98, R174, R175, R178-R182: the reductions complete with the root of the fixed tree over the active elements; VHIST,
VPACK and VTOPK complete with the counts, the blocks and the order of their rules. -/
def Obligations.VectorReductions : Prop :=
  (∀ (i : Instr) (s : State) (rm m : Rm) (q : VForm), reduceShape i = some (q, rm) → modeOf rm s.thr.fprm = some m →
    wellFormed i = true → q.ready s → Gives i q s fun xs fl => reduceSays s.thr m xs fl i)
  ∧ (∀ (i : Instr) (s : State) (rm m : Rm) (q : VForm), gatherShape i = some (q, rm) → modeOf rm s.thr.fprm = some m →
    wellFormed i = true → q.ready s → Gives i q s fun xs fl => gatherSays s.thr m xs fl i)

/-- R84, R85, R91, R94, R163: a value that a format represents rounds to its own encoding, in every mode, and raises no flag; a
NaN operand of a sum, a product or a fused multiply-add, the addend too, gives the default NaN, and only a signalling one raises
invalid there, or a product of zero and infinity in a fused multiply-add. -/
def Obligations.RoundingKeepsValues : Prop :=
  (∀ (f : Fmt) (rm : Rm) (r x : Nat), f ∈ [fp32, bf16, fp16, fpE4m3, fpE5m2] → x < 2 ^ f.width →
    (f.val x).isNan = false → f.round rm r (f.val x).exact = (x, 0))
  ∧ (∀ (f : Fmt) (rm : Rm) (r : Nat) (x y z : Val), x.isNan = true ∨ y.isNan = true →
    f.finish rm r (addV rm x y) = (f.nan, if x.isSig || y.isSig then Fl.invalid else 0)
      ∧ f.finish rm r (mulV x y) = (f.nan, if x.isSig || y.isSig then Fl.invalid else 0)
      ∧ (f.finish rm r (fmaV false false rm x y z)).1 = f.nan)
  ∧ ∀ (f : Fmt) (np nz : Bool) (rm : Rm) (r : Nat) (x y z : Val), x.isNan = true ∨ y.isNan = true ∨ z.isNan = true →
    f.finish rm r (fmaV np nz rm x y z)
      = (f.nan, if x.isSig || y.isSig || z.isSig || zeroTimesInf x y || zeroTimesInf y x then Fl.invalid else 0)

/-! ### Memory -/

/-- R184, R185, R188, R190, R192-R194: a load binds its destination, a vector load under the mask of its active elements, and
its completion sets out with the bytes at its addresses, a scalar one extended as its size says; no byte of memory changes.
-/
def Obligations.LoadsReadTheirBytes : Prop :=
  (∀ (i : Instr) (s : State) (l : LoadForm) (sz : LdSz) (place : Part → Place), scalarLoadOf s.thr i = some (l, sz) →
    l.Ready s place → (s.thr.preg l.g).getLsbD 0 = true →
    Loads i l s fun v => ∃ x : Vec, Image s l.parts place x ∧ v = wide (extended sz (x.toNat % 2 ^ (8 * loadBytes sz))))
  ∧ (∀ (i : Instr) (s : State) (l : LoadForm) (place : Part → Place), vectorLoadOf s.thr i = some l → l.Ready s place →
    Loads i l s fun v => Image s l.parts place v)

/-- R12, R63, R192: the bytes that a contiguous access names are those of the active elements, each in one part at its own
address; those of a strided or indexed access are slot e of each active element, in the element's parts. -/
def Obligations.VectorPartsCoverActiveElements : Prop :=
  (∀ (w : Width) (pg va : Word) (b : Nat), b < 256 →
    ((contiguousMask (widthBits w) pg).getLsbD b = true ↔ activates (widthBits w) pg (8 * b / widthBits w))
      ∧ ((contiguousMask (widthBits w) pg).getLsbD b = true →
          ∃ p ∈ contiguousParts (contiguousMask (widthBits w) pg) va,
            p.pos ≤ b ∧ b < p.pos + p.len ∧ p.va = va + BitVec.ofNat 64 p.pos))
  ∧ ∀ (w : Width) (pg : Word) (addr : Nat → Word) (e k : Nat), e < 2048 / guardWidth (widthBits w) → k < widthBits w / 8 →
      let es := slotElems (widthBits w) pg addr
      let b := e * (widthBits w / 8) + k
      ((elemMask es).getLsbD b = true ↔ activates (guardWidth (widthBits w)) pg e)
        ∧ (activates (guardWidth (widthBits w)) pg e → ∃ p ∈ elemParts es,
            p.pos ≤ b ∧ b < p.pos + p.len ∧ p.va + BitVec.ofNat 64 (b - p.pos) = addr e + BitVec.ofNat 64 k)

/-- R65, R69, R73, R184, R188, R190, R192-R194: a store writes its bytes, a vector store those of its active elements, and no
other; a store that is a release at SYS waits while an earlier access is not acknowledged: it changes nothing. -/
def Obligations.StoresWriteTheirBytes : Prop :=
  (∀ (i : Instr) (s : State) (m : StoreForm) (place : Part → Place), scalarStoreOf s.thr i = some m →
    s.Runs m.g m.reads [] → m.Ready s place → Stores i m s place)
  ∧ (∀ (i : Instr) (s : State) (m : StoreForm) (place : Part → Place), vectorStoreOf s.thr i = some m →
    s.Ready m.g m.reads [] → m.Ready s place → Stores i m s place)
  ∧ (∀ (g : Guard) (d a : Reg6) (w : Width) (imm : BitVec 32) (s : State) (m : StoreForm) (place : Part → Place),
    scalarStoreOf s.thr (.stx g d a w .sys .rel imm) = some m → s.Runs m.g m.reads [] → s.Plain →
    (∀ p ∈ m.parts, s.Reaches p.va .store (place p)) → s.thr.unacked ≠ [] →
    exec (.stx g d a w .sys .rel imm) s = .next (s.setThread s.cur { s.thr with status := .waiting }))

/-- R62, R72, R73, R195: a FENCE writes its status word; at SYS, with every access acknowledged, it reports and clears the
counters; otherwise it waits. It waits at every scope, as every access does, while an earlier load or atomic of the thread waits
on a held page. -/
def Obligations.FenceReports : Prop :=
  (∀ (g : Guard) (d : Reg6) (sc : Scope) (s : State), sc ≠ .sys → s.behind = false → s.Runs g [] [rs d] →
    Completes (.fence g d sc) (.toS g [] d (BitVec.ofNat 64 (s.thr.count.toNat * 2 ^ 32)) 4) s)
  ∧ (∀ (g : Guard) (d : Reg6) (s : State), s.thr.unacked = [] → s.behind = false → s.Runs g [] [rs d] →
    ∃ t, exec (.fence g d .sys) s = .next t ∧ t.thr.count = 0 ∧ t.thr.deadlink = 0 ∧ t.thr.refused = 0
      ∧ t.thr.value (rs d) = (if isConst (rs d) then s.thr.value (rs d) else wide (BitVec.ofNat 64
          (s.thr.count.toNat * 2 ^ 32 + s.thr.deadlink.toNat * 2 ^ 16 + s.thr.refused.toNat)))
      ∧ t.thr.rstate (rs d) = .full ∧ t.thr.pc = s.thr.pc + 4 ∧ { t with threads := s.threads } = s
      ∧ (∀ h, h ≠ s.cur → t.thread h = s.thread h)
      ∧ ∀ i < 144, i ≠ rs d → t.thr.value i = s.thr.value i ∧ t.thr.rstate i = s.thr.rstate i)
  ∧ (∀ (g : Guard) (d : Reg6) (s : State), s.thr.unacked ≠ [] → s.Runs g [] [rs d] →
    exec (.fence g d .sys) s = .next (s.setThread s.cur { s.thr with status := .waiting }))
  ∧ ∀ (g : Guard) (d : Reg6) (sc : Scope) (s : State), (∃ h ∈ s.held, HeldAccess s h) → s.Runs g [] [rs d] →
    exec (.fence g d sc) s = .next (s.setThread s.cur { s.thr with status := .waiting })

/-- R57, R75, R76, R185, R196-R198: an aligned atomic reads its location and writes it in one access: its completion sets out
with the old value and the class of the unit that executes it, and the location holds what the operation leaves. A misaligned
one traps. -/
def Obligations.Atomics : Prop :=
  ∀ (g : Guard) (d a b c : Reg6) (op : AOp) (aw : AWidth) (o : Ordr) (sc : Scope) (imm : BitVec 16) (s : State),
    wellFormed (.atom g d a b c op aw o sc imm) = true →
    s.Issuable g ([rs a, rs b] ++ if op = .cas then [rs c] else []) (rs d) →
    let va := s.thr.sreg a + imm.signExtend 64
    let n := atomBytes aw
    (va.toNat % n ≠ 0 → exec (.atom g d a b c op aw o sc imm) s = .next (s.trap ⟨.misalign, 0, va, 0, 0⟩))
    ∧ ∀ (p : Place) (old : Nat), va.toNat % n = 0 → s.Plain → s.wf → s.Reaches va .rmw p → p.spans n →
      ((o = .rel ∨ o = .ar) ∧ sc = .sys → s.thr.unacked = []) →
      (s.thr.dclass = true → isFpAdd op aw = true → ¬s.InStack va) →
      Holds s p n old → old < 2 ^ (8 * n) →
      let new := atomLeaves op aw old ((s.thr.sreg b).toNat % 2 ^ (8 * n)) ((s.thr.sreg c).toNat % 2 ^ (8 * n))
      ∃ t tag cls, exec (.atom g d a b c op aw o sc imm) s = .next t
        ∧ Issued s t (rs d) cls (BitVec.allOnes 256) 8 (if p.sc then [] else [.done]) tag
        ∧ (s.InStack va → cls = Cls.stack) ∧ (¬s.InStack va → cls = Cls.lsu)
        ∧ Answers s t tag (.full (wide (BitVec.ofNat 64 old)))
        ∧ Holds t p n (new.getD old)
        ∧ (∀ q : Place, q.proper → (∀ k < n, samePlace (p.add k) q = false) → t.peek q = s.peek q)
        ∧ OnlyStores s t ∧ t.wf

/-- R34: the issue tag of a new binding is new: no binding holds its entry, and neither a binding nor a completion under way
carries the tag, as long as the core has an entry for which that is so; a producer that finds no such entry does not issue. -/
def Obligations.NewTagsAreNew : Prop :=
  ∀ (s : State) (g i cls : Nat) (mask : BitVec 256),
    let taken := fun (e : Nat) => s.binds.any fun b =>
      (b.holder.isSome && b.entryCore == g / 8 && b.entry == e)
        || (b.tag.core == g / 8 && b.tag.slot == e && b.tag.epoch == (s.epoch (g / 8) e + 1) % 256)
    let flies := fun (e : Nat) => s.flying.any fun f =>
      f.tag.core == g / 8 && f.tag.slot == e && f.tag.epoch == (s.epoch (g / 8) e + 1) % 256
    ((∃ e < 512, taken e = false ∧ flies e = false) →
      let tag := (s.bind g i cls mask).2
      tag.core = g / 8 ∧ tag.cls = cls ∧ tag.slot < 512 ∧ tag.epoch = (s.epoch (g / 8) tag.slot + 1) % 256
        ∧ (∀ b ∈ s.binds, b.tag ≠ tag) ∧ (∀ f ∈ s.flying, f.tag ≠ tag)
        ∧ ∀ b ∈ s.binds, b.holder.isSome = true → b.entryCore = g / 8 → b.entry ≠ tag.slot)
    ∧ ((∀ e < 512, taken e = true ∨ flies e = true) → s.mayBind g = false)

/-! ### Future control, completions, waits -/

/-- R42-R46: FTST tests the state of a register against its set, and FWAIT completes on a full register; FMOV moves what a
register holds, its binding too, and leaves MOVED; FDROP detaches a register and leaves DROPPED; FPOISON leaves its code. -/
def Obligations.Futures : Prop :=
  (∀ (i : Instr) (s : State) (e : Effect), futureOf s.thr i = some e → wellFormed i = true →
    s.Runs e.g e.reads (e.outs.map (·.1)) → Completes i e s)
  ∧ ((∀ (g : Guard) (d a : Reg6) (cl : RClass) (s : State), wellFormed (.fmov g d a cl) = true → d ≠ a →
    s.Runs g [] [registerOf cl d] → isConst (registerOf cl a) = false → isConst (registerOf cl d) = false →
    ∃ t, exec (.fmov g d a cl) s = .next t ∧ t.thr.rstate (registerOf cl d) = s.thr.rstate (registerOf cl a)
      ∧ t.thr.value (registerOf cl d) = s.thr.value (registerOf cl a)
      ∧ t.thr.rstate (registerOf cl a) = .poisoned 0xFFFF0001
      ∧ (∀ i < 144, i ≠ registerOf cl d → t.thr.value i = s.thr.value i)
      ∧ (∀ i < 144, i ≠ registerOf cl d → i ≠ registerOf cl a → t.thr.rstate i = s.thr.rstate i)
      ∧ (s.thr.isPending (registerOf cl a) = true → t.binds = s.binds.map fun b =>
          if b.loc = .reg s.cur (registerOf cl a) then { b with loc := .reg s.cur (registerOf cl d) } else b)
      ∧ t.thr.pc = s.thr.pc + 4)
  ∧ (∀ (g : Guard) (d a : Reg6) (cl : RClass) (s : State), wellFormed (.fmov g d a cl) = true → d ≠ a →
    s.Runs g [] [registerOf cl d] → isConst (registerOf cl a) = true ∨ isConst (registerOf cl d) = true →
    ∃ t, exec (.fmov g d a cl) s = .next t ∧ t.thr.pc = s.thr.pc + 4
      ∧ (isConst (registerOf cl d) = false → t.thr.value (registerOf cl d) = s.thr.value (registerOf cl a)
          ∧ t.thr.rstate (registerOf cl d) = s.thr.rstate (registerOf cl a))
      ∧ (isConst (registerOf cl a) = false → t.thr.rstate (registerOf cl a) = .poisoned 0xFFFF0001)
      ∧ ∀ i < 144, i ≠ registerOf cl d → i ≠ registerOf cl a →
          t.thr.value i = s.thr.value i ∧ t.thr.rstate i = s.thr.rstate i)
  ∧ (∀ (g : Guard) (d : Reg6) (cl : RClass) (s : State), s.Runs g [] [] →
    exec (.fmov g d d cl) s = .next (s.setThread s.cur { s.thr with pc := s.thr.pc + 4 }))
  ∧ (∀ (g : Guard) (d : Reg6) (cl : RClass) (s : State), wellFormed (.fdrop g d cl) = true → s.Runs g [] [] →
    isConst (registerOf cl d) = false →
    ∃ t, exec (.fdrop g d cl) s = .next t ∧ t.thr.rstate (registerOf cl d) = .poisoned 0xFFFF0002
      ∧ (∀ b ∈ t.binds, b.loc ≠ .reg s.cur (registerOf cl d))
      ∧ (∀ i < 144, i ≠ registerOf cl d → t.thr.rstate i = s.thr.rstate i) ∧ t.thr.pc = s.thr.pc + 4)
  ∧ ∀ (g : Guard) (d : Reg6) (cl : RClass) (code : BitVec 16) (s : State), wellFormed (.fpoison g d cl code) = true →
    s.Runs g [] [registerOf cl d] → isConst (registerOf cl d) = false →
    ∃ t, exec (.fpoison g d cl code) s = .next t
      ∧ OnlyState s t (registerOf cl d) (.poisoned (BitVec.ofNat 32 (0xFFFF * 2 ^ 16 + code.toNat))) 8)

/-- R45: FWAIT parks while its register is pending, raises POISON_USE on a poisoned register, and otherwise only
moves on. -/
def Obligations.FwaitIsAFirstUse : Prop :=
  ∀ (g : Guard) (a : Reg6) (cl : RClass) (s : State), wellFormed (.fwait g a cl) = true → s.thr.rstate (rp g) = .full →
    (s.thr.preg g).getLsbD 0 = true →
    (∀ tag, s.thr.rstate (registerOf cl a) = .pending tag →
      exec (.fwait g a cl) s = .next (parkedOn s [registerOf cl a]))
    ∧ (∀ pv, s.thr.rstate (registerOf cl a) = .poisoned pv →
        exec (.fwait g a cl) s = .next (s.trap (usesPoison (registerOf cl a) pv)))
    ∧ (s.thr.rstate (registerOf cl a) = .full →
        exec (.fwait g a cl) s = .next (s.setThread s.cur { s.thr with pc := s.thr.pc + 4 }))

/-- R32, R34, R39, R44, R52, R54, R55: a completion reaches the register of its binding under the binding's mask, or poisons
it; that of a detached binding, and that of a binding whose context is gone, is discarded and counted (at the core that issued
the command: notes/assumptions/37.md); one whose pending-table entry holds an uncorrectable soft error delivers poison with code
0x0050 (R415). -/
def Obligations.CompletionsArrive : Prop :=
  (∀ (s : State) (k : Nat) (f : Flight) (b : Bind) (g i : Nat) (v : Vec), s.ev = some (.completion k) →
    s.flying[k]? = some f → (s.binds.find? fun b => b.tag == f.tag) = some b → b.loc = .reg g i → i < 144 →
    isConst i = false → f.res = .full v → Mark.pending f.tag ∉ s.marks →
    ∃ t, exec .completion s = .next t ∧ (t.thread g).rstate i = .full ∧ t.flying = s.flying.eraseIdx k
      ∧ t.binds = s.binds.filter (fun x => x.tag ≠ f.tag)
      ∧ (i < 64 ∨ 128 ≤ i → (t.thread g).value i = wide (v.setWidth 64))
      ∧ (64 ≤ i → i < 128 → ∀ n < 256,
          elem 8 ((t.thread g).value i) n = if b.mask.getLsbD n then elem 8 v n else elem 8 ((s.thread g).value i) n)
      ∧ (∀ h j, j < 144 → (h, j) ≠ (g, i) → (t.thread h).value j = (s.thread h).value j
          ∧ (t.thread h).rstate j = (s.thread h).rstate j)
      ∧ ∀ h, (t.thread h).pc = (s.thread h).pc)
  ∧ (∀ (s : State) (k : Nat) (f : Flight) (b : Bind) (g i : Nat) (pv : BitVec 32), s.ev = some (.completion k) →
    s.flying[k]? = some f → (s.binds.find? fun b => b.tag == f.tag) = some b → b.loc = .reg g i → i < 144 →
    isConst i = false → f.res = .recorded pv → Mark.pending f.tag ∉ s.marks →
    ∃ t, exec .completion s = .next t ∧ (t.thread g).rstate i = .poisoned pv
      ∧ (t.thread g).value i = (s.thread g).value i ∧ t.binds = s.binds.filter (fun x => x.tag ≠ f.tag))
  ∧ (∀ (s : State) (k : Nat) (f : Flight) (b : Bind) (g i : Nat), s.ev = some (.completion k) →
    s.flying[k]? = some f → (s.binds.find? fun b => b.tag == f.tag) = some b → b.loc = .reg g i → i < 144 →
    isConst i = false → (∀ key base log2n eb, f.res ≠ .reset key base log2n eb) → Mark.pending f.tag ∈ s.marks →
    ∃ t pv, exec .completion s = .next t ∧ (t.thread g).rstate i = .poisoned pv ∧ pv.toNat % 2 ^ 16 = 0x50
      ∧ (t.thread g).value i = (s.thread g).value i ∧ t.binds = s.binds.filter (fun x => x.tag ≠ f.tag)
      ∧ Mark.pending f.tag ∉ t.marks)
  ∧ ∀ (s : State) (k : Nat) (f : Flight) (b : Bind) (v : Vec), s.ev = some (.completion k) →
    s.flying[k]? = some f → (s.binds.find? fun b => b.tag == f.tag) = some b → f.res = .full v → Mark.pending f.tag ∉ s.marks →
    b.loc = .dropped ∨ (b.loc = .stale ∧ ∀ x ∈ s.binds, x.tag = f.tag → x.loc = .stale) →
    ∃ t, exec .completion s = .next t ∧ t.binds = s.binds.filter (fun x => x.tag ≠ f.tag)
      ∧ (∀ h, (t.thread h).pc = (s.thread h).pc
          ∧ ∀ j < 144, (t.thread h).value j = (s.thread h).value j ∧ (t.thread h).rstate j = (s.thread h).rstate j)
      ∧ (b.loc = .dropped → (t.core f.tag.core).cpldrop = (s.core f.tag.core).cpldrop + 1
          ∧ (t.core f.tag.core).cplstale = (s.core f.tag.core).cplstale)
      ∧ (b.loc = .stale → (t.core f.tag.core).cplstale = (s.core f.tag.core).cplstale + 1
          ∧ (t.core f.tag.core).cpldrop = (s.core f.tag.core).cpldrop)

/-- R202, R204-R206, R208: the phaser forms change the phaser and the registrations as their rules say, and nothing flips
where the condition of R202 does not hold; the arrival that meets it flips the phaser: the phase advances, the counts of the
phase are cleared, and every pending PH.WAIT of the phaser completes with its word. A form without an effect only moves on, and
a ninth registration is ILLEGAL_OP. -/
def Obligations.PhaserForms : Prop :=
  ((∀ (g : Guard) (a b : Reg6) (s : State) (p : Place), s.AtPhaser g [rs a, rs b] (s.thr.sreg a) p →
    let x := s.ph p
    let sig := (s.thr.sreg b).getLsbD 0
    let wait := (s.thr.sreg b).getLsbD 1
    let y := { x with nsig := if sig then x.nsig + 1 else x.nsig, nwait := if wait then x.nwait + 1 else x.nwait }
    sig = true ∨ wait = true → x.broken = false → s.thr.reg? (s.thr.sreg a) = none → s.thr.regs.length < 8 → ¬flipsNow y →
    ∃ t, exec (.phReg g a b) s = .next t ∧ PhaserLeft s t p y
      (s.thr.regs ++ [{ va := s.thr.sreg a, sig := sig, wait := wait, inc := x.inc, arrived := x.phase - 1 }]) 4)
  ∧ (∀ (g : Guard) (a b : Reg6) (s : State) (p : Place) (r : Registration),
    s.AtPhaser g [rs a, rs b] (s.thr.sreg a) p →
    let x := s.ph p
    let sig := (s.thr.sreg b).getLsbD 0
    let wait := (s.thr.sreg b).getLsbD 1
    let y := withRole x r sig wait
    sig = true ∨ wait = true → x.broken = false → Registered s.thr (s.thr.sreg a) r → r.inc = x.inc → ¬flipsNow y →
    ∃ t, exec (.phRole g a b) s = .next t ∧ PhaserLeft s t p y
      (replaced s.thr { r with sig := sig, wait := wait,
                               arrived := if (sig && !r.sig) = true then x.phase - 1 else r.arrived }) 4)
  ∧ (∀ (g : Guard) (a : Reg6) (s : State) (p : Place) (r : Registration), s.AtPhaser g [rs a] (s.thr.sreg a) p →
    let y := withRole (s.ph p) r false false
    (s.ph p).broken = false → Registered s.thr (s.thr.sreg a) r → r.inc = (s.ph p).inc → ¬flipsNow y →
    ∃ t, exec (.phDereg g a) s = .next t ∧ PhaserLeft s t p y (otherRegs s.thr (s.thr.sreg a)) 4)
  ∧ (∀ (g : Guard) (a : Reg6) (s : State) (p : Place) (r : Registration), s.AtPhaser g [rs a] (s.thr.sreg a) p →
    let x := s.ph p
    let y := { x with narr := x.narr + 1 }
    x.broken = false → Registered s.thr (s.thr.sreg a) r → r.inc = x.inc → r.sig = true → r.arrived ≠ x.phase → ¬flipsNow y →
    ∃ t, exec (.phArrive g a) s = .next t ∧ PhaserLeft s t p y (replaced s.thr { r with arrived := x.phase }) 4)
  ∧ (∀ (g : Guard) (a b : Reg6) (s : State) (p : Place), s.AtPhaser g [rs a, rs b] (s.thr.sreg a) p →
    (s.ph p).broken = true ∨ ((s.ph p).nsig = 0 ∧ (s.ph p).nwait = 0) →
    ∃ t, exec (.phInit g a b) s = .next t ∧ PhaserLeft s t p
      { phase := 0, nsig := 0, nwait := 0, narr := 0, tolerant := (s.thr.sreg b).getLsbD 63, broken := false, fault := false,
        lfault := false, inc := (s.ph p).inc + 1, expb := (s.thr.sreg b).toNat % 2 ^ 40, arrb := 0 } s.thr.regs 4)
  ∧ (∀ (g : Guard) (a b : Reg6) (s : State) (p : Place), s.AtPhaser g [rs a, rs b] (s.thr.sreg a) p →
    (s.ph p).broken = false → 0 < (s.ph p).nsig.toNat + (s.ph p).nwait.toNat →
    ∃ t, exec (.phInit g a b) s = .next t ∧ t.ph p = { s.ph p with broken := true } ∧ t.thr.pc = s.thr.pc + 4
      ∧ t.phWaits = s.phWaits.filter (fun w => !samePlace w.place p)
      ∧ t.flying = s.flying ++ ((s.phWaits.filter fun w => samePlace w.place p).map fun w =>
          { tag := w.tag, ctx := w.ctx, res := .poison 0x31 0 0 0 }))
  ∧ ∀ (g : Guard) (a : Reg6) (s : State) (p : Place) (r : Registration), s.AtPhaser g [rs a] (s.thr.sreg a) p →
    (s.ph p).broken = false → Registered s.thr (s.thr.sreg a) r → r.inc = (s.ph p).inc → r.sig = true →
    r.arrived = (s.ph p).phase →
    exec (.phArrive g a) s = .next (s.setThread s.cur { s.thr with status := .waiting }))
  ∧ ((∀ (i : Instr) (g : Guard) (a b : Reg6) (s : State) (p : Place), s.AtPhaser g [rs a, rs b] (s.thr.sreg a) p →
    (i = .phReg g a b ∧ (s.thr.sreg b).toNat % 4 = 0)
      ∨ (s.thr.reg? (s.thr.sreg a) = none ∧ (i = .phRole g a b ∨ i = .phDereg g a ∨ i = .phArrive g a)) →
    exec i s = .next (s.setThread s.cur { s.thr with pc := s.thr.pc + 4 }))
  ∧ ∀ (g : Guard) (a b : Reg6) (s : State) (p : Place), s.AtPhaser g [rs a, rs b] (s.thr.sreg a) p →
    (s.thr.sreg b).toNat % 4 ≠ 0 → s.thr.reg? (s.thr.sreg a) = none → 8 ≤ s.thr.regs.length →
    exec (.phReg g a b) s = .next (s.trap ⟨.illegalOp, 0, 0, 0, 0⟩))
  ∧ (∀ (g : Guard) (a : Reg6) (s : State) (p : Place) (r : Registration), s.AtPhaser g [rs a] (s.thr.sreg a) p →
    let x := s.ph p
    let y := { x with narr := x.narr + 1 }
    x.broken = false → Registered s.thr (s.thr.sreg a) r → r.inc = x.inc → r.sig = true → r.arrived ≠ x.phase →
    flipsNow y → x.fault = false → (∀ o ∈ s.phOwners, s.trailOf o.2 = none) →
    ∃ t, exec (.phArrive g a) s = .next t ∧ t.ph p = flipped y
      ∧ t.thr.regs = replaced s.thr { r with arrived := x.phase } ∧ t.thr.pc = s.thr.pc + 4
      ∧ t.phWaits = s.phWaits.filter (fun w => !samePlace w.place p)
      ∧ t.flying = s.flying ++ ((s.phWaits.filter fun w => samePlace w.place p).map fun w =>
          { tag := w.tag, ctx := w.ctx, res := .full (phaseWord (x.phase + 1) w.token) })
      ∧ ∀ q : Place, q.proper → (∀ k < 32, samePlace (p.add k) q = false) → t.peek q = s.peek q)

/-- R203, R206, R209, R288: PH.WAIT binds its destination; it waits while the phase is its token's, and completes at once, or
is poisoned, otherwise; SEM.WAIT completes with the word that it reads where the condition holds, and reads on where it does
not. -/
def Obligations.PhaserAndSemaphoreWaits : Prop :=
  (∀ (g : Guard) (d a b : Reg6) (s : State) (p : Place), s.Issuable g [rs a, rs b] (rs d) → (s.thr.sreg a).toNat % 32 = 0 →
    s.Reaches (s.thr.sreg a) .load p → p.sc = true →
    (∀ r, s.thr.reg? (s.thr.sreg a) = some r → r.inc = (s.ph p).inc) →
    let x := s.ph p
    let token := (s.thr.sreg b).toNat % 2 ^ 32
    let waits := (s.thr.reg? (s.thr.sreg a)).any fun r => r.wait
    ∃ t tag, exec (.phWait g d a b) s = .next t ∧ Issued s t (rs d) Cls.phaser (BitVec.allOnes 256) 4 [] tag
      ∧ (x.broken = true → Answers s t tag (.poison 0x31 0 0 0) ∧ t.phWaits = s.phWaits)
      ∧ (x.broken = false → waits = false → Answers s t tag (.poison 0x11 0 0 0x0A) ∧ t.phWaits = s.phWaits)
      ∧ (x.broken = false → waits = true → x.phase.toNat = token →
          t.flying = s.flying ∧ t.phWaits = s.phWaits ++ [{ tag := tag, ctx := s.ctx, va := s.thr.sreg a, place := p, token := token }])
      ∧ (x.broken = false → waits = true → x.phase.toNat ≠ token →
          (x.lfault = true ∧ x.phase.toNat = (token + 1) % 2 ^ 32 → Answers s t tag (.poison 0x30 0 0 0))
            ∧ (¬(x.lfault = true ∧ x.phase.toNat = (token + 1) % 2 ^ 32) →
                Answers s t tag (.full (phaseWord x.phase token)))))
  ∧ (∀ (g : Guard) (d a b : Reg6) (c : SCond) (s : State) (p : Place) (w : Word), s.Issuable g [rs a, rs b] (rs d) →
    (s.thr.sreg a).toNat % 8 = 0 → s.Reaches (s.thr.sreg a) .load p → p.sc = true → Holds s p 8 w.toNat →
    ∃ t tag, exec (.semWait g d a b c) s = .next t ∧ Issued s t (rs d) Cls.phaser (BitVec.allOnes 256) 4 [] tag
      ∧ (semHolds c w (s.thr.sreg b) → Answers s t tag (.full (wide w)) ∧ OnlyIssues s t)
      ∧ (¬semHolds c w (s.thr.sreg b) → t.flying = s.flying ∧ t.semWaits = s.semWaits ++
          [{ tag := tag, ctx := s.ctx, va := s.thr.sreg a, place := p, y := s.thr.sreg b, cond := c }]))

/-- R210, R372, R373: TMARK parks on every pending register; with the trail disabled it returns all ones; with it enabled, no
page of its buffer held and room in it, it completes with the number of the window that it opens there, the next one of the
trail, moves on, and changes no other register and no other thread. -/
def Obligations.TrailMarks : Prop :=
  (∀ (g : Guard) (d : Reg6) (s : State), s.Runs g [] [] → (∃ i < 144, s.thr.isPending i = true) →
    exec (.tmark g d) s = .next (parkedOn s ((List.range 144).filter fun i => s.thr.isPending i)))
  ∧ (∀ (g : Guard) (d : Reg6) (s : State), s.Runs g [] [] → (∀ i < 144, s.thr.isPending i = false) →
    s.trailOf s.thr.pack = none → Completes (.tmark g d) (.toS g [] d (BitVec.allOnes 64) 4) s)
  ∧ ∀ (g : Guard) (d : Reg6) (s : State) (r : Region), s.Runs g [] [] → (∀ i < 144, s.thr.isPending i = false) →
    s.trailOf s.thr.pack = some r → s.behind = false → s.watches = [] → s.TrailRoom r 17952 →
    ∃ t, exec (.tmark g d) s = .next t ∧ s.ltime + 1 < t.ltime ∧ t.thr.pc = s.thr.pc + 4
      ∧ t.thr.value (rs d) = (if isConst (rs d) then s.thr.value (rs d) else wide (BitVec.ofNat 64 (s.trailNext r)))
      ∧ t.thr.rstate (rs d) = .full
      ∧ (∀ i < 144, i ≠ rs d → t.thr.value i = s.thr.value i ∧ t.thr.rstate i = s.thr.rstate i)
      ∧ ∀ h, h ≠ s.cur → t.thread h = s.thread h

/-- R101, R103-R106, R231-R233: QSEQ and QSEQ.LANE complete with the scrambled points of their indices in the dimension's
direction words, each word as memory holds it or as it was cached; an index or a dimension out of range is refused; SCRAMBLE
0b11 traps; QTBL reads the direction words of its dimensions into the core's cache and completes with its word; VRAND
completes with 64 counter-based words. -/
def Obligations.Sequences : Prop :=
  (∀ (lane : Bool) (g : Guard) (d a b : Reg6) (s : State),
    let i : Instr := if lane then .qseqLane g d a b else .qseq g d a b
    let idx := fun (k : Nat) => if lane then elem 32 (s.thr.vreg a) k else (s.thr.sreg a).toNat + k
    let dm := (s.thr.sreg b).toNat
    let addr := dimAddr s.thr dm
    s.Issuable g [if lane then rv a else rs a, rs b] (rv d) →
    (s.thr.seqmode.extractLsb' 0 2 = 3 → exec i s = .next (s.trap ⟨.illegalOp, 0, 0, 0, 0⟩))
    ∧ (s.thr.seqmode.extractLsb' 0 2 ≠ 3 → (∃ k < 64, 2 ^ 32 ≤ idx k) ∨ (s.thr.seqmode.extractLsb' 32 16).toNat < dm →
        Gets i s (rv d) Cls.seq 4 (.poison 0x11 0 0 0x0A))
    ∧ ∀ p : Place, s.thr.seqmode.extractLsb' 0 2 ≠ 3 → (∀ k < 64, idx k < 2 ^ 32) →
        dm ≤ (s.thr.seqmode.extractLsb' 32 16).toNat → s.Reaches addr .load p → p.sc = true →
        ∃ t tag, ∃ x : Vec, ∃ v : Nat → BitVec 32, exec i s = .next t
          ∧ Issued s t (rv d) Cls.seq (BitVec.allOnes 256) 4 [] tag ∧ Answers s t tag (.full x)
          ∧ (∀ k < 32, v k = BitVec.ofNat 32 (lineWord s p k) ∨ v k = BitVec.ofNat 32
              (tget (lineWord s p k) (s.seqCache (s.cur / 8) (s.thr.pack / 2 ^ 24) (dimAddr s.thr 0) (dm / 64)).words
                (32 * dm + k)))
          ∧ ∀ k < 64, Scrambled s.thr.seqmode s.thr.seqkey dm (point v (BitVec.ofNat 32 (idx k)))
              (BitVec.ofNat 32 (elem 32 x k)))
  ∧ ((∀ (g : Guard) (d a b : Reg6) (s : State) (place : Part → Place), s.Issuable g [rs a, rs b] (rs d) →
    s.thr.seqmode.extractLsb' 0 2 ≠ 3 →
    let first := (s.thr.sreg a).toNat
    let n := (s.thr.sreg b).toNat
    1 ≤ n → n ≤ 64 → first / 64 = (first + n - 1) / 64 → first + n - 1 ≤ (s.thr.seqmode.extractLsb' 32 16).toNat →
    (∀ q ∈ partsOf (dimAddr s.thr first) (128 * n), s.Reaches q.va .load (place q) ∧ (place q).sc = true) →
    ∃ t tag, exec (.qtbl g d a b) s = .next t ∧ Issued s t (rs d) Cls.seq (BitVec.allOnes 256) 4 [] tag
      ∧ Answers s t tag (.full (wide (BitVec.ofNat 64 (first / 64 * 2 ^ 32 + 32 * n))))
      ∧ ∀ q ∈ partsOf (dimAddr s.thr first) (128 * n), ∀ k < 32, 4 * k + 4 ≤ q.len → q.pos % 128 = 0 →
          tget 0 (t.seqCache (s.cur / 8) (s.thr.pack / 2 ^ 24) (dimAddr s.thr 0) (first / 64)).words
            (32 * (first + q.pos / 128) + k) = lineWord s (place q) k)
  ∧ ∀ (g : Guard) (d a b : Reg6) (s : State), s.Issuable g [rs a, rs b] (rv d) →
    ∃ x : Vec, Gets (.vrand g d a b) s (rv d) Cls.seq 4 (.full x)
      ∧ ∀ k < 64, elem 32 x k = (hash (s.thr.sreg a) (s.thr.sreg b + BitVec.ofNat 64 k)).toNat % 2 ^ 32)

/-- R199, R200, R343: PROBE over pages that pass completes with their number; an empty range completes with 0, and one
longer than 2^32 bytes is refused. -/
def Obligations.Probes : Prop :=
  ∀ (write : Bool) (g : Guard) (d a b : Reg6) (s : State), s.Issuable g [rs a, rs b] (rs d) →
    let i : Instr := if write then .probeW g d a b else .probeR g d a b
    let lo := (s.thr.sreg a).toNat
    let n := (s.thr.sreg b).toNat
    (n = 0 → Gets i s (rs d) Cls.xlat 4 (.full 0))
    ∧ (2 ^ 32 < n → Gets i s (rs d) Cls.xlat 4 (.poison 0x11 (s.thr.sreg a) 0 0x0A))
    ∧ ∀ k, 0 < n → n ≤ 2 ^ 32 → lo + n ≤ 0xFFF * 2 ^ 40 →
        PagesPass s s.thr.asid (if write then .rmw else .load) (lo + n) lo k →
        Gets i s (rs d) Cls.xlat 4 (.full (wide (BitVec.ofNat 64 k)))

/-! ### Copies and rings -/

/-- R212, R216, R217, R219, R220, R226, R227: a copy command captures its operands and stands in line for its engine; one that
R219 refuses is poisoned before any access, in its place among the ORD commands where it is one; CP.CVT in mode DYN while FPRM
holds SR or DYN traps. -/
def Obligations.CopyCommands : Prop :=
  (∀ (i : Instr) (g : Guard) (d : Reg6) (x : CpArgs) (m : Rm) (s : State), copyOf i = some (g, d, x) →
    wellFormed i = true → modeOf x.rm s.thr.fprm = some m → s.Issuable g (copyReads x) (rs d) →
    ∃ t tag c, exec i s = .next t ∧ Issued s t (rs d) Cls.copy (BitVec.allOnes 256) 8 [] tag
      ∧ Captured c x s.thr m tag s.ctx
      ∧ (¬CopyRefused s c x → t.flying = s.flying ∧ OnlyCopies s t
          ∧ (x.ring = false → t.copies = s.copies ++ [c])
          ∧ (x.ring = true → ∃ key, RingNamed s c.dst key ∧ t.copies = s.copies ++ [{ c with ring := some key }]))
      ∧ (CopyRefused s c x → x.ord = false → ¬(x.bar = true ∧ PhaserAllowed s c.phaser) →
          Answers s t tag (.poison 0x11 0 0 0x0A) ∧ OnlyIssues s t)
      ∧ (CopyRefused s c x → x.ord = true ∨ (x.bar = true ∧ PhaserAllowed s c.phaser) →
          t.flying = s.flying ∧ OnlyCopies s t ∧ ∃ b, t.copies = s.copies ++ [{ c with refused := true, bar := b }]
            ∧ (b = true ↔ x.bar = true ∧ PhaserAllowed s c.phaser)))
  ∧ ∀ (i : Instr) (g : Guard) (d : Reg6) (x : CpArgs) (s : State), copyOf i = some (g, d, x) → wellFormed i = true →
    modeOf x.rm s.thr.fprm = none → s.Runs g (copyReads x) [rs d] →
    exec i s = .next (s.trap ⟨.illegalOp, 0, 0, 0, 0⟩)

/-- R217-R223, R227: a command starts once no earlier ORD command of its thread stands before it in its engine, when it is an ORD
command itself, and one that R219 refused is poisoned then with 0x0011; the engine writes the next bytes of the image, up to the
end of the row or the next multiple of 4,096, from the bytes that the command's rule names, CP.CVT their conversions, and no other
byte; with HIST it counts the elements in its bins, which it adds to the histogram after the last byte; then it adds its bytes to
its phaser under BAR, or sets FAULT there, and completes with the number of bytes and the flags of its conversions, or poisoned. A
RING command waits for its entry, writes there, and marks it filled or poisoned as it completes. -/
def Obligations.CopiesMoveBytes : Prop :=
  (∀ (s : State) (j : Nat) (c : Copy) (p q : Place), CopyTurn s j c → c.stage = .chunks →
    c.op = .copy ∨ c.op = .fill ∨ c.op = .stride → c.hist = false → c.done < c.rowBytes * c.rows → s.PlainFor c.ctx.pack →
    let n := c.nextBytes
    s.ReachesFor c.agent c.nextDest .store p → p.sc = true → p.spans n →
    (c.op ≠ .fill → c.nextSource.toNat % 4096 + n ≤ 4096 ∧ s.ReachesFor c.agent c.nextSource .load q) →
    ∃ t r, exec .chunk s = .next t ∧ t.copies = s.copies.set j { c with done := c.done + n, reserved := r }
      ∧ (∀ k < n, t.peek (p.add k) =
          if c.op = .fill then c.src.extractLsb' (8 * ((c.done + k) % 8)) 8 else s.peek (q.add k))
      ∧ (∀ o : Place, o.proper → (∀ k < n, samePlace (p.add k) o = false) → t.peek o = s.peek o)
      ∧ t.threads = s.threads ∧ t.flying = s.flying ∧ t.binds = s.binds ∧ t.wf)
  ∧ ((∀ (s : State) (j : Nat) (c : Copy), CopyTurn s j c → c.stage = .order →
    (c.ord = true → ∀ k < j, ∀ x, s.copies[k]? = some x → x.ord = true → x.engine % 8 = c.engine % 8 →
      x.ctx.pack = c.ctx.pack → x.ctx.rank ≠ c.ctx.rank) →
    ∃ t, exec .chunk s = .next t
      ∧ (c.refused = false → t.copies = s.copies.set j { c with stage := .chunks } ∧ { t with copies := s.copies } = s)
      ∧ (c.refused = true → ∃ pv : BitVec 32, pv.toNat % 2 ^ 16 = 0x11
          ∧ t.copies = s.copies.set j { c with err := some pv, stage := .bar }))
  ∧ (∀ (s : State) (j : Nat) (c : Copy), CopyTurn s j c → c.stage = .chunks → c.rowBytes * c.rows ≤ c.done →
    ∃ t, exec .chunk s = .next t ∧ t.copies = s.copies.set j { c with stage := .bins } ∧ { t with copies := s.copies } = s)
  ∧ (∀ (s : State) (j : Nat) (c : Copy), CopyTurn s j c → c.stage = .bins → c.hist = false ∨ c.done = 0 →
    ∃ t, exec .chunk s = .next t ∧ t.copies = s.copies.set j { c with stage := .bar } ∧ { t with copies := s.copies } = s)
  ∧ (∀ (s : State) (j : Nat) (c : Copy) (b : Bind) (g i : Nat), CopyTurn s j c → c.stage = .bar → c.bar = false →
    (s.binds.find? fun b => b.tag == c.tag) = some b → b.loc = .reg g i → i < 64 → isConst i = false →
    Mark.pending c.tag ∉ s.marks →
    ∃ t, exec .chunk s = .next t ∧ t.copies = s.copies.eraseIdx j
      ∧ (c.err = none → (t.thread g).rstate i = .full
          ∧ (t.thread g).value i = wide (BitVec.ofNat 64 (c.flags.toNat * 2 ^ 56 + c.done)))
      ∧ (∀ pv, c.err = some pv → (t.thread g).rstate i = .poisoned pv)
      ∧ t.binds = s.binds.filter fun x => x.tag ≠ c.tag)
  ∧ ∀ (s : State) (j : Nat) (c : Copy) (p : Place), CopyTurn s j c → c.stage = .bar → c.bar = true → s.PlainFor c.ctx.pack →
    s.PhaserAt c.agent c.barAt c.phaser p → p.sc = true → p.spans 32 → (s.ph p).broken = false →
    s.awayPhaser c.barAt = false → s.flipWaits p = false → s.Recorded →
    (∀ b ∈ s.binds, b.tag = c.tag → ∀ pack rank n, b.loc ≠ .slot pack rank n) →
    let y := if c.err.isSome then { s.ph p with fault := true }
      else { s.ph p with arrb := min (2 ^ 40 - 1) ((s.ph p).arrb + c.done) }
    ¬flipsNow y →
    ∃ t, exec .chunk s = .next t ∧ t.copies = s.copies.eraseIdx j ∧ t.ph p = y
      ∧ ∀ o : Place, o.proper → (∀ k < 32, samePlace (p.add k) o = false) → t.peek o = s.peek o)
  ∧ ((∀ (s : State) (j : Nat) (c : Copy) (p q : Place), CopyTurn s j c → c.stage = .chunks → c.op = .cvt →
    c.done < c.rowBytes * c.rows → s.PlainFor c.ctx.pack →
    let n := c.nextBytes
    let dd := tyBits c.dty / 8
    let ss := tyBits c.sty / 8
    let e0 := c.done / dd
    let sva := c.src + BitVec.ofNat 64 (e0 * ss)
    let result := fun (k : Nat) => convert c.sty c.dty c.rm ((hash c.key (c.ctr + BitVec.ofNat 64 (e0 + k))).toNat % 2 ^ 32)
      (s.peekNat (q.add (ss * k)) ss)
    n % dd = 0 → s.ReachesFor c.agent c.nextDest .store p → p.sc = true → p.spans n →
    sva.toNat % 4096 + n / dd * ss ≤ 4096 → s.ReachesFor c.agent sva .load q →
    ∃ t r, ∃ fl : BitVec 5, ∃ bins : List Nat, exec .chunk s = .next t
      ∧ t.copies = s.copies.set j { c with done := c.done + n, reserved := r, flags := fl, bins := bins }
      ∧ (∀ k < n / dd, Holds t (p.add (dd * k)) dd (result k).1)
      ∧ (∀ b < 5, fl.getLsbD b = true ↔ c.flags.getLsbD b = true ∨ ∃ k < n / dd, (result k).2.testBit b = true)
      ∧ (c.hist = false → bins = c.bins) ∧ (c.hist = true → c.hty = c.sty → c.bins.length = 64 → Binned s c q (n / dd) bins)
      ∧ ∀ o : Place, o.proper → (∀ k < n, samePlace (p.add k) o = false) → t.peek o = s.peek o)
  ∧ (∀ (s : State) (j : Nat) (c : Copy) (p q : Place), CopyTurn s j c → c.stage = .chunks → c.op = .copy ∨ c.op = .stride →
    c.hist = true → c.bins.length = 64 → c.done < c.rowBytes * c.rows → s.PlainFor c.ctx.pack →
    let n := c.nextBytes
    s.ReachesFor c.agent c.nextDest .store p → p.sc = true → p.spans n →
    c.nextSource.toNat % 4096 + n ≤ 4096 → s.ReachesFor c.agent c.nextSource .load q →
    ∃ t r bins, exec .chunk s = .next t
      ∧ t.copies = s.copies.set j { c with done := c.done + n, reserved := r, bins := bins }
      ∧ Binned s c q (n / (tyBits c.hty / 8)) bins ∧ (∀ k < n, t.peek (p.add k) = s.peek (q.add k))
      ∧ ∀ o : Place, o.proper → (∀ k < n, samePlace (p.add k) o = false) → t.peek o = s.peek o)
  ∧ ∀ (s : State) (j : Nat) (c : Copy) (p : Place), CopyTurn s j c → c.stage = .bins → c.hist = true → 0 < c.done →
    c.bins.length = 64 → s.PlainFor c.ctx.pack → s.ReachesFor c.agent c.haddr .rmw p → p.sc = true → p.spans 256 →
    ∃ t r, exec .chunk s = .next t ∧ t.copies = s.copies.set j { c with stage := .bar, reserved := r }
      ∧ (∀ b < 64, ∀ old < 2 ^ 32, Holds s (p.add (4 * b)) 4 old →
          Holds t (p.add (4 * b)) 4 (min 0xFFFFFFFF (old + c.bins.getD b 0)))
      ∧ ∀ o : Place, o.proper → (∀ k < 256, samePlace (p.add k) o = false) → t.peek o = s.peek o)
  ∧ (∀ (s : State) (j : Nat) (c : Copy) (key : Nat), RingTurn s j c key → c.stage = .order → c.ord = false →
    c.refused = false →
    ∃ t, exec .chunk s = .next t ∧ t.copies = s.copies.set j { c with stage := .entry } ∧ { t with copies := s.copies } = s)
  ∧ (∀ (s : State) (j : Nat) (c : Copy) (key : Nat), RingTurn s j c key → c.stage = .entry → (s.ring key).reset = true →
    let r := s.ring key
    ((BitVec.ofNat 32 c.q - r.free).toNat < 2 ^ r.log2n →
      ∃ t, exec .chunk s = .next t ∧ { t with copies := s.copies } = s
        ∧ t.copies = s.copies.set j { c with stage := .chunks, dst := r.base + BitVec.ofNat 64 (c.q % 2 ^ r.log2n * r.eb) })
    ∧ (2 ^ r.log2n ≤ (BitVec.ofNat 32 c.q - r.free).toNat → exec .chunk s = .refused (.notEnabled "CHUNK")))
  ∧ ∀ (s : State) (j : Nat) (c : Copy) (key : Nat) (b : Bind) (g i : Nat), RingTurn s j c key → c.stage = .bar →
    c.bar = false → RingIdle s key → (s.binds.find? fun b => b.tag == c.tag) = some b → b.loc = .reg g i → i < 64 →
    isConst i = false → Mark.pending c.tag ∉ s.marks →
    let r := s.ring key
    let n := 2 ^ r.log2n
    ∃ t, exec .chunk s = .next t ∧ t.copies = s.copies.eraseIdx j
      ∧ (∀ e < n, (t.ring key).mark e = if e = c.q % n then (if c.err.isSome then 2 else 1) else r.mark e)
      ∧ Advanced (t.ring key) r.fill ∧ (t.ring key).free = r.free ∧ SameGeometry r (t.ring key) ∧ OtherRings s t key

/-- R225, R226, R228-R230: RING.ADV fills the empty marks from FILL on, or frees entries from FREE on, runs the advance step,
and completes with both counters, and no other ring changes; RING.WAIT completes with both counters once the selected one has
reached its target, poisoned where an entry below a FILL target is, and waits before; RING.RESET completes with the new
geometry, which takes effect then; a reference or a geometry out of range is refused. -/
def Obligations.RingForms : Prop :=
  ((∀ (g : Guard) (d a b : Reg6) (s : State) (key : Nat), s.Issuable g [rs a, rs b] (rs d) → RingNamed s (s.thr.sreg a) key →
    RingIdle s key →
    let r := s.ring key
    let n := 2 ^ r.log2n
    let m := min ((s.thr.sreg b).toNat % 2 ^ 32) (n - (r.fill - r.free).toNat)
    ∃ t tag, exec (.ringAdvFill g d a b) s = .next t ∧ Issued s t (rs d) Cls.copy (BitVec.allOnes 256) 8 [] tag
      ∧ (∀ e < n, (t.ring key).mark e =
          if (e + n - r.fill.toNat % n) % n < m ∧ r.mark e = 0 then 1 else r.mark e)
      ∧ Advanced (t.ring key) r.fill ∧ (t.ring key).free = r.free ∧ SameGeometry r (t.ring key) ∧ OtherRings s t key
      ∧ Answers s t tag (.full (wide (BitVec.ofNat 64 (r.free.toNat * 2 ^ 32 + (t.ring key).fill.toNat))))
      ∧ OnlyRings s t)
  ∧ ∀ (g : Guard) (d a b : Reg6) (s : State) (key : Nat), s.Issuable g [rs a, rs b] (rs d) → RingNamed s (s.thr.sreg a) key →
    RingIdle s key →
    let r := s.ring key
    let n := 2 ^ r.log2n
    let m := min ((s.thr.sreg b).toNat % 2 ^ 32) (r.fill - r.free).toNat
    ∃ t tag, exec (.ringAdvFree g d a b) s = .next t ∧ Issued s t (rs d) Cls.copy (BitVec.allOnes 256) 8 [] tag
      ∧ (∀ e < n, (t.ring key).mark e = if (e + n - r.free.toNat % n) % n < m then 0 else r.mark e)
      ∧ (t.ring key).free = r.free + BitVec.ofNat 32 m
      ∧ Advanced (t.ring key) r.fill ∧ SameGeometry r (t.ring key) ∧ OtherRings s t key
      ∧ Answers s t tag (.full (wide (BitVec.ofNat 64 ((t.ring key).fill.toNat * 2 ^ 32 + (t.ring key).free.toNat))))
      ∧ OnlyRings s t)
  ∧ ((∀ (free : Bool) (g : Guard) (d a b : Reg6) (s : State) (key : Nat), s.Issuable g [rs a, rs b] (rs d) →
    RingNamed s (s.thr.sreg a) key → (s.ring key).reset = true →
    let i : Instr := if free then .ringWaitFree g d a b else .ringWaitFill g d a b
    let r := s.ring key
    let target : BitVec 32 := (s.thr.sreg b).setWidth 32
    let reached := fun (x : BitVec 32) => (x - target).toNat < 2 ^ 31
    let bad := ¬reached r.free ∧ ∃ j < min (target - r.free).toNat (2 ^ r.log2n), r.mark (r.free.toNat + j) = 2
    (free = true → reached r.free →
      Gets i s (rs d) Cls.copy 8 (.full (wide (BitVec.ofNat 64 (r.fill.toNat * 2 ^ 32 + r.free.toNat)))))
    ∧ (free = false → reached r.fill → bad → Gets i s (rs d) Cls.copy 8 (.poison 0x22 0 0 0))
    ∧ (free = false → reached r.fill → ¬bad →
        Gets i s (rs d) Cls.copy 8 (.full (wide (BitVec.ofNat 64 (r.free.toNat * 2 ^ 32 + r.fill.toNat)))))
    ∧ (¬reached (if free then r.free else r.fill) →
        ∃ t tag, exec i s = .next t ∧ Issued s t (rs d) Cls.copy (BitVec.allOnes 256) 8 [] tag ∧ t.flying = s.flying
          ∧ t.ringWaits = s.ringWaits ++ [{ tag := tag, ctx := s.ctx, ring := key, free := free, target := target }]))
  ∧ (∀ (i : Instr) (g : Guard) (d a b : Reg6) (s : State),
    i = .ringAdvFill g d a b ∨ i = .ringAdvFree g d a b ∨ i = .ringWaitFill g d a b ∨ i = .ringWaitFree g d a b →
    s.Issuable g [rs a, rs b] (rs d) → (∀ key, RingNamed s (s.thr.sreg a) key → (s.ring key).reset = false) →
    Gets i s (rs d) Cls.copy 8 (.poison 0x11 0 0 0x0A))
  ∧ (∀ (g : Guard) (d a b c : Reg6) (s : State), s.Issuable g [rs a, rs b, rs c] (rs d) →
    let base := s.thr.sreg b
    let geo := s.thr.sreg c
    let log2n := geo.toNat % 2 ^ 16
    let eb := geo.toNat / 2 ^ 32
    let good := base.toNat % 4096 = 0 ∧ s.liesSc s.ctx.agent base = true ∧ geo.toNat / 2 ^ 16 % 2 ^ 16 = 0 ∧ 1 ≤ log2n
      ∧ log2n ≤ 12 ∧ 1 ≤ eb ∧ eb ≤ 8192
    (∀ key, RingNamed s (s.thr.sreg a) key → good →
        Gets (.ringReset g d a b c) s (rs d) Cls.copy 8 (.reset key base log2n (eb * 128)))
    ∧ ((∀ key, ¬RingNamed s (s.thr.sreg a) key) ∨ ¬good →
        Gets (.ringReset g d a b c) s (rs d) Cls.copy 8 (.poison 0x11 0 0 0x0A)))
  ∧ ∀ (s : State) (k : Nat) (f : Flight) (key log2n eb : Nat) (base : Word), s.ev = some (.completion k) →
    s.flying[k]? = some f → f.res = .reset key base log2n eb →
    (s.core (key / 16)).pack.map (· / 2 ^ 24) = some (f.ctx.pack / 2 ^ 24) →
    ∃ t, exec .completion s = .next t
      ∧ t.ring key = { base := base, asid := f.ctx.asid, log2n := log2n, eb := eb, fill := 0, free := 0, marks := [],
                       reset := true }
      ∧ OtherRings s t key)

/-! ### Collectives -/

/-- R234, R236, R237, R292, R295: COLL.ARM of a record that is in order arms the lowest free handle of the die and completes
with it, or waits out the quarantine of its GROUP; DISARM frees a handle without a run and starts the quarantine of its GROUP,
and waits for a run; COLL.GO starts a run on an armed handle without one, at index zero or at the armed RESUME; everything else
is refused. -/
def Obligations.CollectiveCommands : Prop :=
  ((∀ (g : Guard) (d a : Reg6) (s : State) (p : Nat) (bs : List Byte) (r : CollRec), s.Issuable g [rs a] (rs d) →
    RecordAtArm s (s.thr.sreg a) p bs → collRec bs = some r → RecordAllowed s r →
    (∀ h < 16, (∀ q ∈ s.quarantine, q.1 = r.group → q.2 ≤ s.now.toNat) →
      (∀ k < h, (s.coll? (handleKey s k)).isSome = true) → s.coll? (handleKey s h) = none → ¬GroupArmed s r.group →
      ∃ t tag, exec (.collArm g d a) s = .next t ∧ Issued s t (rs d) Cls.coll (BitVec.allOnes 256) 8 [] tag
        ∧ Answers s t tag (.full (wide (BitVec.ofNat 64 h)))
        ∧ (∃ x, t.coll? (handleKey s h) = some x ∧ x.cr = r ∧ x.addr = s.thr.sreg a ∧ x.resume = [0, 0, 0, 0] ∧ x.run = none)
        ∧ ∀ k, k ≠ handleKey s h → t.coll? k = s.coll? k)
    ∧ ((∃ q ∈ s.quarantine, q.1 = r.group ∧ s.now.toNat < q.2) →
      ∃ t tag, exec (.collArm g d a) s = .next t ∧ Issued s t (rs d) Cls.coll (BitVec.allOnes 256) 8 [] tag
        ∧ t.flying = s.flying ∧ t.colls = s.colls
        ∧ t.arming = s.arming ++ [{ tag := tag, ctx := s.ctx, addr := s.thr.sreg a, cr := some r, hold := none }])
    ∧ ((∀ q ∈ s.quarantine, q.1 = r.group → q.2 ≤ s.now.toNat) →
      (∀ k < 16, (s.coll? (handleKey s k)).isSome = true) ∨ GroupArmed s r.group →
      Gets (.collArm g d a) s (rs d) Cls.coll 8 (.poison 0x11 0 0 0x0A)))
  ∧ ∀ (g : Guard) (d a : Reg6) (s : State) (p : Nat) (bs : List Byte), s.Issuable g [rs a] (rs d) →
    (s.thr.sreg a).toNat % 256 ≠ 0
      ∨ (RecordAtArm s (s.thr.sreg a) p bs ∧ (collRec bs = none
          ∨ ∃ r, collRec bs = some r ∧ ((s.beyond s.ctx.walker r.sbase).outside = true
              ∨ (r.bar = true ∧ (r.phaser.toNat % 32 ≠ 0 ∨ s.liesSc s.ctx.walker r.phaser = false))))) →
    Gets (.collArm g d a) s (rs d) Cls.coll 8 (.poison 0x11 0 0 0x0A))
  ∧ ((∀ (g : Guard) (d a : Reg6) (s : State) (x : Armed), s.Issuable g [rs a] (rs d) →
    let key := handleKey s (s.thr.sreg a).toNat
    (s.thr.sreg a).toNat < 16 → s.coll? key = some x →
    (x.run = none → (∀ y ∈ s.disarming, y.key ≠ key) →
      ∃ t tag, exec (.collDisarm g d a) s = .next t ∧ Issued s t (rs d) Cls.coll (BitVec.allOnes 256) 8 [] tag
        ∧ Answers s t tag (.full 0) ∧ t.coll? key = none ∧ (∀ k, k ≠ key → t.coll? k = s.coll? k)
        ∧ (x.cr.group, s.now.toNat + 50000 * Config.ns) ∈ t.quarantine)
    ∧ (x.run ≠ none →
      ∃ t tag, exec (.collDisarm g d a) s = .next t ∧ Issued s t (rs d) Cls.coll (BitVec.allOnes 256) 8 [] tag
        ∧ t.flying = s.flying ∧ t.colls = s.colls
        ∧ t.disarming = s.disarming ++ [{ tag := tag, ctx := s.ctx, key := key }]))
  ∧ (∀ (resume : Bool) (g : Guard) (d a : Reg6) (s : State) (x : Armed), s.Issuable g [rs a] (rs d) →
    let i : Instr := if resume then .collGoResume g d a else .collGo g d a
    let key := handleKey s (s.thr.sreg a).toNat
    (s.thr.sreg a).toNat < 16 → s.coll? key = some x → x.run = none →
    ∃ t tag r, exec i s = .next t ∧ Issued s t (rs d) Cls.coll (BitVec.allOnes 256) 8 [] tag
      ∧ (s.phasers = [] → t.flying = s.flying) ∧ t.runOn key = some r ∧ r.tag = tag ∧ r.number = x.cr.runs.toNat
      ∧ r.xfers = 0 ∧ r.aborted = false ∧ r.idx = some (if resume then x.resume else [0, 0, 0, 0]) ∧ r.stage ≠ .finish)
  ∧ ∀ (i : Instr) (g : Guard) (d a : Reg6) (s : State), s.Issuable g [rs a] (rs d) →
    ((i = .collDisarm g d a ∨ i = .collGo g d a ∨ i = .collGoResume g d a)
        ∧ (16 ≤ (s.thr.sreg a).toNat ∨ s.coll? (handleKey s (s.thr.sreg a).toNat) = none))
      ∨ ((i = .collGo g d a ∨ i = .collGoResume g d a)
        ∧ ∃ x, s.coll? (handleKey s (s.thr.sreg a).toNat) = some x ∧ x.run ≠ none) →
    Gets i s (rs d) Cls.coll 8 (.poison 0x11 0 0 0x0A))

/-- R235, R237, R291-R296, R394: the walker sends a transfer whose notice has arrived, from and to the addresses of its
loop indices, and takes the next ones; an acknowledged transfer is no longer awaited, a refused one aborts the run; a
transfer that reaches an armed GROUP of its GEN and has not been applied writes its bytes and no other and is recorded; one
that has overtaken an earlier one of its sender waits for it; one that is too old, or not armed there, changes nothing but a
counter; one applied already, and one that a port without traffic receives, writes nothing. -/
def Obligations.Transfers : Prop :=
  ((∀ (s : State) (die h : Nat) (a : Armed) (r : CollRun) (idx : List Nat) (o q : Place) (base : Word) (pa : Nat),
    let key := 16 * die + h
    let c := a.cr
    let from_ := c.sbase + BitVec.ofInt 64 (c.sum idx fun l i => i * l.sstride)
    let dest := base + c.doff + BitVec.ofInt 64 (c.sum idx fun l i => i * l.dstride)
    let peer := ((c.sum idx fun l i => ((l.pa * i + l.pb : Nat) : Int)) % c.p).toNat
    let slot := c.peertab + BitVec.ofNat 64 (8 * peer)
    s.ev = some (.transfer die h) → s.coll? key = some a → a.run = some r → r.stage = .sending → r.idx = some idx →
    r.hold = none → (∀ x ∈ s.colls, x.1 / 16 = die → x.1 ≠ key → a.order ≤ x.2.order) → h < 16 → s.PlainFor r.ctx.pack →
    slot.toNat % 8 = 0 → s.ReachesFor r.ctx.walker slot .load o → Holds s o 8 base.toNat →
    0 < c.xfer → from_.toNat % 4096 + c.xfer ≤ 4096 → s.ReachesFor r.ctx.walker from_ .load q → q.sc = true →
    dest.toNat % 4096 + c.xfer ≤ 4096 → s.ReachesFor r.ctx.walker dest .store (.dev pa) →
    (∃ n ∈ s.notices, n.group = c.group ∧ n.gen = c.gen ∧ n.module = s.module ∧ n.die = pa / Config.dieBytes
      ∧ r.number ≤ n.run) →
    ∃ t p r', exec .transfer s = .next t ∧ t.ownXfers = s.ownXfers ++ [p]
      ∧ p.group = c.group ∧ p.gen = c.gen ∧ p.run = r.number ∧ p.idx = idx ∧ p.dst = [(pa, c.xfer)] ∧ p.op = c.op ∧ p.ty = c.ty
      ∧ p.data.length = c.xfer ∧ BytesAt s q p.data
      ∧ t.runOn key = some r' ∧ r'.xfers = r.xfers + 1 ∧ r'.idx = nextIdx c.bounds idx
      ∧ t.threads = s.threads ∧ ∀ x : Place, x.proper → t.peek x = s.peek x)
  ∧ (∀ (s : State) (i : Nat) (x : Sent) (via : Option Nat), s.ev = some (.transferAck i false via) → s.sent[i]? = some x →
    (x.own = true ∧ x.answer = some false) ∨ (x.own = false ∧ ∃ p, via = some p ∧ s.checkedIn s.slotNow p = true) →
    ∃ t, exec .transferAck s = .next t ∧ t.sent = s.sent.eraseIdx i)
  ∧ (∀ (s : State) (i : Nat) (x : Sent) (via : Option Nat), s.ev = some (.transferAck i true via) → s.sent[i]? = some x →
    (x.own = true ∧ x.answer = some true) ∨ (x.own = false ∧ ∃ p, via = some p ∧ s.checkedIn s.slotNow p = true) →
    RunOpen s x.key → ∃ t, exec .transferAck s = .next t ∧ RunAborted t x.key)
  ∧ ∀ (s : State) (i : Nat) (x : Sent) (refused : Bool) (via : Option Nat), s.ev = some (.transferAck i refused via) →
    s.sent[i]? = some x → x.own = false → (∀ p, via = some p → s.checkedIn s.slotNow p = false) →
    exec .transferAck s = .next s)
  ∧ ((∀ (s : State) (p : XferPkt) (key pa : Nat) (a : Armed), s.ev = some (.transferReceive p) → p.module ≠ s.module →
    s.arrives p.module p.via = true → s.inSequence p = true → s.early = [] → ¬tooOld s p.sent → p.dst = [(pa, p.data.length)] →
      pa + p.data.length ≤ Config.deviceBytes →
    s.groupOn (pa / Config.dieBytes) p.group = some (key, a) → a.cr.gen = p.gen → a.cr.bar = false → p.op = 0 →
    (∀ x ∈ s.applied, x.die = pa / Config.dieBytes → x.group = p.group → x.gen = p.gen → x.module = p.module →
      x.sdie = p.die → x.run < p.run ∨ (x.run = p.run ∧ idxAfter p.idx x.idx = true)) →
    s.trails = [] → s.phasers = [] → s.wf →
    ∃ t, exec .transferReceive s = .next t ∧ BytesAt t (.dev pa) p.data
      ∧ (∀ o : Place, o.proper → (∀ k < p.data.length, samePlace (.dev (pa + k)) o = false) → t.peek o = s.peek o)
      ∧ (∃ x ∈ t.applied, x.die = pa / Config.dieBytes ∧ x.group = p.group ∧ x.gen = p.gen ∧ x.module = p.module
          ∧ x.sdie = p.die ∧ x.run = p.run ∧ x.idx = p.idx)
      ∧ t.threads = s.threads ∧ t.flying = s.flying ∧ t.wf)
  ∧ (∀ (s : State) (p : XferPkt), s.ev = some (.transferReceive p) → p.module ≠ s.module →
    (tooOld s p.sent ∨ ∀ key a, s.groupOn ((p.dst.head?.map (·.1)).getD 0 / Config.dieBytes) p.group = some (key, a) →
      a.cr.gen ≠ p.gen) →
    ∃ t, exec .transferReceive s = .next t ∧ { t with ctl := s.ctl } = s)
  ∧ (∀ (s : State) (p : XferPkt), s.ev = some (.transferReceive p) → p.module ≠ s.module → s.arrives p.module p.via = false →
    exec .transferReceive s = .next s)
  ∧ (∀ (s : State) (p : XferPkt) (key : Nat) (a : Armed), s.ev = some (.transferReceive p) → p.module ≠ s.module →
    s.arrives p.module p.via = true → ¬tooOld s p.sent →
    s.groupOn ((p.dst.head?.map (·.1)).getD 0 / Config.dieBytes) p.group = some (key, a) → a.cr.gen = p.gen →
    s.inSequence p = false → exec .transferReceive s = .next { s with early := s.early ++ [p] })
  ∧ ∀ (s : State) (p : XferPkt) (key : Nat) (a : Armed) (x : Applied), s.ev = some (.transferReceive p) →
    p.module ≠ s.module → s.inSequence p = true → s.early = [] → ¬tooOld s p.sent →
    let die := (p.dst.head?.map (·.1)).getD 0 / Config.dieBytes
    s.groupOn die p.group = some (key, a) → a.cr.gen = p.gen → x ∈ s.applied → x.die = die → x.group = p.group →
    x.gen = p.gen → x.module = p.module → x.sdie = p.die → p.run < x.run ∨ (p.run = x.run ∧ idxAfter p.idx x.idx = false) →
    exec .transferReceive s = .next s)

/-- R236, R292, R395, R396: a notice of an armed GROUP and GEN is kept, and ends the waits for it; a walker answers a request
with the number of its latest run; a waiting transfer asks again after 1 ms; after 10 ms without a notice or an acknowledgement
the run is aborted; a GROUP whose quarantine has ended is armed. -/
def Obligations.NoticesAndTimeouts : Prop :=
  (∀ (s : State) (n : NoticePkt), s.ev = some (.releaseNotice n) → n.module ≠ s.module ∨ n ∈ s.ownNotices →
    s.arrives n.module n.via = true →
    ¬tooOld s n.sent → (∃ x ∈ s.colls, x.2.cr.group = n.group ∧ x.2.cr.gen = n.gen) →
    ∃ t, exec .releaseNotice s = .next t ∧ (∃ x ∈ t.notices, sameSender x n ∧ n.run ≤ x.run)
      ∧ ∀ x ∈ t.colls, ∀ r, x.2.run = some r → x.2.cr.group = n.group → x.2.cr.gen = n.gen → r.number ≤ n.run →
          ∀ w, r.waiting = some w → ¬(w.module = n.module ∧ w.die = n.die))
  ∧ (∀ (s : State) (n : NoticePkt) (key m : Nat) (a : Armed), s.ev = some (.noticeRequest n) → n.module = s.module →
    n ∈ s.ownRequests → ¬tooOld s n.sent → s.groupOn n.asked n.group = some (key, a) → a.latest = some m → a.cr.gen = n.gen →
    ∃ t, exec .noticeRequest s = .next t ∧ t.ownRequests = s.ownRequests.erase n
      ∧ t.ownNotices = s.ownNotices ++ [{ group := n.group, gen := n.gen, run := m, module := s.module, die := n.asked,
                                          asked := 0, sent := s.now.toNat, via := none }])
  ∧ (∀ (s : State) (n : NoticePkt), s.ev = some (.noticeRequest n) → n.module ≠ s.module →
    ∃ t, exec .noticeRequest s = .next t ∧ { t with ctl := s.ctl } = s)
  ∧ (∀ (s : State) (die h : Nat) (w : NoticeWait) (r : CollRun), s.ev = some (.noticeRequestRetry die h) →
    s.runOn (16 * die + h) = some r → r.waiting = some w → 1000000 * Config.ns ≤ s.now.toNat - w.last →
    ∃ t, exec .noticeRequestRetry s = .next t
      ∧ t.runOn (16 * die + h) = some { r with waiting := some { w with last := s.now.toNat } })
  ∧ (∀ (s : State) (die h : Nat) (w : NoticeWait) (r : CollRun), s.ev = some (.noticeWaitTimeout die h) →
    s.runOn (16 * die + h) = some r → r.stage ≠ .finish → r.waiting = some w →
    10000000 * Config.ns ≤ s.now.toNat - w.since →
    ∃ t, exec .noticeWaitTimeout s = .next t ∧ RunAborted t (16 * die + h))
  ∧ (∀ (s : State) (die h : Nat) (x : Sent), s.ev = some (.ackTimeout die h) → RunOpen s (16 * die + h) → x ∈ s.sent →
    x.key = 16 * die + h → 10000000 * Config.ns ≤ s.now.toNat - x.since →
    ∃ t, exec .ackTimeout s = .next t ∧ RunAborted t (16 * die + h))
  ∧ ∀ (s : State) (i h : Nat) (x : Arming) (r : CollRec), s.ev = some (.quarantineEnd i) → s.arming[i]? = some x →
    x.cr = some r → (∀ q ∈ s.quarantine, q.1 = r.group → q.2 ≤ s.now.toNat) → h < 16 →
    let die := dieOf (x.ctx.gtid / 8)
    (∀ k < h, (s.coll? (16 * die + k)).isSome = true) → s.coll? (16 * die + h) = none →
    (∀ y ∈ s.colls, y.1 / 16 = die → y.2.cr.group ≠ r.group) →
    ∃ t, exec .quarantineEnd s = .next t ∧ t.arming = s.arming.eraseIdx i
      ∧ (∃ y, t.coll? (16 * die + h) = some y ∧ y.cr = r ∧ y.run = none)
      ∧ t.flying = s.flying ++ [{ tag := x.tag, ctx := x.ctx, res := .full (wide (BitVec.ofNat 64 h)) }]

/-! ### Streams -/

/-- R239-R241, R250, R397: the stream and link commands bind their future and act on the sequencer, or the port, that they
name, or are refused; STRM.GO without REF raises DETERMINISM in class D1. -/
def Obligations.StreamCommands : Prop :=
  (∀ (bus : Bool) (g : Guard) (d a b : Reg6) (ref : Bool) (n : Nat) (s : State),
    let i : Instr := if bus then .strmGoBus g d a b ref (BitVec.ofNat 2 n) else .strmGoTile g d a b ref (BitVec.ofNat 5 n)
    let q := if bus then 32 + n else n
    let cls := if bus then Cls.tx else Cls.rx
    let mine := if bus then s.hasBus n else s.hasTile n
    n < (if bus then 4 else 32) → s.Issuable g [rs a, rs b] (rs d) →
    (s.thr.dclass = true → ref = false → exec i s = .next (s.trap ⟨.determinism, 0, 0, 0, 0⟩))
    ∧ (s.thr.dclass = false ∨ ref = true → ¬mine ∨ (s.thr.sreg a).toNat % 8 ≠ 0 →
        Gets i s (rs d) cls 8 (.poison 0x11 0 0 0x0A))
    ∧ (s.thr.dclass = false ∨ ref = true → mine → ProgramAllowed s (s.thr.sreg a) →
        ∃ t tag, exec i s = .next t ∧ Issued s t (rs d) cls (BitVec.allOnes 256) 8 [] tag ∧ t.flying = s.flying
          ∧ let c : SCmd := { tag := tag, ctx := s.ctx, prog := s.thr.sreg a, arg := s.thr.sreg b, ref := ref, started := false,
                               number := 0 }
            (∀ k, k ≠ q → t.seqr k = s.seqr k)
              ∧ ((s.seqr q).cmd = none → (t.seqr q).cmd = some c ∧ (t.seqr q).line = (s.seqr q).line)
              ∧ ((s.seqr q).cmd ≠ none → (t.seqr q).cmd = (s.seqr q).cmd ∧ (t.seqr q).line = (s.seqr q).line ++ [c])))
  ∧ (∀ (g : Guard) (d a : Reg6) (tile : BitVec 5) (s : State), s.Issuable g [rs a] (rs d) →
    let i : Instr := .strmReg g d a tile
    let q := tile.toNat
    let sel := (s.thr.sreg a).toNat % 8
    let idle := (s.seqr q).sel = none ∧ (s.seqr q).join = none ∧ (s.seqr q).cmd = none
    (¬s.hasTile q ∨ ¬idle → Gets i s (rs d) Cls.rx 8 (.poison 0x11 0 0 0x0A))
    ∧ (s.hasTile q → idle → 4 ≤ sel → ¬SessionOpen s sel → Gets i s (rs d) Cls.rx 8 (.poison 0x12 0 0 0))
    ∧ (s.hasTile q → idle → sel < 4 → (s.bus sel).lost = true ∨ (s.bus sel).off = true →
        Gets i s (rs d) Cls.rx 8 (.poison 0x20 0 0 0))
    ∧ (s.hasTile q → idle → SessionOpen s sel →
        ∃ t tag, exec i s = .next t ∧ Issued s t (rs d) Cls.rx (BitVec.allOnes 256) 8 [] tag ∧ t.flying = s.flying
          ∧ t.seqr q = { s.seqr q with join := some { sel := sel, since := s.now.toNat, fut := some (tag, s.ctx) } }
          ∧ ∀ k, k ≠ q → t.seqr k = s.seqr k))
  ∧ (∀ (g : Guard) (d : Reg6) (tile : BitVec 5) (s : State), s.Issuable g [] (rs d) →
    let i : Instr := .strmDereg g d tile
    let q := tile.toNat
    (¬s.hasTile q → Gets i s (rs d) Cls.rx 8 (.poison 0x11 0 0 0x0A))
    ∧ (s.hasTile q → (s.seqr q).sel = none → Gets i s (rs d) Cls.rx 8 (.full (wide 0x80)))
    ∧ (s.hasTile q → (s.seqr q).sel ≠ none →
        ∃ t tag, exec i s = .next t ∧ Issued s t (rs d) Cls.rx (BitVec.allOnes 256) 8 [] tag ∧ t.flying = s.flying
          ∧ t.seqr q = { s.seqr q with leaving := true, leaves := (s.seqr q).leaves ++ [(tag, s.ctx)] }
          ∧ ∀ k, k ≠ q → t.seqr k = s.seqr k))
  ∧ ∀ (g : Guard) (d a : Reg6) (s : State), s.Issuable g [rs a] (rs d) →
    let i : Instr := .lnkAlign g d a
    let port := (s.thr.sreg a).toNat % 4
    let off := 0x90A0 + 8 * port
    let delay := tget 0 s.arrivals port
    let allowed := (∃ r, s.regionOf s.thr.pack = some r ∧ r.link = true) ∧ s.cfield off 63 63 = 1
    (¬allowed → Gets i s (rs d) Cls.link 8 (.poison 0x11 0 0 0x0A))
    ∧ (allowed → s.cfield off 62 62 = 0 → delay ≤ 4095 → Gets i s (rs d) Cls.link 8 (.poison 0x12 0 0 0))
    ∧ (allowed → 4095 < delay →
        ∃ t tag, exec i s = .next t ∧ Issued s t (rs d) Cls.link (BitVec.allOnes 256) 8 [] tag
          ∧ Answers s t tag (.poison 0x12 0 0 0) ∧ t.cfield off 62 62 = 0)
    ∧ (allowed → s.cfield off 62 62 = 1 → delay ≤ 4095 →
        ∃ t tag, exec i s = .next t ∧ Issued s t (rs d) Cls.link (BitVec.allOnes 256) 8 [] tag
          ∧ Answers s t tag (.full (wide (BitVec.ofNat 64 (delay * 2 ^ 32 + min delay (4095 - delay) * 2 ^ 16))))
          ∧ t.cfield off 27 16 = delay ∧ t.cfield off 11 0 = min delay (4095 - delay))

/-- R245-R247, R253, R260, R261, R263, R273: the configuration and control words set what they name and the micro-PC, and
nothing else; an operand outside its limits, and a word with no opcode of the sequencer's side, end the program, once the windows
that are over have been accumulated; END completes the
program with its completion word, or, in a receive program with a degraded window under policy POISON, poisoned with the
first such window. -/
def Obligations.StreamConfiguration : Prop :=
  ((∀ (i : Instr) (s : State) (q : Nat) (x : Seqr) (c : SCmd) (y : SConf), Running s q x c → confAfter x.conf c.ref i = some y →
    ∃ t, exec i s = .next t ∧ OnlySeqr s t q { x with conf := y })
  ∧ (∀ (i : Instr) (s : State) (q : Nat) (x : Seqr) (c : SCmd), Running s q x c → confAfter x.conf c.ref i = none →
    mayRefuse i = true → ∃ t, exec i s = .next t ∧ ProgramEnds s t q x c (.poison 0x11 0 0 0x0A))
  ∧ (∀ (imm : BitVec 24) (s : State) (q : Nat) (x : Seqr) (c : SCmd), Running s q x c →
    ∃ t, exec (.sWnow imm) s = .next t
      ∧ OnlySeqr s t q { x.past with wnow := max x.wnow (x.par.start + imm.toNat * Config.ns) })
  ∧ (∀ (s : State) (q : Nat) (x : Seqr) (c : SCmd), Running s q x c →
    ∃ t, exec .sOrst s = .next t ∧ OnlySeqr s t q { x.past with optr := x.par.obase })
  ∧ ∀ (w : BitVec 32) (s : State) (q : Nat) (x : Seqr) (c : SCmd), Running s q x c →
    ∃ t, exec (.badStreamOp w) s = .next t ∧ ProgramEnds s t q x c (.poison 0x60 0 0 0))
  ∧ ((∀ (s : State) (q : Nat) (x : Seqr) (c : SCmd), Running s q x c → x.Accumulated →
    x.sdone.firstDeg = none ∨ 32 ≤ q ∨ (∀ r, s.regionOf c.ctx.pack = some r → r.poison = false) →
    ∃ t w, exec .sEnd s = .next t ∧ CompletionWord x (decide (32 ≤ q)) w
      ∧ ProgramEnds s t q x c (.full (wide (BitVec.ofNat 64 w))))
  ∧ ∀ (s : State) (q : Nat) (x : Seqr) (c : SCmd) (n : BitVec 32) (r : Region), Running s q x c → x.Accumulated → q < 32 →
    x.sdone.firstDeg = some n → s.regionOf c.ctx.pack = some r → r.poison = true →
    ∃ t, exec .sEnd s = .next t ∧ ProgramEnds s t q x c (.poison 0x20 0 (n.setWidth 64) 0))

/-- R247, R248, R253, R254, R265, R269: RING binds a ring at its cursor; SELB leaves the session and joins another; ACLR zeroes a
set; RUN captures the configuration and waits for a frame; what they do not allow ends the program; RING, SELB, ACLR, DRAIN
and END wait for the accumulation of every window, a transmitter's RING for that of its listeners' windows; a ring whose context
holds a soft error poisons (R415). That END waits too is the model's reading (notes/assumptions/26.md). -/
def Obligations.StreamBindings : Prop :=
  (∀ (i : Instr) (s : State) (q : Nat) (x : Seqr) (c : SCmd), Running s q x c → waitsForWindows i = true → ¬x.Accumulated →
    exec i s = .next s)
  ∧ (∀ (role : BitVec 2) (core : BitVec 7) (ring : BitVec 4) (s : State) (q : Nat) (x : Seqr) (c : SCmd), Running s q x c →
    x.unheard = true → exec (.sRing role core ring) s = .next s)
  ∧ (∀ (core : BitVec 7) (ring : BitVec 4) (s : State) (q : Nat) (x : Seqr) (c : SCmd) (key : Nat), Running s q x c →
    x.Accumulated → x.unheard = false → RingBindable s c core ring key →
    ((∀ n, Mark.ring key n ∉ s.marks) →
      (∃ t, exec (.sRing 0 core ring) s = .next t ∧ OnlySeqr s t q { x.past with inr := some key, inq := (s.ring key).free })
      ∧ (q < 32 →
          ∃ t, exec (.sRing 1 core ring) s = .next t ∧ OnlySeqr s t q { x.past with str := some key, stq := (s.ring key).fill }))
    ∧ ((∃ n, Mark.ring key n ∈ s.marks) →
        ∃ t, exec (.sRing 0 core ring) s = .next t ∧ ProgramEnds s t q x c (.poison 0x50 0 0 0)))
  ∧ (∀ (role : BitVec 2) (core : BitVec 7) (ring : BitVec 4) (s : State) (q : Nat) (x : Seqr) (c : SCmd), Running s q x c →
    x.Accumulated → x.unheard = false → (∀ k n, Mark.ring k n ∉ s.marks) →
    (∀ key, ¬RingBindable s c core ring key) ∨ 2 ≤ role.toNat ∨ (role = 1 ∧ 32 ≤ q) →
    ∃ t, exec (.sRing role core ring) s = .next t ∧ ProgramEnds s t q x c (.poison 0x11 0 0 0x0A))
  ∧ (∀ (sel : BitVec 3) (s : State) (q : Nat) (x : Seqr) (c : SCmd), Running s q x c → x.Accumulated → x.join = none →
    x.leaving = false →
    (s.selectable sel.toNat (c.ctx.pack / 2 ^ 24) = none →
      ∃ t, exec (.sSelb sel) s = .next t ∧ OnlySeqr s t q { x with
        leaving := x.sel.isSome, join := some { sel := sel.toNat, since := s.now.toNat, fut := none } })
    ∧ (q < 32 → sel.toNat < 4 → (s.bus sel.toNat).lost = true →
        ∃ t, exec (.sSelb sel) s = .next t ∧ ProgramEnds s t q x c (.poison 0x20 0 0 0)))
  ∧ (∀ (n : BitVec 2) (s : State) (q : Nat) (x : Seqr) (c : SCmd), Running s q x c → x.Accumulated →
    ∃ t, exec (.sAclr n) s = .next t ∧ (∀ k < 8192, t.accAt q n.toNat k = 0)
      ∧ (∀ u m k, k < 8192 → m < 4 → (u, m) ≠ (q, n.toNat) → t.accAt u m k = s.accAt u m k)
      ∧ t.seqr q = x.past ∧ ∀ k, k ≠ q → t.seqr k = s.seqr k)
  ∧ (∀ (k : BitVec 1) (s : State) (q : Nat) (x : Seqr) (c : SCmd) (key : Nat), Running s q x c → RunAllowed s q x key →
    ∃ t w, exec (.sRun k) s = .next t ∧ (t.seqr q).run = some w ∧ w.conf = x.conf ∧ w.optr = x.optr ∧ w.keep = (k == 1)
      ∧ w.frame = none ∧ { t.seqr q with run := x.run, hold := x.hold } = x ∧ { t with seqrs := s.seqrs } = s
      ∧ ∀ j, j ≠ q → t.seqr j = s.seqr j)
  ∧ ∀ (k : BitVec 1) (s : State) (q : Nat) (x : Seqr) (c : SCmd), Running s q x c →
    (∀ key, x.inr = some key → (s.ring key).eb < entryNeeds (decide (32 ≤ q)) x.conf)
      ∨ (q < 32 ∧ ∀ sel, x.sel = some sel → 4 ≤ sel ∧ x.conf.mode = true) →
    ∃ t, exec (.sRun k) s = .next t ∧ ProgramEnds s t q x c (.poison 0x11 0 0 0x0A)

/-- R270, R271: each turn of a DRAIN writes one row of the set, converted, at its address; then the drain zeroes the set under
Z and advances its base; under BAR it then adds its bytes to the phaser. -/
def Obligations.StreamDrains : Prop :=
  (∀ (bar z : BitVec 1) (rm ty : BitVec 3) (n : BitVec 2) (s : State) (q : Nat) (x : Seqr) (c : SCmd) (p : Place),
    DrainRow s q x c bar rm ty → x.row < 64 →
    let sz := drainBytes ty.toNat
    let va := x.optr + BitVec.ofNat 64 (x.row * x.par.opitch)
    va.toNat % 4096 + 128 * sz ≤ 4096 → s.ReachesFor (x.agent q) va .store p → p.sc = true → p.spans (128 * sz) →
    ∃ t, exec (.sDrain bar z rm ty n) s = .next t
      ∧ (∀ j < 128, t.peekNat (p.add (j * sz)) sz =
          drained ty.toNat (rmOf rm) x (128 * x.row + j) (s.accAt q n.toNat (128 * x.row + j)))
      ∧ (∀ o : Place, o.proper → (∀ k < 128 * sz, samePlace (p.add k) o = false) → t.peek o = s.peek o)
      ∧ (t.seqr q).row = x.row + 1 ∧ (t.seqr q).conf = x.conf ∧ (t.seqr q).optr = x.optr
      ∧ (∀ j, j ≠ q → t.seqr j = s.seqr j) ∧ t.accs = s.accs ∧ t.threads = s.threads ∧ t.flying = s.flying ∧ t.wf)
  ∧ (∀ (bar z : BitVec 1) (rm ty : BitVec 3) (n : BitVec 2) (s : State) (q : Nat) (x : Seqr) (c : SCmd),
    DrainRow s q x c bar rm ty → x.row = 64 →
    ∃ t, exec (.sDrain bar z rm ty n) s = .next t
      ∧ (t.seqr q).optr = x.optr + x.par.ostep ∧ (t.seqr q).dcnt = x.dcnt + 1 ∧ (t.seqr q).sdone.drains = x.sdone.drains + 1
      ∧ (bar = 0 → (t.seqr q).row = 0 ∧ (t.seqr q).conf = x.past.conf)
      ∧ (bar = 1 → (t.seqr q).row = 65 ∧ (t.seqr q).conf = x.conf)
      ∧ (∀ k < 8192, t.accAt q n.toNat k = if z = 1 then 0 else s.accAt q n.toNat k)
      ∧ (∀ u m k, k < 8192 → m < 4 → (u, m) ≠ (q, n.toNat) → t.accAt u m k = s.accAt u m k)
      ∧ ∀ j, j ≠ q → t.seqr j = s.seqr j)
  ∧ (∀ (z : BitVec 1) (rm ty : BitVec 3) (n : BitVec 2) (s : State) (q : Nat) (x : Seqr) (c : SCmd) (p : Place),
    DrainRow s q x c 1 rm ty → x.row = 65 → s.PhaserAt (x.agent q) x.barAt x.par.phaser p → p.sc = true → p.spans 32 →
    s.awayPhaser x.barAt = false → s.flipWaits p = false → (s.ph p).broken = false →
    let y := { s.ph p with arrb := min (2 ^ 40 - 1) ((s.ph p).arrb + 8192 * drainBytes ty.toNat) }
    ¬flipsNow y →
    ∃ t, exec (.sDrain 1 z rm ty n) s = .next t ∧ t.ph p = y ∧ (t.seqr q).row = 0 ∧ (t.seqr q).conf = x.past.conf
      ∧ ∀ o : Place, o.proper → (∀ k < 32, samePlace (p.add k) o = false) → t.peek o = s.peek o)
  ∧ ∀ (bar z : BitVec 1) (rm ty : BitVec 3) (n : BitVec 2) (s : State) (q : Nat) (x : Seqr) (c : SCmd), Running s q x c →
    x.Accumulated → 3 ≤ ty.toNat ∨ rm = 7 →
    ∃ t, exec (.sDrain bar z rm ty n) s = .next t ∧ ProgramEnds s t q x c (.poison 0x11 0 0 0x0A)

/-! ### Frames -/

/-- R249, R251-R253, R273, R412: at a boundary of a bus, a transmitter whose RUN waits on a filled entry admits a frame with
what its entry holds, when no tile listens or the listener is ready, which then takes the frame with the entry that it waits on,
and not when the listener is not ready; the frame in flight ends, is counted, and leaves each listener's window to be
accumulated, and the transmitter goes on; the lines that the gap finds low are reported, and eight of them lose the comb, unless
the lasers are off; a boundary comes whatever the bus does. -/
def Obligations.FrameBoundaries : Prop :=
  (∀ (s : State) (b : Nat) (x : Seqr) (w : Window) (key : Nat) (p : Place), QuietBoundary s b → s.members b = [32 + b] →
    s.seqr (32 + b) = x → x.run = some w → w.frame = none → x.goes = true → x.closed = [] → x.wnow ≤ s.now.toNat →
      x.inr = some key → (s.ring key).mark x.inq.toNat = 1 → 2 ^ 31 ≤ (x.inq - (s.ring key).fill).toNat →
    (s.bus b).flight = none → s.fellowOut b = false →
    let va := (s.ring key).base + BitVec.ofNat 64 (x.inq.toNat % 2 ^ (s.ring key).log2n * (s.ring key).eb)
    let n := entryNeeds true w.conf
    s.marks = [] → va.toNat % 4096 + n ≤ 4096 → 0 < n → s.ReachesFor (x.agent (32 + b)) va .load p →
    ∃ t f, exec .frameBoundary s = .next t ∧ (t.bus b).flight = some f ∧ (t.bus b).frame = (s.bus b).frame + 1
      ∧ f.number = (s.bus b).frame ∧ f.wd = w.conf.wd ∧ f.fmt = w.conf.fmt ∧ f.bytes.length = n ∧ BytesAt s p f.bytes
      ∧ (t.seqr (32 + b)).run = some { w with frame := some f, rerun := x.again } ∧ t.creg (0x8880 + 8 * (s.bus b).comb) = 0)
  ∧ (∀ (s : State) (b u : Nat) (x y : Seqr) (w v : Window) (key key' : Nat) (p p' : Place), QuietBoundary s b →
      s.members b = [32 + b, u] → u < 32 → s.seqr (32 + b) = x → x.run = some w → w.frame = none → x.goes = true → x.closed = [] →
      x.again = false → x.wnow ≤ s.now.toNat → x.inr = some key → (s.ring key).mark x.inq.toNat = 1 →
      2 ^ 31 ≤ (x.inq - (s.ring key).fill).toNat → (s.bus b).flight = none → s.fellowOut b = false →
    let va := (s.ring key).entry x.inq.toNat
    let n := entryNeeds true w.conf
    s.marks = [] → va.toNat % 4096 + n ≤ 4096 → 0 < n → s.ReachesFor (x.agent (32 + b)) va .load p →
    TileWaits s u y v key' p' → v.conf.wd = w.conf.wd → v.conf.fmta = 3 ∨ v.conf.fmta = w.conf.fmt →
    ∃ t f z, exec .frameBoundary s = .next t ∧ (t.bus b).flight = some f ∧ f.number = (s.bus b).frame ∧ BytesAt s p f.bytes
      ∧ (t.seqr u).busy = some z ∧ z.conf = v.conf ∧ z.frame = some f ∧ z.bus = b ∧ z.ring = key' ∧ z.q = y.inq
      ∧ z.entry.length = entryNeeds false v.conf ∧ BytesAt s p' z.entry ∧ (t.seqr u).run = none
      ∧ (t.seqr u).conf.upc = y.conf.upc + 1)
  ∧ (∀ (s : State) (b u : Nat) (x : Seqr) (w : Window), QuietBoundary s b → s.members b = [32 + b, u] → u < 32 →
      s.seqr (32 + b) = x → x.run = some w → w.frame = none → x.again = false → (s.bus b).flight = none →
      (s.seqr u).leaving = false → s.tileReady u = false →
    ∃ t, exec .frameBoundary s = .next t ∧ (t.bus b).flight = none ∧ (t.bus b).frame = (s.bus b).frame
      ∧ (t.seqr (32 + b)).run = some w)
  ∧ (∀ (s : State) (b u : Nat) (x y : Seqr) (w v : Window) (f : Frame), QuietBoundary s b → s.members b = [32 + b, u] → u < 32 →
    s.windowsOf b = [u] → s.seqr (32 + b) = x → s.seqr u = y → x.run = some w → w.frame = some f → y.busy = some v →
    v.frame = some f → v.conf.mode = true → (s.bus b).flight = some f → f.bad = false → y.leaving = false →
    x.stop = false → y.stop = false →
    ∃ t, exec .frameBoundary s = .next t ∧ (t.bus b).flight = none ∧ (t.bus b).frame = (s.bus b).frame
      ∧ (t.seqr u).busy = none ∧ (t.seqr u).closed = y.closed ++ [{ v with lost := 0, margin := 0xFFFF }]
      ∧ (t.seqr (32 + b)).sdone.frames = x.sdone.frames + 1 ∧ (t.seqr (32 + b)).run = none
      ∧ (t.seqr (32 + b)).conf.upc = x.conf.upc + 1 ∧ (t.seqr (32 + b)).windex = x.windex + 1)
  ∧ (∀ (s : State) (b : Nat) (low lost : BitVec 64) (margins : List (Nat × Nat)), s.ev = some (.frameBoundary b low lost margins) →
    b < 4 → (s.bus b).comb ≤ 4 →
    let comb := (s.bus b).comb
    let shown := low ||| s.deadMask comb
    let new := (List.range 64).filter fun i => shown.getLsbD i && !(s.creg (0x8880 + 8 * comb)).getLsbD i
    ∃ t, exec .frameBoundary s = .next t
      ∧ ((s.bus b).off = true → t.creg (0x8880 + 8 * comb) = s.creg (0x8880 + 8 * comb))
      ∧ ((s.bus b).off = false →
          t.creg (0x8880 + 8 * comb) = shown
          ∧ t.cfield (0x88A8 + 8 * comb) 63 32 = min 0xFFFFFFFF (s.cfield (0x88A8 + 8 * comb) 63 32 + new.length)
          ∧ (∀ i ∈ new, (comb, i, s.now.toNat) ∈ t.lowLines)
          ∧ (∀ y ∈ t.lowLines, y.1 = comb → y.2.1 < 64 → shown.getLsbD y.2.1 = true)
          ∧ (new ≠ [] → s.cfield 0x8908 0 0 = 0 → t.cfield 0x4000 5 5 = 1)
          ∧ (8 ≤ ((List.range 64).filter fun i => shown.getLsbD i).length → (∀ k < 4, (s.bus k).comb = comb → (s.bus k).off = false) →
              t.cfield (0x88A8 + 8 * comb) 1 0 = 2)))
  ∧ ∀ (s : State) (b : Nat) (low lost : BitVec 64) (margins : List (Nat × Nat)),
    s.ev = some (.frameBoundary b low lost margins) → ∃ t, exec .frameBoundary s = .next t

/-- R254-R259, R273: the accumulation of a REFMODE window leaves in each element of its set what R259 states of its channel and
column, advances WINDEX and counts the window; no other element changes. -/
def Obligations.WindowsAccumulate : Prop :=
  ∀ (s : State) (u : Nat) (x : Seqr) (w : Window) (ws : List Window) (f : Frame), s.ev = some (.accumulation u) →
    s.seqr u = x → u < 32 → x.closed = w :: ws → x.ending = none → w.missed = false → w.conf.mode = true → w.conf.acc < 4 →
    w.frame = some f → x.str = none → x.hold = none → (∀ k ∈ s.ringWaits, k.ring ≠ w.ring) →
    ∃ t, exec .accumulation s = .next t
      ∧ (∀ i < 64, ∀ j < 128, RefAccumulates w.conf.g (streamFmt f.fmt).2 (streamFmt w.conf.fmt).2 (w.lost.getLsbD i)
          (lineOf 64 f.fmt f.wd f.scm f.scx f.bytes i)
          (lineOf 128 w.conf.fmt w.conf.wd w.conf.scm w.conf.scx w.entry j)
          (s.accAt u w.conf.acc (128 * i + j)) (t.accAt u w.conf.acc (128 * i + j)))
      ∧ (∀ v m k, k < 8192 → m < 4 → (v, m) ≠ (u, w.conf.acc) → t.accAt v m k = s.accAt v m k)
      ∧ (t.seqr u).closed = ws ∧ (t.seqr u).busy = x.busy ∧ (t.seqr u).windex = x.windex + 1
      ∧ (t.seqr u).inq = (if w.keep then x.inq else x.inq + 1) ∧ (t.seqr u).sdone.frames = x.sdone.frames + 1
      ∧ (t.seqr u).sel = x.sel ∧ t.threads = s.threads ∧ t.flying = s.flying

/-- R265, R267, R396, R397: what reaches an import port: a frame that matches its configuration, within its slack, is
integrated by a listener that is ready, whether or not it is about to leave or to stop, and missed by one that is not; another
source clears UP; a comb that fails, its lasers on, is replaced by comb 4 where that is free. -/
def Obligations.ImportsAndCombs : Prop :=
  (∀ (s : State) (f : ImportPkt) (u : Nat) (x : Seqr) (w : Window), s.ev = some (.importFrame f) →
    let off := 0x90A0 + 8 * f.port
    s.cfield off 63 62 = 3 → s.cfield off 49 48 = f.bus → s.cfield off 47 32 = f.module → (s.bus (4 + f.port)).flight = none →
    s.listeners (4 + f.port) = [u] → s.seqr u = x → x.run = some w → w.missed = false →
    let inTime := f.delay ≤ s.cfield off 27 16 + s.cfield off 11 0 ∧ s.cfield off 27 16 ≤ f.delay + s.cfield off 11 0
    ∃ t, exec .importFrame s = .next t ∧ (t.bus (4 + f.port)).frame = BitVec.ofNat 32 f.frame + 1
      ∧ (inTime → s.importReady u = true → w.conf.wd = f.wd → (w.conf.fmta = 3 ∨ w.conf.fmta = f.fmt) →
          (∀ key va n, s.entryAtInq u = some (key, va, n) → ∃ s' bs, s.engineRead (x.agent u) va n = .data s' bs) →
          ∃ v g, (t.seqr u).busy = some v ∧ v.missed = false ∧ v.lost = f.lost ∧ v.conf = w.conf ∧ v.frame = some g
            ∧ g.bytes = f.entry ∧ (t.seqr u).run = none ∧ (t.seqr u).conf.upc = x.conf.upc + 1)
      ∧ (¬inTime ∨ s.importReady u = false →
          ∃ v, (t.seqr u).closed = x.closed ++ [v] ∧ v.missed = true ∧ (v.alarm = true ↔ ¬inTime) ∧ (t.seqr u).run = none
            ∧ (t.seqr u).conf.upc = x.conf.upc + 1))
  ∧ (∀ (s : State) (port module bus delay : Nat) (light : Bool), s.ev = some (.importLight port module bus delay light) →
    let off := 0x90A0 + 8 * port
    port < 4 →
    ∃ t, exec .importLight s = .next t
      ∧ (t.cfield off 62 62 = 1 ↔ light = true ∧ s.cfield off 63 63 = 1 ∧ s.cfield off 49 48 = bus ∧ s.cfield off 47 32 = module
          ∧ delay ≤ 4095))
  ∧ ∀ (s : State) (c b : Nat), s.ev = some (.combLoss c) → c < 4 → (s.bus b).comb = c → b < 4 →
    (s.bus b).off = false → (∀ k < 4, (s.bus k).comb = c → k = b) → s.cfield (0x88A8 + 8 * c) 1 0 ≠ 2 → s.cfield 0x8908 0 0 = 0 →
    s.colls = [] →
    ∃ t, exec .combLoss s = .next t ∧ t.cfield (0x88A8 + 8 * c) 1 0 = 2
      ∧ (s.cfield 0x88C8 1 0 ≠ 2 → s.cfield 0x9050 63 61 = 0 → (t.bus b).fails = some true ∧ t.cfield 0x9050 61 61 = 1
          ∧ t.cfield 0x9050 15 8 = c)
      ∧ (s.cfield 0x88C8 1 0 = 2 → (t.bus b).fails = some false)


/-! ### Queues and launches -/

/-- R315, R316, R322: what a write of QCTL and a doorbell do to a queue, and what becomes of the packet at its head: a slot
that cannot be read halts the queue, a packet that breaks the layout is refused, and one that passes the checks becomes a
launch with the next launch id. -/
def Obligations.QueuesTakePackets : Prop :=
  (∀ (s : State) (q : Nat) (v : BitVec 64), s.ev = some (.qctl q v) → q < 64 →
    let o := 0x1000 + 0x40 * q
    let enables := v.getLsbD 0 = true ∧ 4 ≤ v.toNat / 2 ^ 4 % 16 ∧ v.toNat / 2 ^ 4 % 16 ≤ 12
    (s.cfield (o + 8) 0 0 = 1 →
      ∃ t, exec .qctl s = .next t ∧ t.cfield (o + 8) 0 0 = (v.getLsbD 0).toNat ∧ t.cfield (o + 8) 63 1 = s.cfield (o + 8) 63 1
        ∧ OnlyRegisters s t [o + 8])
    ∧ (s.cfield (o + 8) 0 0 = 0 →
      ∃ t, exec .qctl s = .next t ∧ t.cfield (o + 8) 63 48 = v.toNat / 2 ^ 48 ∧ t.cfield (o + 8) 7 4 = v.toNat / 2 ^ 4 % 16
        ∧ (¬enables → t.cfield (o + 8) 0 0 = 0 ∧ OnlyRegisters s t [o + 8])
        ∧ (enables → t.cfield (o + 8) 0 0 = 1 ∧ t.cfield (o + 0x18) 31 0 = 0 ∧ t.cfield (o + 0x20) 31 0 = 0
          ∧ t.cfield (o + 0x28) 31 16 = 0 ∧ t.cfield (o + 0x28) 7 0 = 0 ∧ t.cfield (o + 0x28) 63 32 = s.cfield (o + 0x28) 63 32
          ∧ t.queue q = { visible := 0, hold := none }
          ∧ OnlyRegisters s { t with queues := s.queues } [o + 8, o + 0x18, o + 0x20, o + 0x28])))
  ∧ (∀ (s : State) (q : Nat) (n : BitVec 32), s.ev = some (.doorbell q n) → q < 64 →
    let o := 0x1000 + 0x40 * q
    let head := BitVec.ofNat 32 (s.cfield (o + 0x18) 31 0)
    let open_ := s.cfield 0x10 7 0 = 6 ∧ s.cfield (o + 8) 0 0 = 1 ∧ s.cfield (o + 0x28) 7 0 = 0
    (¬open_ → exec .doorbell s = .next s)
    ∧ (open_ → 2 ^ s.cfield (o + 8) 7 4 < (n - head).toNat →
        ∃ t, exec .doorbell s = .next t ∧ t.cfield (o + 0x28) 7 0 = 1 ∧ t.cfield (o + 0x28) 63 8 = s.cfield (o + 0x28) 63 8
          ∧ Signals s t 3 ∧ OnlySignals s t [o + 0x28])
    ∧ (open_ → (n - head).toNat ≤ 2 ^ s.cfield (o + 8) 7 4 →
        ∃ t, exec .doorbell s = .next t ∧ t.cfield (o + 0x20) 31 0 = n.toNat
          ∧ (t.queue q).visible = (if ((s.queue q).visible - head).toNat < (n - head).toNat then n else (s.queue q).visible)
          ∧ (∀ k, k ≠ q → t.queue k = s.queue k) ∧ OnlyRegisters s { t with queues := s.queues } [o + 0x20]))
  ∧ (∀ (s : State) (q : Nat), s.ev = some (.acceptance q) → q < 64 → s.queueWaits q = true → (s.queue q).hold = none →
    Config.deviceBytes < s.slotAt q + 128 →
    let o := 0x1000 + 0x40 * q
    ∃ t, exec .acceptance s = .next t ∧ t.cfield (o + 0x28) 7 0 = 2 ∧ t.cfield (o + 0x28) 63 8 = s.cfield (o + 0x28) 63 8
      ∧ Signals s t 3 ∧ OnlySignals s t [o + 0x28])
  ∧ (∀ (s : State) (q : Nat) (bs : List Byte), PacketNext s q bs → ¬PacketGood bs → packetFlag bs 3 = false →
    packetFlag bs 4 = false →
    let o := 0x1000 + 0x40 * q
    ∃ t, exec .acceptance s = .next t ∧ t.cfield (o + 0x18) 31 0 = (s.cfield (o + 0x18) 31 0 + 1) % 2 ^ 32
      ∧ t.cfield (o + 0x28) 31 16 = min 0xFFFF (s.cfield (o + 0x28) 31 16 + 1)
      ∧ OnlyRegisters s { t with queues := s.queues } [o + 0x18, o + 0x28])
  ∧ ∀ (s : State) (q root : Nat) (bs : List Byte) (r : Region), PacketNext s q bs →
    (∃ e, s.locate (s.queueAgent q) (BitVec.ofNat 64 (s.cfield (0x1000 + 0x40 * q + 0x10) 51 8 * 256)) .load
      = .ok (.dev root) e) →
    Acceptable s (s.queueAgent q) root bs r → s.nextLaunch < 2 ^ 32 → (∀ l ∈ s.launches, l.id ≠ s.nextLaunch) →
    let o := 0x1000 + 0x40 * q
    ∃ t l, exec .acceptance s = .next t ∧ t.launch? s.nextLaunch = some l
      ∧ AcceptedAs l s.nextLaunch (.queue q) none (s.queueAgent q).asid r bs ∧ t.nextLaunch = idAfter s.nextLaunch
      ∧ t.cfield (o + 0x18) 31 0 = (s.cfield (o + 0x18) 31 0 + 1) % 2 ^ 32
      ∧ t.cfield (o + 0x28) 63 32 = s.nextLaunch ∧ t.cfield (o + 0x28) 31 0 = s.cfield (o + 0x28) 31 0
      ∧ OnlyRegisters s { t with queues := s.queues, launches := s.launches, nextLaunch := s.nextLaunch } [o + 0x18, o + 0x28]

/-- R238, R289, R322: LAUNCH takes the next call index whatever becomes of it; index 2^30 refuses the child, as a packet that
is not 64-byte aligned is; an accepted packet becomes a child of the caller's launch, whose id the future returns, at once or,
for LAUNCH.END, when it ends; an unordered LAUNCH traps in class D1. -/
def Obligations.LaunchMakesAChild : Prop :=
  (∀ (g : Guard) (d a : Reg6) (endd : Bool) (s : State), s.Runs g [rs a] [rs d] → s.thr.dclass = true →
    exec (.launch g d a true endd) s = .next (s.trap ⟨.determinism, 0, 0, 0, 0⟩))
  ∧ (∀ (g : Guard) (d a : Reg6) (unord endd : Bool) (s : State), s.Issuable g [rs a] (rs d) →
    s.thr.dclass = false ∨ unord = false →
    (2 ^ 30 ≤ s.thr.nlaunch.toNat →
      ∃ t tag, exec (.launch g d a unord endd) s = .next t
        ∧ Issued s.called t (rs d) Cls.shepherd (BitVec.allOnes 256) 8 [] tag ∧ Answers s t tag (.poison 0x11 0 0 0x0A)
        ∧ OnlyIssues s t)
    ∧ (s.thr.nlaunch.toNat < 2 ^ 30 → (s.thr.sreg a).toNat % 64 ≠ 0 →
      ∃ t tag, exec (.launch g d a unord endd) s = .next t
        ∧ Issued s.called t (rs d) Cls.shepherd (BitVec.allOnes 256) 8 [] tag
        ∧ Answers s t tag (.poison 0x11 (s.thr.sreg a) 4 0x0A) ∧ OnlyIssues s t))
  ∧ ∀ (g : Guard) (d a : Reg6) (unord endd : Bool) (s : State) (p p' : Place) (bs bs' : List Byte) (r : Region) (l : Launch),
    s.Issuable g [rs a] (rs d) → s.thr.dclass = false ∨ unord = false → s.thr.nlaunch.toNat < 2 ^ 30 →
    let va := s.thr.sreg a
    va.toNat % 64 = 0 → s.Reaches va .load p → p.sc = true → s.Reaches (va + 64) .load p' → p'.sc = true →
    bs.length = 64 → bs'.length = 64 → BytesAt s p bs → BytesAt s p' bs' →
    s.launch? (s.thr.pack / 2 ^ 24) = some l →
    Acceptable s { s.ctx.agent with pack := none } l.region (bs ++ bs') r →
    (∀ x ∈ s.launches, x.id ≠ s.nextLaunch) →
    ∃ t tag c, exec (.launch g d a unord endd) s = .next t
      ∧ Issued s.called t (rs d) Cls.shepherd (BitVec.allOnes 256) 8 [] tag
      ∧ t.launch? s.nextLaunch = some c ∧ t.nextLaunch = idAfter s.nextLaunch
      ∧ AcceptedAs c s.nextLaunch (.child (s.thr.pack / 2 ^ 24))
          (some { lid := s.thr.pack / 2 ^ 24, pack := s.thr.pack % 2 ^ 24, rank := s.thr.rank, ordered := !unord
                  call := (s.thr.pack % 2 ^ 24 * 2 ^ 10 + s.thr.rank) * 2 ^ 30 + s.thr.nlaunch.toNat })
          s.ctx.asid r (bs ++ bs')
      ∧ (endd = false → c.endTag = none ∧ Answers s t tag (.full (wide (BitVec.ofNat 64 (s.nextLaunch * 2 ^ 32)))))
      ∧ (endd = true → c.endTag = some (tag, s.ctx) ∧ t.flying = s.flying)
      ∧ { t with threads := s.threads, binds := s.binds, epochs := s.epochs, flying := s.flying, lines := s.lines,
                 launches := s.launches, nextLaunch := s.nextLaunch } = s

/-- R13, R154, R323-R326, R328, R355: a launch waits for its start time and its semaphores; the launch of highest effective
priority that fits is served, its next pack starting on cores that hold no other; it holds its clusters after 1 ms at priority
15; a pack of exited threads ends, the last one completing the launch with its record; a region kill ends waiting launches. -/
def Obligations.ShepherdServesLaunches : Prop :=
  (∀ (s : State) (l : Launch) (which : Nat) (m : Sem) (p : Place) (w : Word), s.ev = some (.semaphoreRead l.id which) →
    LaunchIn s l → (if which = 0 then l.sem0 else l.sem1) = some m → m.ok = false → l.ready = false → l.semFail = false →
    l.killed = false → s.ReachesFor l.agent m.addr .load p → p.sc = true → s.marks = [] → Holds s p 8 w.toNat →
    (semHolds m.cond w m.val →
      ∃ t x, exec .semaphoreRead s = .next t ∧ t.launch? l.id = some x
        ∧ (if which = 0 then x.sem0 else x.sem1) = some { m with ok := true })
    ∧ (¬semHolds m.cond w m.val → ∃ t, exec .semaphoreRead s = .next t ∧ { t with lines := s.lines } = s))
  ∧ (∀ (s : State) (l : Launch) (which : Nat) (m : Sem) (code reason : Nat), s.ev = some (.semaphoreRead l.id which) →
    LaunchIn s l → (if which = 0 then l.sem0 else l.sem1) = some m → m.ok = false → l.ready = false → l.semFail = false →
    l.killed = false → s.locate l.agent m.addr .load = .fail code reason → (∀ p ∈ s.packs, p.key / 2 ^ 24 ≠ l.id) →
    l.hold = none → l.crec = none → l.csig = none → l.endTag = none →
    ∃ t, exec .semaphoreRead s = .next t ∧ t.launch? l.id = none)
  ∧ (∀ (s : State) (l : Launch) (n : Nat), s.ev = some (.start l.id) → LaunchIn s l → l.timeOk = false → l.start = some n →
    n ≤ s.now.toNat → ∃ t x, exec .start s = .next t ∧ t.launch? l.id = some x ∧ x.timeOk = true)
  ∧ (∀ (s : State) (l : Launch) (r : Region) (k cluster : Nat) (rest cores tiles buses : List Nat),
    s.ev = some (.dispatch l.id cluster) → s.nextServed = some l → LaunchIn s l → l.left = k :: rest →
    s.pack? (l.id * 2 ^ 24 + k) = none → (∀ x ∈ s.revived, x.key ≠ l.id * 2 ^ 24 + k) →
    s.region? l.region = some r → r.trail = 0 → l.tpc ≤ 8 → l.pb2 ≤ 368 →
    s.placesOn s.resident l cluster = some (cores, tiles, buses) →
    (∀ q, q ∈ tiles ∨ (∃ b ∈ buses, q = 32 + b) → (s.seqr q).cmd = none) →
    (∀ x ∈ s.launches, s.servable x = true → s.fits x = true → s.windowRoom x = true → s.effective x ≤ s.effective l)
    ∧ cores.length = l.cores ∧ (∀ c ∈ cores, c / 128 = cluster ∧ ∀ q ∈ s.packs, q.out = none → c ∉ q.cores)
    ∧ ∃ t p x, exec .dispatch s = .next t
      ∧ (∀ i c, cores[i]? = some c → CoreStarts t l r (l.id * 2 ^ 24 + k) c i)
      ∧ (∀ u ∈ tiles, { t.seqr u with unfreed := [] } = idleSeqr ∧ ∀ n < 4, ∀ e < 8192, t.accAt u n e = 0)
        ∧ (∀ b ∈ buses, (t.bus b).frame = 0)
      ∧ t.pack? (l.id * 2 ^ 24 + k) = some p ∧ p.cores = cores ∧ p.tiles = tiles ∧ p.buses = buses ∧ p.cluster = cluster
      ∧ t.launch? l.id = some x ∧ x.left = l.left.filter (· ≠ k) ∧ x.since = s.now.toNat ∧ x.holds = false ∧ k ∈ x.begun
      ∧ t.mem = s.mem ∧ ∀ g, g / 8 ∉ cores → t.thread g = s.thread g)
  ∧ (∀ (s : State) (l : Launch), s.ev = some (.holdClusters l.id) → LaunchIn s l → l.ready = true → l.holds = false →
    l.left ≠ [] → l.since + (15 - s.prioOf l) * agingUnit + 1000000 * Config.ns ≤ s.now.toNat →
    ∃ t, exec .holdClusters s = .next t ∧ t.launch? l.id = some { l with holds := true } ∧ { t with launches := s.launches } = s)
  ∧ (∀ (s : State) (p : Pack) (l : Launch), PackEnds s p l → ¬LastPack s p l → l.hold = none →
    ∃ t x, exec .packEnd s = .next t ∧ t.pack? p.key = none ∧ (∀ c ∈ p.cores, (t.core c).pack = none)
      ∧ t.launch? l.id = some x ∧ x.ended = l.ended + 1 ∧ x.exited = l.exited + 1)
  ∧ (∀ (s : State) (p : Pack) (l : Launch) (a : Word) (pa : Nat), PackEnds s p l → LastPack s p l → l.csig = none →
    l.crec = some a → s.ReachesFor l.agent a .store (.dev pa) → s.PlainFor p.key →
    ∃ t, exec .packEnd s = .next t ∧ t.pack? p.key = none ∧ (∀ c ∈ p.cores, (t.core c).pack = none) ∧ t.launch? l.id = none
      ∧ Holds t (.dev pa) 4 (if l.faulted then 0x11 else 0) ∧ Holds t (.dev (pa + 4)) 4 l.id
      ∧ Holds t (.dev (pa + 8)) 8 s.now.toNat ∧ Holds t (.dev (pa + 0x18)) 4 (l.exited + 1)
      ∧ (∀ tag ctx, l.endTag = some (tag, ctx) → t.flying = s.flying ++
          [⟨tag, ctx, .full (BitVec.ofNat 2048 (l.id * 2 ^ 32 + (if l.faulted then 0x11 else 0)))⟩]))
  ∧ (∀ (s : State) (asid : BitVec 16) (rcb : BitVec 64) (pa : Nat), s.ev = some (.regionKill asid rcb) → s.packs = [] →
    s.kills = [] → (∃ e, s.locate { core := 0, lid := 0, pack := none, asid := asid } rcb .load = .ok (.dev pa) e) →
    let under := fun (l : Launch) => ∃ r, s.region? l.region = some r ∧ pa ∈ r.chain
    (∀ l ∈ s.launches, under l → LaunchIn s l ∧ l.crec = none ∧ l.csig = none ∧ l.endTag = none ∧ l.hold = none) →
    ∃ t, exec .regionKill s = .next t ∧ t.cfield 0x3030 31 0 = (s.cfield 0x3030 31 0 + 1) % 2 ^ 32
      ∧ t.cfield 0x3030 63 32 = (s.cfield 0x3030 63 32 + 1) % 2 ^ 32
      ∧ ∀ l ∈ s.launches, (under l → t.launch? l.id = none) ∧ (¬under l → ∃ x ∈ t.launches, x.id = l.id))
  ∧ ∀ (s : State) (asid : BitVec 16) (rcb : BitVec 64), s.ev = some (.regionKill asid rcb) →
    ∃ t, exec .regionKill s = .next t

/-- R5, R310, R327, R357, R358, R360, R363, R365: pre-emption on a cluster picks packs whose kennels are reserved and after
which the launch's pack fits; a pack ready to be saved leaves its cores, tiles and buses for its kennel and returns to the
remaining packs of its launch; a thread block gives back what it was written from, with the reserved bits of control registers
zero; a whole kennel is restored onto the places that the pack then fits. -/
def Obligations.PacksLeaveAndReturn : Prop :=
  (∀ (s : State) (l : Launch) (cluster : Nat), s.ev = some (.preEmption l.id cluster) → s.launch? l.id = some l →
    s.mayPreempt l cluster = true →
    let v := s.victimsOn l cluster
    (s.placesOn (s.staying v) l cluster).isSome = true ∧ VictimsInOrder s l cluster v
    ∧ (∀ x ∈ v.taken, ∀ p, s.pack? x.1 = some p → s.packPrio p ≤ v.prio)
    ∧ (∀ c ∈ clustersOf l.clmask, (s.victimsOn l c).fits = true →
        v.prio < (s.victimsOn l c).prio ∨ (v.prio = (s.victimsOn l c).prio ∧ v.count ≤ (s.victimsOn l c).count))
    ∧ ∃ t, exec .preEmption s = .next t
      ∧ (∀ k p, s.pack? k = some p → (∀ x ∈ v.taken, x.1 ≠ k) → t.pack? k = some p)
      ∧ (∀ x ∈ v.taken, ∀ p, s.pack? x.1 = some p → ∃ q u, t.pack? x.1 = some q ∧ q.saving = true ∧ q.kennel = some u
          ∧ { q with saving := p.saving, kennel := p.kennel, units := p.units } = p)
      ∧ t.threads = s.threads ∧ t.mem = s.mem ∧ t.pool = s.pool)
  ∧ (∀ (s : State) (p : Pack) (l : Launch) (u : Nat), s.ev = some (.save p.key) → s.pack? p.key = some p → LaunchIn s l →
    l.id = p.key / 2 ^ 24 → p.kennel = some u → p.saving = true → p.killing = false → s.saveReady p = true →
    (∀ f ∈ s.flying, ∀ k b n e, f.res ≠ .reset k b n e) →
    ∃ t q x, exec .save s = .next t ∧ t.pack? p.key = some q ∧ q.out = some u ∧ q.saving = false
      ∧ (∀ c ∈ p.cores, (t.core c).pack = none ∧ (∀ i < 8, (t.thread (c * 8 + i)).status = .idle)
          ∧ ∀ k < 16, (t.ring (c * 16 + k)).reset = false)
      ∧ t.launch? l.id = some x ∧ (∀ k, k ∈ x.left ↔ k = p.key % 2 ^ 24 ∨ k ∈ l.left) ∧ x.since = s.now.toNat
      ∧ t.cfield 0x3018 63 32 = (s.cfield 0x3018 63 32 + 1) % 2 ^ 32 ∧ t.cfield 0x3018 31 0 = s.cfield 0x3018 31 0)
  ∧ (∀ (x u : Thread), x.regs = [] →
    let y := threadOfBlock u (savedBlock x)
    (∀ i < 144, y.value i = x.value i) ∧ (∀ i < 144, x.rstate i = .full → y.rstate i = .full)
    ∧ (∀ i < 144, ∀ pv, x.rstate i = .poisoned pv → y.rstate i = .poisoned pv)
    ∧ y.pc = x.pc ∧ y.asid = x.asid ∧ y.trapidx = x.trapidx ∧ y.fprm = x.fprm ∧ y.fpflags = x.fpflags ∧ y.seqkey = x.seqkey
    ∧ y.seqdesc = x.seqdesc &&& 0x000FFFFFFFFFFF80 ∧ y.seqmode = x.seqmode &&& 0x0000FFFF00000003
    ∧ y.frbase = x.frbase &&& 0x000FFFFFFFFFFFC0 ∧ y.utvec = x.utvec &&& 0x000FFFFFFFFFFFFC ∧ y.count = x.count
    ∧ y.deadlink = x.deadlink ∧ y.refused = x.refused ∧ y.nlaunch = x.nlaunch ∧ y.regs = [])
  ∧ ∀ (s : State) (p : Pack) (l : Launch) (u cluster : Nat) (cores tiles buses : List Nat),
    s.ev = some (.restore p.key cluster) → s.pack? p.key = some p → s.launch? (p.key / 2 ^ 24) = some l → p.out = some u →
    s.nextServed = some l → l.left.head? = some (p.key % 2 ^ 24) →
    s.placesOn s.resident { l with left := [p.key % 2 ^ 24] } cluster = some (cores, tiles, buses) →
    (∀ code, s.kennelCorrupt p l (s.kennelPa u) = some code → ∃ t, exec .restore s = .next t)
    ∧ (s.kennelCorrupt p l (s.kennelPa u) = none → s.copies = [] →
      ∃ t q x, exec .restore s = .next t ∧ t.pack? p.key = some q ∧ q.out = none ∧ q.kennel = none ∧ q.cluster = cluster
        ∧ q.cores = cores ∧ q.tiles = tiles ∧ q.buses = buses ∧ (∀ c ∈ cores, (t.core c).pack = some p.key)
        ∧ t.launch? l.id = some x ∧ p.key % 2 ^ 24 ∉ x.left ∧ t.mem = s.mem)

/-! ### Translation (spec/03, spec/19) -/

/-- R66, R69, R73, R335, R340, R341, R343, R344: a rebase lowers every timestamp by one amount; a hold that outlasts TIMEOUT
poisons; invalidations are accepted up to sixteen at once and complete oldest first, their translations gone and their note
written; answers of the runtime end the requests that they name; acknowledgements take the oldest access of a thread. -/
def Obligations.TranslationUpkeep : Prop :=
  (∀ (s : State), s.ev = some .rebase → s.rebaseDue = true → s.regions = [] → s.cfield 0x8908 0 0 = 0 →
    ∃ t, exec .rebase s = .next t ∧ t.ltime = s.ltime - rebaseAmount
      ∧ (∀ l, t.stamps l = ((s.stamps l).1 - rebaseAmount, (s.stamps l).2 - rebaseAmount))
      ∧ (t.creg 0x8A00).toNat = min (2 ^ 48 - 1) ((s.creg 0x8A00).toNat + 1) ∧ t.rebaseDue = false
      ∧ Signals s t 5 ∧ OnlySignals s { t with ltime := s.ltime, lines := s.lines, rebaseDue := true } [0x8A00])
  ∧ (∀ (s : State) (i : Nat) (h : Held) (sz : LdSz) (p : Part), s.ev = some (.holdTimeout i) → s.held[i]? = some h →
    h.op = .load sz → h.got = [(p, none)] → h.hold.va = p.va → s.locate h.ctx.agent p.va .load = .held →
    s.outlasted h.hold.since = true →
    ∃ t, exec .holdTimeout s = .next t ∧ t.held = s.held.filter (·.tag ≠ h.tag)
      ∧ t.flying = s.flying ++ [⟨h.tag, h.ctx, .poison 0x10 p.va 0 5⟩]
      ∧ { t with held := s.held, flying := s.flying, fabCopies := s.fabCopies } = s)
  ∧ (∀ (i : Instr) (x : Inval) (s : State),
    (i = .invAll ∧ s.ev = some .invAll ∧ x = ⟨none, 0, 2 ^ 52⟩)
      ∨ (∃ a, i = .invAsid ∧ s.ev = some (.invAsid a) ∧ x = ⟨some a, 0, 2 ^ 52⟩)
      ∨ (∃ a n, i = .invRange ∧ s.ev = some (.invRange a n) ∧ n ≠ 0
          ∧ x = ⟨some a, s.cfield 0x2030 51 16 * 65536, s.cfield 0x2030 51 16 * 65536 + n.toNat * 65536⟩) →
    (16 ≤ s.invs.length → ∃ t, exec i s = .next t ∧ t.cfield 0x2040 0 0 = 1 ∧ t.cfield 0x2040 63 1 = s.cfield 0x2040 63 1
      ∧ OnlyRegisters s t [0x2040])
    ∧ (s.invs.length < 16 → ∃ t, exec i s = .next t ∧ t.invs = s.invs ++ [x]
      ∧ t.cfield 0x2048 31 0 = (s.cfield 0x2048 31 0 + 1) % 2 ^ 32 ∧ OnlyRegisters s { t with invs := s.invs } [0x2048]))
  ∧ (∀ (s : State) (a : BitVec 16), s.ev = some (.invRange a 0) →
    ∃ t, exec .invRange s = .next t ∧ t.cfield 0x2040 1 1 = 1 ∧ OnlyRegisters s t [0x2040])
  ∧ (∀ (s : State) (x : Inval) (r : List Inval), s.ev = some .invalidationComplete → s.invs = x :: r →
    let covered := fun (e : TlbEntry) => (x.asid = none ∨ x.asid = some e.asid) ∧ e.page * 2 ^ e.size < x.hi
      ∧ x.lo < (e.page + 1) * 2 ^ e.size
    let done := (s.cfield 0x2040 63 32 + 1) % 2 ^ 32
    let pa := s.cfield 0x2050 47 3 * 8
    (s.cfield 0x2050 0 0 = 0 ∨ pa + 8 ≤ Config.deviceBytes) → s.transfersUnder x = false →
    ∃ t, exec .invalidationComplete s = .next t ∧ t.invs = r ∧ t.cfield 0x2040 63 32 = done
      ∧ (∀ e, e ∈ t.tlb ↔ e ∈ s.tlb ∧ ¬covered e)
      ∧ (s.cfield 0x2050 0 0 = 0 → t.mem = s.mem ∧ t.flying = s.flying)
      ∧ (s.cfield 0x2050 0 0 = 1 → s.wf → s.phasers = [] → Holds t (.dev pa) 8 done ∧ t.flying = s.flying
          ∧ ∀ o : Place, o.proper → (∀ k < 8, o ≠ .dev (pa + k)) → t.peek o = s.peek o))
  ∧ (∀ (i : Instr) (id : BitVec 32) (s : State),
    (i = .resolved ∧ s.ev = some (.resolved id)) ∨ (i = .invalid ∧ s.ev = some (.invalid id)) →
    (∀ r ∈ s.requests, r.id ≠ id.toNat) → exec i s = .next s)
  ∧ (∀ (i : Instr) (id : BitVec 32) (reason : Nat) (s : State) (r : Request), s.requests.find? (·.id == id.toNat) = some r →
    (i = .invalid ∧ s.ev = some (.invalid id) ∧ reason = 7)
      ∨ (i = .residencyTimeout ∧ s.ev = some (.residencyTimeout id) ∧ s.outlasted r.since = true ∧ reason = 6) →
    ∃ t, exec i s = .next t ∧ t.requests = s.requests.filter (·.id ≠ r.id)
      ∧ t.flying = s.flying ++ (s.askers r).map (fun p => ⟨p.tag, p.ctx, .poison 0x10 (BitVec.ofNat 64 p.lo) 0 reason⟩)
      ∧ (∀ p, p ∈ t.probes ↔ p ∈ s.probes ∧ p ∉ s.askers r)
      ∧ { t with requests := s.requests, flying := s.flying, probes := s.probes } = s)
  ∧ (∀ (id : BitVec 32) (s : State) (r : Request) (p : Probe) (k : Nat), s.ev = some (.resolved id) →
    s.requests.find? (·.id == id.toNat) = some r → s.askers r = [p] → p.serviced + 1 ≤ 0xFFFF → 1 ≤ k → k ≤ 65536 → p.lo < p.hi →
    PagesPass s p.ctx.asid (if p.write then .rmw else .load) p.hi p.lo k →
    ∃ t, exec .resolved s = .next t ∧ t.requests = s.requests.filter (·.id ≠ r.id)
      ∧ t.flying = s.flying ++ [⟨p.tag, p.ctx, .full (wide (BitVec.ofNat 64 ((p.serviced + 1) * 2 ^ 32 + (p.pages + k))))⟩]
      ∧ { t with requests := s.requests, flying := s.flying, probes := s.probes } = s)
  ∧ ∀ (s : State) (g : Nat) (f : Fate) (r : List Fate), s.ev = some (.acknowledgement g) → (s.thread g).unacked = f :: r →
    ∃ t, exec .acknowledgement s = .next t
      ∧ (t.thread g).deadlink.toNat = (if f = .dead then min 0xFFFF ((s.thread g).deadlink.toNat + 1)
          else (s.thread g).deadlink.toNat)
      ∧ (t.thread g).refused.toNat = (if f = .refused then min 0xFFFF ((s.thread g).refused.toNat + 1)
          else (s.thread g).refused.toNat)
      ∧ (t.thread g).unacked = r
      ∧ { t.thread g with unacked := f :: r, deadlink := (s.thread g).deadlink, refused := (s.thread g).refused } = s.thread g
      ∧ (∀ h, h ≠ g → t.thread h = s.thread h) ∧ { t with threads := s.threads } = s

/-! ### Boot and the host (spec/22) -/

/-- R384, R385, R387, R388, R389, R422, R425: a reset ends all work, keeps the memories and NOW, and runs the boot ROM, which
verifies and measures an image of the flash, unless a die is hot; the stages of boot go from one to the next, an error in one
but OPTIC leaving BOOTSTAT there; READY ends in RUN or OPTOFF; a trip stops the package and recovery boots it; the signals of
a link that is down are sent when it is up. -/
def Obligations.BootGoesThroughItsStages : Prop :=
  (∀ (i : Instr) (s : State), (i = .powerOn ∧ s.ev = some .powerOn) ∨ (i = .conventionalReset ∧ s.ev = some .conventionalReset)
      ∨ (i = .tripRecovery ∧ s.cfield 0x10 15 8 = 0x10
          ∧ ∃ temp : BitVec 16, s.ev = some (.tripRecovery temp) ∧ temp.toInt < 70 * 16) →
    ∃ t, exec i s = .next t ∧ Restarted s t
      ∧ (s.cfield 0x10 15 8 = 0x10 → i ≠ .tripRecovery → BootShows t 1 0x10)
      ∧ (s.cfield 0x10 15 8 ≠ 0x10 ∨ i = .tripRecovery →
          (∃ k f, t.fwRun = some k ∧ s.flash[k]? = some f ∧ f.verifies = true ∧ BootShows t 1 0
            ∧ t.cfield 0x10 63 32 = f.version.toNat ∧ t.meas1 = Config.sm3 (f.bytes.map (·.toNat)))
          ∨ ((∀ k f, k = s.fwRun.getD 0 ∨ k = 1 - s.fwRun.getD 0 → s.flash[k]? = some f → f.verifies = false)
            ∧ BootShows t 1 1)))
  ∧ (∀ (ok : Bool) (c : SignedConfig) (s : State), s.ev = some (.config ok c) → BootedTo s 1 →
    ∃ t, exec .config s = .next t ∧ BootShows t 2 (if ok then 0 else 2)
      ∧ (ok = true → t.config = c ∧ t.cfield 0x9000 47 32 = c.moduleId.toNat ∧ t.cfield 0x9000 3 0 = c.domain.length % 16
          ∧ t.cfield 0x9040 23 16 = c.spareA % 256 ∧ t.cfield 0x9048 23 16 = c.spareB % 256)
      ∧ (ok = false → t.config = s.config ∧ OnlySignals s t [0x10]))
  ∧ (∀ (ok : Bool) (s : State), s.ev = some (.ident ok) → BootedTo s 2 →
    ∃ t, exec .ident s = .next t ∧ BootShows t 3 (if ok then 0 else 3) ∧ Signals s t 0 ∧ OnlySignals s t [0x10])
  ∧ (∀ (ok : Bool) (s : State), s.ev = some (.memup ok) → BootedTo s 3 →
    ∃ t, exec .memup s = .next t ∧ BootShows t 4 (if ok then 0 else 4)
      ∧ (∀ pa, t.peek (.dev pa) = if ok then 0 else s.peek (.dev pa)))
  ∧ (∀ (ok : Bool) (temp : BitVec 16) (s : State), s.ev = some (.optic ok temp) → BootedTo s 4 → temp.toInt < 105 * 16 →
    ∃ t, exec .optic s = .next t ∧ BootShows t 5 (if ok then 0 else 5)
      ∧ (ok = true → t.warmed = true
          ∧ (∀ u < 32, t.cfield (0x8000 + 0x40 * u) 0 0 = 1 ∧ t.cfield (0x8000 + 0x40 * u) 63 48 = temp.toNat)
          ∧ ∀ d < 4, s.cfield (0x88A8 + 8 * d) 1 0 = 0 → t.cfield (0x88A8 + 8 * d) 1 0 = 1))
  ∧ (∀ (s : State), s.ev = some .ready → s.cfield 0x10 7 0 = 5 → s.fwRun ≠ none →
    ∃ t, exec .ready s = .next t ∧ BootShows t 6 (s.cfield 0x10 15 8)
      ∧ t.cfield 0x20 33 32 = (if s.cfield 0x20 0 0 = 1 then 1 else 2))
  ∧ (∀ (i : Instr) (temp : BitVec 16) (s : State), 105 * 16 ≤ temp.toInt →
    (i = .trip ∧ ∃ die, s.ev = some (.trip die temp))
      ∨ (i = .trackerService ∧ ∃ tile col ring drift, s.ev = some (.trackerService tile col ring drift temp))
      ∨ (i = .optic ∧ BootedTo s 4 ∧ ∃ ok, s.ev = some (.optic ok temp)) →
    ∃ t, exec i s = .next t ∧ Restarted { s with mem := [] } t ∧ BootShows t 1 0x10)
  ∧ (∀ (s : State), s.ev = some .linkDown → exec .linkDown s = .next { s with linkUp := false })
  ∧ ∀ (s : State), s.ev = some .linkUp →
    ∃ t, exec .linkUp s = .next t ∧ t.linkUp = true ∧ t.msixWait = []
      ∧ (∀ v, tget 0 t.msix v = tget 0 s.msix v + s.msixWait.count v)
      ∧ { t with linkUp := s.linkUp, msixWait := s.msixWait, msix := s.msix } = s

/-- R4, R71, R191, R384, R390, R394, R415: the host reads and writes lines of device memory once MEMUP has passed, and before it
reads poison and writes nothing; the stack logic performs another module's accesses, but for those that a port without traffic
receives; a register write sets its RW fields, clears W1C bits and starts actions; the readback window captures a page. -/
def Obligations.HostReachesThePackage : Prop :=
  (∀ (write : Bool) (pa : Nat) (data : List Byte) (s : State), s.ev = some (.cxlMemAccess write pa data) → s.linkUp = true →
    pa / 64 * 64 + 64 ≤ Config.deviceBytes → pa % 64 + data.length ≤ 64 →
    let active := 4 ≤ s.cfield 0x10 7 0 ∧ s.cfield 0x10 15 8 ≠ 4
    (¬active → exec .cxlMemAccess s = .next { s with answer := some (if write then .done else .poison 0x50) })
    ∧ (active → write = false → s.marks = [] →
        ∃ t bs, exec .cxlMemAccess s = .next t ∧ t.answer = some (.data bs) ∧ bs.length = 64
          ∧ BytesAt s (.dev (pa / 64 * 64)) bs ∧ { t with answer := s.answer, lines := s.lines } = s)
    ∧ (active → write = false → ∀ g, Mark.hbm g ∈ s.marks → 32 * g / 64 = pa / 64 →
        ∃ t, exec .cxlMemAccess s = .next t ∧ t.answer = some (.poison 0x50))
    ∧ (active → write = true → s.wf → s.phasers = [] →
        ∃ t, exec .cxlMemAccess s = .next t ∧ t.answer = some .done ∧ WritesDevice s t pa data ∧ t.wf))
  ∧ (∀ (op : RemoteOp) (port module pa : Nat) (data : List Byte) (s : State), s.ev = some (.remoteAccess op port module pa data) →
    s.arrives module (some port) = false → exec .remoteAccess s = .next s)
  ∧ (∀ (port module pa : Nat) (data : List Byte) (s : State), s.ev = some (.remoteAccess .load port module pa data) →
    s.arrives module (some port) = true → pa + data.length ≤ Config.deviceBytes → pa % 128 + data.length ≤ 128 → s.marks = [] →
    ∃ t bs, exec .remoteAccess s = .next t ∧ t.answer = some (.data bs) ∧ bs.length = data.length ∧ BytesAt s (.dev pa) bs
      ∧ { t with answer := s.answer, lines := s.lines } = s)
  ∧ (∀ (port module pa : Nat) (data : List Byte) (s : State), s.ev = some (.remoteAccess .store port module pa data) →
    s.arrives module (some port) = true → pa + data.length ≤ Config.deviceBytes → pa % 128 + data.length ≤ 128 → s.wf → s.phasers = [] →
    ∃ t, exec .remoteAccess s = .next t ∧ t.answer = some .done ∧ WritesDevice s t pa data ∧ t.wf)
  ∧ (∀ (op : AOp) (aw : AWidth) (port module pa old : Nat) (data : List Byte) (s : State),
    s.ev = some (.remoteAccess (.atomic op aw) port module pa data) → s.arrives module (some port) = true →
      pa + atomBytes aw ≤ Config.deviceBytes → pa % atomBytes aw = 0 →
    s.marks = [] → s.wf → s.phasers = [] → Holds s (.dev pa) (atomBytes aw) old → old < 2 ^ (8 * atomBytes aw) →
    let new := atomLeaves op aw old (fieldAt data 0 (atomBytes aw)) (fieldAt data (atomBytes aw) (atomBytes aw))
    ∃ t, exec .remoteAccess s = .next t ∧ t.answer = some (.data (natLe (atomBytes aw) old))
      ∧ WritesDevice s t pa (natLe (atomBytes aw) (new.getD old)) ∧ t.wf)
  ∧ (∀ (off : Nat) (half : Option Bool) (v : BitVec 64) (s : State), s.ev = some (.registerWrite off half v) → s.linkUp = true →
    (off % 8 ≠ 0 ∨ ctlFields off = none → exec .registerWrite s = .next s)
    ∧ (∀ fs, off ∈ [0x2000, 0x2008, 0x2010, 0x2020, 0x2030, 0x2050, 0x3020, 0x4008, 0x5000, 0x5008, 0x5010, 0x8800, 0x8900,
          0x8908, 0x8918, 0x9028] → ctlFields off = some fs →
        ∃ t, exec .registerWrite s = .next t ∧ OnlyRegisters s t [off]
          ∧ (∀ f ∈ fs, t.cfield off f.hi f.lo =
              if half = none ∨ (half = some false ∧ f.hi < 32) ∨ (half = some true ∧ 32 ≤ f.lo) then
                v.toNat / 2 ^ f.lo % 2 ^ (f.hi + 1 - f.lo)
              else s.cfield off f.hi f.lo)
          ∧ ∀ k < 64, (∀ f ∈ fs, k < f.lo ∨ f.hi < k) → (t.creg off).getLsbD k = (s.creg off).getLsbD k)
    ∧ (off = 0x4000 → half ≠ some true →
        ∃ t, exec .registerWrite s = .next t ∧ OnlyRegisters s t [0x4000]
          ∧ ∀ k < 64, (t.creg 0x4000).getLsbD k = ((s.creg 0x4000).getLsbD k && !(v.getLsbD k && decide (k < 6))))
    ∧ (∀ q < 64, off = 0x1000 + 0x40 * q + 0x20 →
        (half = none → exec .registerWrite s = .next { s with agenda := .event (.doorbell q (v.setWidth 32)) :: s.agenda })
        ∧ (half ≠ none → exec .registerWrite s = .next s)))
  ∧ (∀ (v : BitVec 64) (s : State), s.ev = some (.rbsel v) →
    let cls := v.toNat / 2 ^ 56
    let page := v.toNat / 2 ^ 48 % 256
    let g := v.toNat % 2 ^ 16
    (cls = 1 → page = 0 → g < 8192 → (s.thread g).status ≠ .idle →
      ∃ t, exec .rbsel s = .next t ∧ t.cfield 0x6008 1 0 = 0 ∧ fieldAt t.window 0 8 = (s.thread g).pc.toNat
        ∧ (∀ k < 64, fieldAt t.window (0x380 + 8 * k) 8 = ((s.thread g).value k).toNat % 2 ^ 64)
        ∧ (∀ k < 64, fieldAt t.window (0x600 + 256 * k) 256 = ((s.thread g).value (64 + k)).toNat)
        ∧ OnlyRegisters s { t with window := s.window } [0x6000, 0x6008])
    ∧ (s.captured cls page g = none →
      ∃ t, exec .rbsel s = .next t ∧ t.cfield 0x6008 1 0 = 2 ∧ OnlyRegisters s t [0x6000, 0x6008]))

/-- R389 and spec/22 (Attestation): the mailbox answers its five opcodes, writes a transferred image into the slot that does
not run, and answers any other opcode with Unsupported; the SPDM responder answers version 1.2 requests with the one
certificate, the measurements and signatures over them, turns other algorithms away and then stays silent until a new
GET_VERSION. -/
def Obligations.MailboxAndAttestationAnswer : Prop :=
  (∀ (i : Instr) (s : State), (i = .identify ∧ s.ev = some .identify) ∨ (i = .getHealthInfo ∧ s.ev = some .getHealthInfo) →
    ∃ body, exec i s = .next { s with mbox := some (.success body) })
  ∧ (∀ (s : State), s.ev = some .getFwInfo →
    ∃ body, exec .getFwInfo s = .next { s with mbox := some (.success body) } ∧ fieldAt body 0 4 = s.cfield 0x10 63 32)
  ∧ (∀ (image : List Byte) (verifies : Bool) (version : BitVec 32) (s : State),
    s.ev = some (.transferFw image verifies version) →
    ∃ t, exec .transferFw s = .next t ∧ t.mbox = some (.success [])
      ∧ (∀ k, k ≠ 1 - s.fwRun.getD 0 → t.flash[k]? = s.flash[k]?)
      ∧ (1 - s.fwRun.getD 0 < s.flash.length → t.flash[1 - s.fwRun.getD 0]? = some ⟨image, verifies, version⟩)
      ∧ { t with mbox := s.mbox, flash := s.flash } = s)
  ∧ (∀ (s : State), s.ev = some .activateFw →
    exec .activateFw s = .next { s with fwAsked := true, mbox := some (.success []) })
  ∧ (∀ (op : Nat) (s : State), s.ev = some (.unsupported op) →
    exec .unsupported s = .next { s with mbox := some .unsupported })
  ∧ (∀ (s : State), s.ev = some .getVersion → exec .getVersion s = .next { s with spdmShut := false, spdm := some .version })
  ∧ (∀ (sm3 sm2 : Bool) (s : State), s.ev = some (.negotiateAlgorithms sm3 sm2) → s.spdmShut = false →
    (sm3 = true → sm2 = true → exec .negotiateAlgorithms s = .next { s with spdm := some .algorithms })
    ∧ (sm3 = false ∨ sm2 = false →
        ∃ code, exec .negotiateAlgorithms s = .next { s with spdm := some (.error code), spdmShut := true }))
  ∧ (∀ (i : Instr) (s : State), s.spdmShut = true →
    (i = .getCapabilities ∧ s.ev = some .getCapabilities) ∨ (i = .getDigests ∧ s.ev = some .getDigests)
      ∨ (∃ a b, i = .negotiateAlgorithms ∧ s.ev = some (.negotiateAlgorithms a b))
      ∨ (∃ a, i = .getCertificate ∧ s.ev = some (.getCertificate a)) ∨ (∃ a b, i = .challenge ∧ s.ev = some (.challenge a b))
      ∨ (∃ a b, i = .getMeasurements ∧ s.ev = some (.getMeasurements a b)) →
    exec i s = .next { s with spdm := none })
  ∧ ∀ (s : State), s.spdmShut = false →
    (s.ev = some .getCapabilities → ∃ body, exec .getCapabilities s = .next { s with spdm := some (.capabilities body) })
    ∧ (s.ev = some .getDigests → exec .getDigests s = .next { s with spdm := some (.digests certDigest) })
    ∧ (∀ slot, s.ev = some (.getCertificate slot) → exec .getCertificate s = .next { s with
        spdm := some (.certificate (if slot = 0 then Config.certificate else [])) })
    ∧ (∀ slot nonce, s.ev = some (.challenge slot nonce) →
        (slot = 0 → ∃ sig, exec .challenge s = .next { s with spdm := some (.challengeAuth certDigest nonce sig) })
        ∧ (slot ≠ 0 → ∃ code, exec .challenge s = .next { s with spdm := some (.error code) }))
    ∧ (∀ index nonce, s.ev = some (.getMeasurements index nonce) →
        (index = 1 → ∃ sig, exec .getMeasurements s = .next { s with spdm := some (.measurements [(1, s.meas1)] nonce sig) })
        ∧ (index = 2 → ∃ sig, exec .getMeasurements s = .next { s with spdm := some (.measurements [(2, s.meas2)] nonce sig) })
        ∧ (index = 0xFF → ∃ sig m3 m4, exec .getMeasurements s = .next { s with
            spdm := some (.measurements [(1, s.meas1), (2, s.meas2), (3, m3), (4, m4)] nonce sig) })
        ∧ (index = 0 ∨ (4 < index ∧ index ≠ 0xFF) →
            ∃ code, exec .getMeasurements s = .next { s with spdm := some (.error code) }))

/-! ### The fabric and the optics (spec/23, spec/24) -/

/-- R392-R394, R398, R399, R401: the bank swap takes the new values and the committed spares; a beacon that does not match puts
its slot in quarantine; a packet goes on where a slot leads to its target; RESV and COMMIT take effect on spares that are not
claimed; a lost port claims a free spare; time is stepped forward before READY, slewed after it, and held over beyond 1 ms. -/
def Obligations.FabricKeepsItsTimetable : Prop :=
  (∀ (s : State), s.ev = some .bankSwap → s.ttDue = true → (s.creg 0x9010).toNat ≤ s.now.toNat →
    let n := s.cfield 0x9008 6 0
    let ns := s.cfield 0x9008 31 16
    (n = 0 ∨ 64 < n ∨ ns < 200 → exec .bankSwap s = .next { s with ttDue := false })
    ∧ (1 ≤ n → n ≤ 64 → 200 ≤ ns →
        ∃ t, exec .bankSwap s = .next t ∧ t.cfield 0x9008 8 8 = 1 - s.cfield 0x9008 8 8 ∧ t.ttDue = false ∧ t.portSeen = []
          ∧ t.portQuar = [] ∧ t.tt = { epoch := s.cfield 0x9008 63 32, slotNs := ns, nslot := n, start := (s.creg 0x9010).toNat }
          ∧ (∀ k < 3, let o := 0x9040 + 8 * k
              (s.cfield o 63 63 = 0 → t.creg o = s.creg o)
              ∧ (s.cfield o 63 63 = 1 → t.cfield o 61 61 = 1 ∧ t.cfield o 15 8 = s.cfield o 7 0 ∧ t.cfield o 63 62 = 0))
          ∧ (∀ b < 4, s.cfield 0x9050 63 63 = 1 → (s.bus b).comb = s.cfield 0x9050 7 0 →
              (∀ k < b, (s.bus k).comb ≠ s.cfield 0x9050 7 0) → (t.bus b).comb = 4)))
  ∧ (∀ (port module peer epoch stamp : Nat) (locked : Bool) (s : State),
    s.ev = some (.beacon port module peer epoch stamp locked) → 0 < s.tt.nslot → 0 < s.tt.slotNs →
    let slot := s.slotNow
    let e := s.ttEntry slot (s.serves port)
    let same := e.testBit 31 = true ∧ e % 2 ^ 16 = module ∧ e / 2 ^ 16 % 2 ^ 5 = peer ∧ epoch = s.tt.epoch
    let follows := locked = true ∧ s.cfield 0x9028 8 8 = 1 ∧ s.cfield 0x9020 63 62 ≠ 1
    ((port, slot) ∈ s.portQuar → exec .beacon s = .next s)
    ∧ ((port, slot) ∉ s.portQuar → same →
        ∃ t, exec .beacon s = .next t ∧ (∀ x, x ∈ t.portSeen ↔ x = (port, slot) ∨ x ∈ s.portSeen)
          ∧ (¬follows → { t with portSeen := s.portSeen } = s)
          ∧ (follows → s.cfield 0x8908 0 0 = 0 → ∀ offs : BitVec 32, offs.toInt = ((s.now.toNat : Int) - stamp) / Config.ns →
              Disciplined s { t with portSeen := s.portSeen } 2 offs))
    ∧ ((port, slot) ∉ s.portQuar → ¬same → s.cfield 0x8908 0 0 = 0 →
        ∃ t, exec .beacon s = .next t ∧ t.portQuar = (port, slot) :: s.portQuar
          ∧ (t.creg 0x8A20).toNat = min (2 ^ 48 - 1) ((s.creg 0x8A20).toNat + 1)
          ∧ Signals s t 5 ∧ OnlySignals s { t with portQuar := s.portQuar } [0x8A20]))
  ∧ (∀ (src dst port slot : Nat) (s : State), s.ev = some (.forward src dst port) → slot < s.tt.nslot →
    (s.ttEntry slot (s.serves port)).testBit 31 = true → s.ttEntry slot (s.serves port) % 2 ^ 16 = dst →
    (port, slot) ∈ s.portSeen → (port, slot) ∉ s.portQuar → exec .forward s = .next s)
  ∧ (∀ (k : Nat) (target : BitVec 8) (s : State), s.ev = some (.resv k target) → k < 3 →
    let o := 0x9040 + 8 * k
    (s.cfield o 61 61 = 1 → exec .resv s = .next s)
    ∧ (s.cfield o 61 61 = 0 → ∃ t, exec .resv s = .next t ∧ t.cfield o 62 62 = 1 ∧ t.cfield o 7 0 = target.toNat
        ∧ t.cfield o 63 63 = s.cfield o 63 63 ∧ t.cfield o 61 8 = s.cfield o 61 8 ∧ OnlyRegisters s t [o]))
  ∧ (∀ (k : Nat) (s : State), s.ev = some (.commit k) → k < 3 →
    let o := 0x9040 + 8 * k
    ∃ t, exec .commit s = .next t ∧ (t.cfield o 63 63 = 1 ↔ s.cfield o 62 62 = 1 ∧ s.cfield o 61 61 = 0)
      ∧ t.cfield o 62 0 = s.cfield o 62 0 ∧ OnlyRegisters s t [o])
  ∧ (∀ (n : Nat) (s : State), s.ev = some (.failover false n) → n < 256 →
    (n ∈ s.lostPorts → exec .failover s = .next s)
    ∧ (n ∉ s.lostPorts → s.cfield 0x9040 62 61 = 0 → s.cfield 0x9040 23 16 ≠ n → s.cfield 0x9040 23 16 ∉ s.lostPorts →
        ∃ t, exec .failover s = .next t ∧ t.lostPorts = n :: s.lostPorts ∧ t.cfield 0x9040 61 61 = 1 ∧ t.cfield 0x9040 15 8 = n
          ∧ tget 0 t.claimFrom 0 = s.nextSlot
          ∧ OnlyRegisters s { t with lostPorts := s.lostPorts, claimFrom := s.claimFrom } [0x9040])
    ∧ (n ∉ s.lostPorts → s.cfield 0x9040 61 61 = 1 → s.cfield 0x9048 61 61 = 1 → s.colls = [] → s.cfield 0x8908 0 0 = 0 →
        ∃ t, exec .failover s = .next t ∧ t.lostPorts = n :: s.lostPorts ∧ Signals s t 5
          ∧ OnlySignals s { t with lostPorts := s.lostPorts } []))
  ∧ (∀ (c : Nat) (s : State), s.ev = some (.failover true c) → c ≤ 4 → s.cfield 0x8908 0 0 = 0 → s.colls = [] →
    (∀ b < 4, (s.bus b).comb = c → (s.bus b).off = false) →
    ∃ t, exec .failover s = .next t ∧ t.cfield (0x88A8 + 8 * c) 1 0 = 2)
  ∧ (∀ (s : State), 0 < s.tt.nslot → s.tt.start ≤ s.now.toNat → (∀ x ∈ s.beacons, x.2.now < s.slotBegan) →
    ∀ p b, (p, b) ∈ s.sendBeacons.beacons ↔ p < 18 ∧ p ∉ s.lostPorts
      ∧ b = { module := s.module, port := p, epoch := s.tt.epoch, now := s.now.toNat })
  ∧ (∀ (domain : Nat) (offs : BitVec 32) (s : State), s.ev = some (.ptpMessage domain offs) → s.cfield 0x8908 0 0 = 0 →
    (domain ≠ s.cfield 0x9028 7 0 → exec .ptpMessage s = .next s)
    ∧ (domain = s.cfield 0x9028 7 0 → ∃ t, exec .ptpMessage s = .next t ∧ Disciplined s t 1 offs))
  ∧ ∀ (offs : BitVec 32) (s : State), s.ev = some (.holdover offs) → s.cfield 0x8908 0 0 = 0 →
    s.cfield 0x9020 63 62 = 1 ∨ s.cfield 0x9020 63 62 = 2 →
    ∃ t, exec .holdover s = .next t ∧ t.cfield 0x9020 63 62 = 3 ∧ t.cfield 0x9020 31 0 = offs.toNat ∧ t.slew = 0
      ∧ Signals s t 5 ∧ OnlySignals s { t with slew := s.slew } [0x9020]

/-- R400, R403-R406, R408, R410, R412-R415, R417, R422, R423: a line low for 1 ms claims comb 4 or fails; a shadow check counts;
the tracker moves a heater by at most 32 towards the drift that it measures, and a settled move hands the channel over; RETIRE
marks an idle ring dead and moves a channel; a scrub counts and marks; the writes of SKEW, of counters and of OPTREQ have
their effects. -/
def Obligations.OpticsAreKeptInTrim : Prop :=
  (∀ (c line since : Nat) (s : State), s.ev = some (.lineLowTimeout c line) → (c, line, since) ∈ s.lowLines →
    since + 1000000 * Config.ns ≤ s.now.toNat → (c, line) ∉ s.deadLines → s.cfield (0x88A8 + 8 * c) 1 0 ≠ 2 →
    (∀ b < 4, (s.bus b).comb = c → (s.bus b).off = false) → s.cfield 0x8908 0 0 = 0 → s.colls = [] →
    let free := s.cfield 0x88C8 1 0 ≠ 2 ∧ s.cfield 0x9050 61 61 = 0
      ∧ ¬(s.cfield 0x9050 62 62 = 1 ∧ s.cfield 0x9050 63 63 = 1)
    (c < 4 → free → ∃ t, exec .lineLowTimeout s = .next t ∧ t.cfield (0x88A8 + 8 * c) 1 0 = 2 ∧ t.cfield 0x88C8 1 0 = 3
        ∧ t.cfield 0x9050 61 61 = 1 ∧ t.cfield 0x9050 15 8 = c ∧ t.deadLines = s.deadLines)
    ∧ (4 ≤ c ∨ ¬free → ∃ t, exec .lineLowTimeout s = .next t ∧ t.deadLines = s.deadLines ++ [(c, line)] ∧ Signals s t 5
        ∧ OnlySignals s { t with deadLines := s.deadLines } []))
  ∧ (∀ (tile : Nat) (w : Window) (s : State), s.ev = some (.shadowCheck tile) → s.shadows.find? (·.1 == tile) = some (tile, w) →
    let o := 0x8010 + 0x40 * tile
    ∃ t, exec .shadowCheck s = .next t ∧ t.cfield o 63 32 = (s.cfield o 63 32 + 1) % 2 ^ 32
      ∧ t.cfield o 31 0 = (s.cfield o 31 0 + w.outside) % 2 ^ 32 ∧ (∀ x, x ∈ t.shadows ↔ x ∈ s.shadows ∧ x.1 ≠ tile)
      ∧ OnlyRegisters s { t with shadows := s.shadows } [o])
  ∧ (∀ (tile col ring : Nat) (drift : Int) (temp : BitVec 16) (s : State),
    s.ev = some (.trackerService tile col ring drift temp) → tile < 32 → col < 128 → ring < 68 →
    let h := s.heater tile col ring
    let o := 0x8000 + 0x40 * tile
    let anchorOf := if ring < 64 then ring else 16 * (ring - 64) + 8
    let req : Int := s.freeOffset tile col ring + 512 * ((h.chan : Int) - anchorOf) - drift
    temp.toInt < 105 * 16 → h.drop = true → s.cfield o 0 0 = 1 → (∃ b < 4, (s.bus b).off = false) → 192 ≤ req → req ≤ 3903 →
    ∃ t, exec .trackerService s = .next t ∧ t.cfield o 63 48 = temp.toNat ∧ t.moves = s.moves
      ∧ (let x := t.heater tile col ring
         (x.hc : Int) = min (max (h.hc + max (-32) (min 32 (req - h.hc))) 0) 4095 ∧ x.err = req - h.hc ∧ x.sat = false
           ∧ (x.lock = true ↔ (req - h.hc).natAbs ≤ 4) ∧ x.drop = true ∧ x.chan = h.chan ∧ x.dead = h.dead)
      ∧ ∀ u c r, c < 128 → r < 68 → (u, c, r) ≠ (tile, col, ring) →
          { t.heater u c r with lock := (s.heater u c r).lock } = s.heater u c r
            ∧ (s.skewSince = none → t.heater u c r = s.heater u c r))
  ∧ (∀ (tile col ring : Nat) (drift : Int) (temp : BitVec 16) (s : State),
    s.ev = some (.trackerService tile col ring drift temp) → temp.toInt < 105 * 16 →
    let o := 0x8000 + 0x40 * tile
    (s.heater tile col ring).drop = false ∨ s.cfield o 0 0 = 0 ∨ (∀ b < 4, (s.bus b).off = true) →
    ∃ t, exec .trackerService s = .next t ∧ t.cfield o 63 48 = temp.toNat ∧ t.cfield o 47 2 = s.cfield o 47 2
      ∧ OnlyRegisters s t [o])
  ∧ (∀ (i : Nat) (m : Move) (s : State), s.ev = some (.moveSettle i) → s.moves[i]? = some m → m.tile < 32 → m.col < 128 →
    m.old < 68 → m.new < 68 → m.old ≠ m.new → m.since + 50000 * Config.ns ≤ s.now.toNat → s.atBoundary m.tile = true →
    s.cfield 0x8908 0 0 = 0 →
    let o := 0x8000 + 0x40 * m.tile
    ∃ t, exec .moveSettle s = .next t ∧ t.moves = s.moves.eraseIdx i
      ∧ t.cfield o 47 32 = (s.cfield o 47 32 + 1) % 2 ^ 16
      ∧ (let a := t.heater m.tile m.col m.old
         a.drop = false ∧ (a.dead = true ↔ (s.heater m.tile m.col m.old).dead = true ∨ m.retire = true))
      ∧ (let b := t.heater m.tile m.col m.new
         b.drop = true ∧ b.chan = m.chan ∧ b.lock = true ∧ b.hc = (s.heater m.tile m.col m.new).hc)
      ∧ (m.retire = true → (∀ x ∈ s.moves.eraseIdx i, x.retire = false) → t.cfield 0x8810 0 0 = 0))
  ∧ (∀ (v : BitVec 64) (s : State), s.ev = some (.retire v) →
    let tile := s.cfield 0x8800 4 0
    let col := v.toNat / 2 ^ 8 % 2 ^ 7
    let ring := v.toNat % 2 ^ 7
    let retires := v.toNat / 2 ^ 24 % 2 ^ 8 = 1 ∧ ring ≤ 67
    let h := s.heater tile col ring
    (s.cfield 0x8810 0 0 = 1 → exec .retire s = .next s)
    ∧ (s.cfield 0x8810 0 0 = 0 → ¬retires → ∃ t, exec .retire s = .next t ∧ t.cfield 0x8810 1 1 = 1 ∧ OnlyRegisters s t [0x8810])
    ∧ (s.cfield 0x8810 0 0 = 0 → retires → h.drop = false →
        ∃ t, exec .retire s = .next t ∧ t.heater tile col ring = { h with dead := true }
          ∧ (∀ u c r, c < 128 → r < 68 → (u, c, r) ≠ (tile, col, ring) → t.heater u c r = s.heater u c r)
          ∧ { t with heaters := s.heaters } = s)
    ∧ (s.cfield 0x8810 0 0 = 0 → retires → h.drop = true → s.isMoving tile col ring = true →
        ∃ t, exec .retire s = .next t ∧ t.cfield 0x8810 0 0 = 1
          ∧ t.moves = s.moves.map (fun m => { m with retire := m.retire || (m.tile == tile && m.col == col && m.old == ring) })
          ∧ OnlyRegisters s { t with moves := s.moves } [0x8810])
    ∧ (s.cfield 0x8810 0 0 = 0 → retires → h.drop = true → s.isMoving tile col ring = false →
        (s.moveTargets tile col ring = [] →
          ∃ t, exec .retire s = .next t ∧ t.cfield 0x8810 1 1 = 1 ∧ OnlyRegisters s t [0x8810])
        ∧ (s.moveTargets tile col ring ≠ [] →
          ∃ t m, exec .retire s = .next t ∧ t.cfield 0x8810 0 0 = 1 ∧ t.moves = s.moves ++ [m] ∧ m.tile = tile ∧ m.col = col
            ∧ m.old = ring ∧ m.chan = h.chan ∧ m.retire = true ∧ m.since = s.now.toNat
            ∧ (m.new, m.hs) ∈ s.moveTargets tile col ring
            ∧ ∀ x ∈ s.moveTargets tile col ring, (m.hs - 2048).natAbs ≤ (x.2 - 2048).natAbs)))
  ∧ (∀ (m : ScrubMem) (n : Nat) (s : State), s.ev = some (.patrolScrub m n true) →
    let o := if m = .hbm then 0x8A30 else 0x8A38
    ∃ t, exec .patrolScrub s = .next t ∧ (t.creg o).toNat = min (2 ^ 48 - 1) ((s.creg o).toNat + 1) ∧ OnlyRegisters s t [o])
  ∧ (∀ (m : ScrubMem) (n : Nat) (k : Mark) (s : State), s.ev = some (.patrolScrub m n false) → s.cfield 0x8908 0 0 = 0 →
    ScrubMarks s n k m →
    (k ∈ s.marks → exec .patrolScrub s = .next s)
    ∧ (k ∉ s.marks →
        ∃ t, exec .patrolScrub s = .next t ∧ (∀ x, x ∈ t.marks ↔ x = k ∨ x ∈ s.marks)
          ∧ (t.creg 0x8A40).toNat = min (2 ^ 48 - 1) ((s.creg 0x8A40).toNat + 1)
          ∧ Signals s t 5 ∧ OnlySignals s { t with marks := s.marks } [0x8A40]))
  ∧ (∀ (n : Nat) (s : State), s.ev = some (.patrolScrub .pending n false) →
    (∀ b ∈ s.binds, b.holder.isSome = true → (b.entryCore, b.entry) ≠ (n / 512, n % 512)) → exec .patrolScrub s = .next s)
  ∧ (∀ (g i : Nat) (s : State), s.ev = some (.patrolScrub .reg (144 * g + i) false) → i < 144 →
    ((s.thread g).status = .idle ∨ isConst i = true ∨ (s.thread g).rstate i ≠ .full → exec .patrolScrub s = .next s)
    ∧ ((s.thread g).status ≠ .idle → isConst i = false → (s.thread g).rstate i = .full →
        ∃ t pv, exec .patrolScrub s = .next t ∧ (t.thread g).rstate i = .poisoned pv ∧ pv.toNat % 2 ^ 16 = 0x50))
  ∧ (∀ (u : Nat) (s : State), s.ev = some (.minm u) →
    let o := 0x8008 + 0x40 * u
    ∃ t, exec .minm s = .next t ∧ t.cfield o 31 16 = 0xFFFF ∧ t.cfield o 15 0 = s.cfield o 15 0
      ∧ t.cfield o 63 32 = s.cfield o 63 32 ∧ OnlyRegisters s t [o])
  ∧ (∀ (k : Nat) (s : State), s.ev = some (.counterClear k) →
    ∃ t, exec .counterClear s = .next t ∧ t.creg (0x8A00 + 8 * k) = 0 ∧ OnlyRegisters s t [0x8A00 + 8 * k])
  ∧ (∀ (s : State), s.ev = some .optreqClear →
    ∃ t, exec .optreqClear s = .next t ∧ t.cfield 0x20 0 0 = 0 ∧ t.cfield 0x20 63 1 = s.cfield 0x20 63 1 ∧ OnlyRegisters s t [0x20])
  ∧ (∀ (b : Nat) (low lost : BitVec 64) (margins : List (Nat × Nat)) (s : State), s.ev = some (.frameBoundary b low lost margins) →
    b < 4 → (s.bus b).off = false → s.cfield 0x20 0 0 = 0 → s.cfield 0x10 7 0 = 6 →
    ∃ t, exec .frameBoundary s = .next t ∧ (t.bus b).off = true ∧ (t.bus b).flight = none
      ∧ ∀ u < 32, (s.seqr u).sel = some b → (s.seqr u).leaving = false → t.cfield (0x8000 + 0x40 * u) 1 1 = 0)
  ∧ ∀ (s : State), s.ev = some .optreqSet →
    (s.cfield 0x20 0 0 = 1 → exec .optreqSet s = .next s)
    ∧ (s.cfield 0x20 0 0 = 0 → ∃ t, exec .optreqSet s = .next t ∧ t.cfield 0x20 0 0 = 1
        ∧ (s.cfield 0x10 7 0 = 6 → ∀ b < 4, (t.bus b).off = false)
        ∧ (s.cfield 0x10 7 0 = 6 → t.cfield 0x20 33 32 = 1 ∧ t.skewSince = some s.now.toNat
            ∧ ∀ d < 4, s.cfield (0x88A8 + 8 * d) 1 0 = 0 → t.cfield (0x88A8 + 8 * d) 1 0 = 1)
        ∧ (s.cfield 0x10 7 0 ≠ 6 → t.cfield 0x20 63 1 = s.cfield 0x20 63 1 ∧ OnlyRegisters s t [0x20]))

/-! ### The debug mailbox (spec/21 R377-R382) -/

/-- R375, R377-R382: a command is ignored while one is under way and refused where its region does not translate; ATTACH,
DETACH, WATCH, HALT, RESUME, TRIM, REWIND and REPLAY end with the results of R378-R382 in the order of their checks, and do
what these rules say. -/
def Obligations.DebugCommandsAct : Prop :=
  (∀ (e : Event) (i : Instr) (c : DbgCmd) (s : State), debugRow e = some (i, c) → s.ev = some e →
    let found := s.locate (dbgAgent c) (dbgVa c) .load
    (s.cfield 0x5020 0 0 = 1 → exec i s = .next s)
    ∧ (s.cfield 0x5020 0 0 = 0 → found ≠ .held → (∀ pa e, found ≠ .ok (.dev pa) e) →
        ∃ t, exec i s = .next t ∧ EndsWith t 8 0 ∧ t.cfield 0x5020 1 1 = s.cfield 0x5020 1 1 ∧ OnlyEnds s t)
    ∧ (s.cfield 0x5020 0 0 = 0 → found = .held → s.dbgWait = none →
        ∃ t h, exec i s = .next t ∧ t.dbgWait = some (e, (dbgAgent c).asid, h) ∧ h.va = dbgVa c ∧ t.cfield 0x5020 0 0 = 1
          ∧ OnlyRegisters s { t with dbgWait := s.dbgWait } [0x5020]))
  ∧ (∀ (c : DbgCmd) (pa : Nat) (s : State), s.ev = some (.attach c) → Commands s c pa →
    ∃ t, exec .attach s = .next t ∧ EndsWith t 0 0 ∧ t.cfield 0x5020 1 1 = 1 ∧ (∀ x, x ∈ t.attached ↔ x = pa ∨ x ∈ s.attached)
      ∧ (∀ x, x ∈ t.detached ↔ s.isUnder pa x = false ∧ x ∈ s.detached)
      ∧ OnlyEnds s { t with attached := s.attached, detached := s.detached })
  ∧ (∀ (c : DbgCmd) (pa : Nat) (s : State), s.ev = some (.detach c) → Commands s c pa →
    ∃ t, exec .detach s = .next t ∧ EndsWith t 0 0 ∧ (t.cfield 0x5020 1 1 = 0 ↔ t.attached = [])
      ∧ (∀ x, x ∈ t.attached ↔ s.isUnder pa x = false ∧ x ∈ s.attached)
      ∧ (∀ x, x ∈ t.detached ↔ (s.isUnder pa x = false ∧ x ∈ s.detached) ∨ (x = pa ∧ ∃ a ∈ t.above pa, a ∈ s.attached))
      ∧ (∀ w, w ∈ t.watches ↔ (s.isUnder pa w.rcb = false ∧ w ∈ s.watches) ∨ ∃ k < 4, Hides s (t.above pa) pa k w)
      ∧ OnlyEnds s { t with attached := s.attached, detached := s.detached, watches := s.watches })
  ∧ (∀ (c : DbgCmd) (pa : Nat) (s : State), s.ev = some (.watch c) → Commands s c pa →
    let slot := c.arg1.toNat / 2 ^ 34 % 4
    let mode := c.arg1.toNat / 2 ^ 32 % 4
    let w : Watch := { rcb := pa, slot := slot, addr := c.arg0.toNat % 2 ^ 52, len := c.arg1.toNat % 2 ^ 32,
                       read := decide (mode = 1 ∨ mode = 3), write := decide (mode = 2 ∨ mode = 3) }
    (c.arg0.toNat / 2 ^ 52 ≠ 0 ∨ c.arg1.toNat / 2 ^ 36 ≠ 0 →
      ∃ t, exec .watch s = .next t ∧ EndsWith t 8 0 ∧ OnlyEnds s t)
    ∧ (c.arg0.toNat / 2 ^ 52 = 0 → c.arg1.toNat / 2 ^ 36 = 0 →
      ∃ t, exec .watch s = .next t ∧ EndsWith t 0 0
        ∧ (∀ x, x ∈ t.watches ↔ (x ∈ s.watches ∧ (s.isUnder pa x.rcb = false ∨ x.slot ≠ slot)) ∨ (mode ≠ 0 ∧ x = w)
            ∨ (mode = 0 ∧ Hides s (t.above pa) pa slot x))
        ∧ OnlyEnds s { t with watches := s.watches }))
  ∧ (∀ (c : DbgCmd) (pa : Nat) (s : State), s.ev = some (.halt c) → Commands s c pa →
    ∃ t, exec .halt s = .next t ∧ t.cfield 0x5020 0 0 = 1 ∧ t.halting = some pa ∧ pa ∈ t.halted
      ∧ (∀ p ∈ s.packs, s.inRegions p.key [pa] = true → (∀ g ∈ s.threadsOf p, (t.thread g).halted = true ∧ (t.thread g).hold = none)
          ∧ ∀ q ∈ p.seqrs, (t.seqr q).halt = true)
      ∧ (∀ p ∈ t.packs, s.inRegions p.key [pa] = true → p.saving = false)
      ∧ ∀ g, { t.thread g with halted := (s.thread g).halted, hold := (s.thread g).hold, stalled := (s.thread g).stalled }
          = s.thread g)
  ∧ (∀ (pa : Nat) (s : State), s.ev = some .haltComplete → s.halting = some pa → s.copies = [] → s.childReqs = [] →
    s.arming = [] → s.disarming = [] → s.collBars = [] → (∀ l ∈ s.launches, l.endTag = none) →
    (∀ x ∈ s.colls, x.2.run = none) → (∀ q, (s.seqr q).cmd = none) →
    ∃ t, exec .haltComplete s = .next t ∧ EndsWith t 0 0 ∧ t.halting = none
      ∧ OnlyEnds s { t with halting := s.halting })
  ∧ (∀ (c : DbgCmd) (pa : Nat) (s : State), s.ev = some (.resume c) → Commands s c pa →
    (s.hasAstray pa = true → ∃ t, exec .resume s = .next t ∧ EndsWith t 6 0 ∧ OnlyEnds s t)
    ∧ (s.hasAstray pa = false →
        ∃ t, exec .resume s = .next t ∧ EndsWith t 0 0 ∧ (∀ h, h ∈ t.halted ↔ s.isUnder pa h = false ∧ h ∈ s.halted)
          ∧ (∀ p ∈ s.packs, p.out = none → s.inRegions p.key [pa] = true →
              (∀ g ∈ s.threadsOf p, (t.thread g).halted = false) ∧ ∀ q ∈ p.seqrs, (t.seqr q).halt = false)
          ∧ ∀ g, { t.thread g with halted := (s.thread g).halted } = s.thread g))
  ∧ (∀ (c : DbgCmd) (pa : Nat) (r : Region) (s : State), s.ev = some (.trim c) → Commands s c pa → KeptRegion s pa r →
    let n := c.arg0.toNat % 2 ^ 32
    let has := r.trail ≠ 0 ∧ s.TrailOpen r
    (r.trail = 0 → ∃ t, exec .trim s = .next t ∧ EndsWith t 9 0 ∧ OnlyEnds s t)
    ∧ (has → s.windowEntry r n = none ∨ n ≤ s.trailOld r ∨ s.trailNext r ≤ n ∨ s.trailFailed r = true →
        ∃ t, exec .trim s = .next t ∧ EndsWith t 5 0 ∧ OnlyEnds s t)
    ∧ (∀ k e b, has → s.windowEntry r n = some (k, e) → s.trailOld r < n → n < s.trailNext r → s.trailFailed r = false →
        TrailAt s r b → k < 2 ^ 64 →
        ∃ t, exec .trim s = .next t ∧ EndsWith t 0 0 ∧ t.trailHead r = k ∧ t.trailOld r = n ∧ t.trailNext r = s.trailNext r
          ∧ t.trailTail r = s.trailTail r))
  ∧ (∀ (c : DbgCmd) (pa : Nat) (r : Region) (s : State), s.ev = some (.rewind c) → Commands s c pa → KeptRegion s pa r →
    let n := c.arg0.toNat % 2 ^ 32
    let has := r.trail ≠ 0 ∧ s.TrailOpen r
    (r.trail = 0 → ∃ t, exec .rewind s = .next t ∧ EndsWith t 9 0 ∧ OnlyEnds s t)
    ∧ (has → s.regionHalted r = false → ∃ t, exec .rewind s = .next t ∧ EndsWith t 4 0 ∧ OnlyEnds s t)
    ∧ (has → s.regionHalted r = true → s.trailNext r ≤ n →
        ∃ t, exec .rewind s = .next t ∧ EndsWith t 5 0 ∧ OnlyEnds s t)
    ∧ (has → s.regionHalted r = true → n < s.trailNext r → n < s.trailOld r ∨ s.trailFailed r = true →
        ∃ t, exec .rewind s = .next t ∧ EndsWith t 3 0 ∧ OnlyEnds s t)
    ∧ (∀ k e, has → s.regionHalted r = true → n < s.trailNext r → s.trailOld r ≤ n → s.trailFailed r = false →
        s.windowEntry r n = some (k, e) → s.undoHeld r (s.entries r) e.ts = none →
        (∀ code j x, s.scanBack r (s.entries r) e.ts c.force [] (s.entries r).reverse = .error (code, j, x) →
          ∃ t, exec .rewind s = .next t ∧ EndsAt t code (windowAt (s.entries r) j % 2 ^ 32) (x.ts % 2 ^ 48) (x.addr % 2 ^ 52)
            ∧ OnlyEnds s t)
        ∧ (∀ undos, s.scanBack r (s.entries r) e.ts c.force [] (s.entries r).reverse = .ok undos →
          ∃ t, exec .rewind s = .next t ∧ EndsWith t 0 n
            ∧ ∀ p l, s.packsUnder pa = [p] → p.out = none → s.launch? (p.key / 2 ^ 24) = some l → e.kind = 0x10 →
                e.addr / 2 ^ 32 = l.id → ∀ g ∈ s.threadsOf p,
                (t.thread g).pc = l.entry ∧ (t.thread g).value 1 = wide l.arg ∧ (t.thread g).positioned = true
                  ∧ (t.thread g).halted = true ∧ (t.thread g).status = .ready ∧ (t.thread g).regs = []
                  ∧ ∀ i < 144, (t.thread g).rstate i = .full)))
  ∧ (∀ (c : DbgCmd) (pa : Nat) (r : Region) (s : State), s.ev = some (.replay c) → Commands s c pa → KeptRegion s pa r →
    let n := c.arg1.toNat % 2 ^ 16
    let g := c.arg0.toNat % 2 ^ 13
    let can := (s.thread g).status ≠ .idle ∧ (s.thread g).status ≠ .exited ∧ (s.thread g).positioned = true
      ∧ s.inRegions (s.thread g).pack [pa] = true
    (n = 0 → ∃ t, exec .replay s = .next t ∧ EndsWith t 8 0 ∧ OnlyEnds s t)
    ∧ (n ≠ 0 → s.regionHalted r = false → ∃ t, exec .replay s = .next t ∧ EndsWith t 4 0 ∧ OnlyEnds s t)
    ∧ (n ≠ 0 → s.regionHalted r = true → c.arg0.toNat / 2 ^ 63 = 0 →
        (¬can → ∃ t, exec .replay s = .next t ∧ EndsWith t 6 0 ∧ OnlyEnds s t)
        ∧ (can → ∃ t, exec .replay s = .next t ∧ t.cfield 0x5020 0 0 = 1
            ∧ t.replay = some { rcb := pa, gtid := some g, pack := (s.thread g).pack, rank := (s.thread g).rank, left := n,
                                since := s.now.toNat, issued := false, trapped := false }
            ∧ OnlyEnds s { t with replay := s.replay })))
  ∧ ∀ (x : Replay) (s : State), s.ev = some .replayParked → s.replay = some x → x.issued = true ∨ x.gtid = none →
    x.since + 1000000 * Config.ns < s.now.toNat →
    ∃ t, exec .replayParked s = .next t ∧ EndsWith t 7 0 ∧ t.replay = none
      ∧ OnlyEnds s { t with replay := s.replay }

/-! ### Every step -/

/-- The memories keep their canonical form: a step from a state in which the device memory, the pools, the host's memory and
the other modules' memories list rising addresses and no byte that an unlisted address reads as leads to such a state. -/
def Obligations.MemoriesStayCanonical : Prop :=
  ∀ s t : State, s.wf → step s = .next t → t.wf
end

