-- ==== Sys2Proof/Laws/Table.lean ====
section
/-! SUPPORT. Laws of the sparse tables and of memory cells: a read after a write, and the canonical form. -/

namespace Sys2Proof.Machine

/-! ### Tables -/

/-- A key reads back what was set; every other key reads as before. -/
theorem tget_tset {α : Type} (d : α) (l : Table α) (k : Nat) (x : α) (j : Nat) :
    tget d (tset l k x) j = if j = k then x else tget d l j := by
  induction l with
  | nil => grind [tset, tget]
  | cons c r ih => obtain ⟨i, w⟩ := c; grind [tset, tget]

@[simp] theorem tget_tset_same {α : Type} (d : α) (l : Table α) (k : Nat) (x : α) : tget d (tset l k x) k = x := by
  simp [tget_tset]

theorem tget_tset_ne {α : Type} (d : α) (l : Table α) {k j : Nat} (x : α) (h : j ≠ k) :
    tget d (tset l k x) j = tget d l j := by
  simp [tget_tset, h]

/-! ### Cells -/

theorem cellsFrom_mono {m : List Host.Cell} {lo lo' : Nat} (h : lo' ≤ lo) (w : cellsFrom lo m = true) :
    cellsFrom lo' m = true := by
  cases m with
  | nil => rfl
  | cons c r => simp only [cellsFrom, Bool.and_eq_true, decide_eq_true_eq] at *; exact ⟨⟨by omega, w.1.2⟩, w.2⟩

/-- An address below every key reads zero. -/
theorem mget_below {m : List Host.Cell} {lo k : Nat} (w : cellsFrom lo m = true) (h : k < lo) : mget m k = 0 := by
  cases m with
  | nil => rfl
  | cons c r =>
    simp only [cellsFrom, Bool.and_eq_true, decide_eq_true_eq] at w
    simp only [mget]; rw [if_pos (by omega)]

/-- A write keeps the canonical form. -/
theorem cellsFrom_mset {m : List Host.Cell} {lo k : Nat} (v : Byte) (w : cellsFrom lo m = true) (h : lo ≤ k) :
    cellsFrom lo (mset m k v) = true := by
  induction m generalizing lo with
  | nil => grind [mset, cellsFrom]
  | cons c r ih =>
    obtain ⟨i, b⟩ := c
    have := cellsFrom_mono (m := r) (lo := i + 1) (lo' := lo)
    have := cellsFrom_mono (m := r) (lo := i + 1) (lo' := k + 1)
    grind [mset, cellsFrom]

/-- A byte written reads back, and every other byte reads as before. -/
theorem mget_mset {m : List Host.Cell} {lo : Nat} (w : cellsFrom lo m = true) (k : Nat) (v : Byte) (j : Nat) :
    mget (mset m k v) j = if j = k then v else mget m j := by
  induction m generalizing lo with
  | nil => grind [mset, mget]
  | cons c r ih =>
    obtain ⟨i, b⟩ := c
    have : ∀ j < i + 1, cellsFrom (i + 1) r = true → mget r j = 0 := fun j h w => mget_below w h
    grind [mset, mget, cellsFrom]

theorem Memory.wf_mset {m : List Host.Cell} (k : Nat) (v : Byte) (w : Memory.wf m = true) :
    Memory.wf (mset m k v) = true := cellsFrom_mset v w (Nat.zero_le k)

theorem Memory.wf_mwrite (bs : List Byte) : ∀ {m : List Host.Cell} (a : Nat), Memory.wf m = true →
    Memory.wf (mwrite m a bs) = true := by
  induction bs with
  | nil => intro m a w; exact w
  | cons b r ih => intro m a w; exact ih (a + 1) (Memory.wf_mset a b w)

/-- Bytes written from a on read back; every other byte reads as before. -/
theorem mget_mwrite (bs : List Byte) : ∀ {m : List Host.Cell} (a : Nat), Memory.wf m = true → ∀ j : Nat,
    mget (mwrite m a bs) j = if a ≤ j ∧ j < a + bs.length then bs[j - a]?.getD 0 else mget m j := by
  induction bs with
  | nil => intro m a _ j; simp only [mwrite, List.length_nil]; rw [if_neg (by omega)]
  | cons b r ih =>
    intro m a w j
    simp only [mwrite, List.length_cons]
    rw [ih (a + 1) (Memory.wf_mset a b w), mget_mset w]
    rcases Nat.lt_trichotomy j a with h | h | h
    · rw [if_neg (by omega), if_neg (by omega), if_neg (by omega)]
    · subst h; rw [if_neg (by omega), if_pos rfl, if_pos (by omega)]; simp
    · rw [if_neg (by omega : ¬j = a)]
      by_cases h2 : j < a + 1 + r.length
      · rw [if_pos (by omega), if_pos (by omega), show j - a = (j - (a + 1)) + 1 by omega, List.getElem?_cons_succ]
      · rw [if_neg (by omega), if_neg (by omega)]

theorem cellsFrom_filter (p : Host.Cell → Bool) {m : List Host.Cell} {lo : Nat} (w : cellsFrom lo m = true) :
    cellsFrom lo (m.filter p) = true := by
  induction m generalizing lo with
  | nil => rfl
  | cons c r ih =>
    simp only [cellsFrom, Bool.and_eq_true, decide_eq_true_eq] at w
    simp only [List.filter]
    split
    · simp only [cellsFrom, Bool.and_eq_true, decide_eq_true_eq]; exact ⟨w.1, ih w.2⟩
    · exact cellsFrom_mono (by omega) (ih w.2)

theorem Memory.wf_mclear {m : List Host.Cell} (lo hi : Nat) (w : Memory.wf m = true) :
    Memory.wf (mclear m lo hi) = true := cellsFrom_filter _ w

end Sys2Proof.Machine
end

