-- ==== Sys2Proof/Laws/Thread.lean ====
section
/-! SUPPORT. Laws of registers and threads: what a write leaves in every register, and what it leaves alone. -/

namespace Sys2Proof.Machine

/-! ### States of registers -/

@[simp] theorem Thread.setS_pc (t : Thread) (r : Reg6) (x : Word) : (t.setS r x).pc = t.pc := by
  unfold Thread.setS; split <;> rfl
@[simp] theorem Thread.setP_pc (t : Thread) (r : PReg) (x : Word) : (t.setP r x).pc = t.pc := by
  unfold Thread.setP; split <;> rfl
@[simp] theorem Thread.setV_pc (t : Thread) (r : Reg6) (x : Vec) : (t.setV r x).pc = t.pc := rfl
@[simp] theorem Thread.setS_fpflags (t : Thread) (r : Reg6) (x : Word) : (t.setS r x).fpflags = t.fpflags := by
  unfold Thread.setS; split <;> rfl
@[simp] theorem Thread.setP_fpflags (t : Thread) (r : PReg) (x : Word) : (t.setP r x).fpflags = t.fpflags := by
  unfold Thread.setP; split <;> rfl
@[simp] theorem Thread.setV_fpflags (t : Thread) (r : Reg6) (x : Vec) : (t.setV r x).fpflags = t.fpflags := rfl

/-- The state of a register after a register is marked full in the vector of states. -/
theorem rstate_of_st (t u : Thread) (k : Nat) (r : RegState) (h : u.st = t.st.setIfInBounds k r) (hk : isConst k = false)
    (i : Nat) : u.rstate i = if i = k ∧ i < 144 then r else t.rstate i := by
  unfold Thread.rstate
  rw [h]
  by_cases hc : isConst i
  · have : i ≠ k := by intro e; subst e; simp_all
    simp [hc, this]
  · simp only [hc]
    by_cases hi : i < 144
    · simp only [hi, dite_true, Vector.getElem_setIfInBounds]
      by_cases e : i = k
      · subst e; simp
      · simp [e, Ne.symm e]
    · simp [hi]

theorem Thread.rstate_setState (t : Thread) (k : Nat) (r : RegState) (i : Nat) :
    (t.setState k r).rstate i = if i = k ∧ i < 144 ∧ isConst k = false then r else t.rstate i := by
  unfold Thread.setState
  by_cases hc : isConst k
  · simp [hc]
  · simp only [hc]
    rw [if_neg (by simp), rstate_of_st t _ k r rfl (by simpa using hc)]
    simp

theorem isConst_rs {r : Reg6} (h : r ≠ 0) : isConst (rs r) = false := by
  have := r.isLt
  have h0 : r.toNat ≠ 0 := fun e => h (BitVec.eq_of_toNat_eq (by simpa using e))
  simp only [isConst, rs, Bool.or_eq_false_iff, beq_eq_false_iff_ne]; omega

theorem isConst_rv (r : Reg6) : isConst (rv r) = false := by
  have := r.isLt
  simp only [isConst, rv, Bool.or_eq_false_iff, beq_eq_false_iff_ne]; omega

theorem isConst_rp {r : PReg} (h0 : r ≠ 0) (h1 : r ≠ 1) : isConst (rp r) = false := by
  have := r.isLt
  have e0 : r.toNat ≠ 0 := fun e => h0 (BitVec.eq_of_toNat_eq (by simpa using e))
  have e1 : r.toNat ≠ 1 := fun e => h1 (BitVec.eq_of_toNat_eq (by simpa using e))
  simp only [isConst, rp, Bool.or_eq_false_iff, beq_eq_false_iff_ne]; omega

@[simp] theorem rs_lt (r : Reg6) : rs r < 64 := r.isLt
@[simp] theorem rv_lt (r : Reg6) : rv r < 128 := by have := r.isLt; simp only [rv]; omega
@[simp] theorem rp_lt (r : PReg) : rp r < 144 := by have := r.isLt; simp only [rp]; omega
theorem rv_ge (r : Reg6) : 64 ≤ rv r := by simp only [rv]; omega
theorem rp_ge (r : PReg) : 128 ≤ rp r := by simp only [rp]; omega

@[simp] theorem Thread.rstate_const (t : Thread) {i : Nat} (h : isConst i = true) : t.rstate i = .full := by
  simp [Thread.rstate, h]

/-- A write of s[r] makes it full and leaves every other state alone. -/
theorem Thread.rstate_setS (t : Thread) (r : Reg6) (x : Word) (i : Nat) :
    (t.setS r x).rstate i = if i = rs r then .full else t.rstate i := by
  unfold Thread.setS
  by_cases h : r = 0
  · subst h; simp only [if_true]; split
    · rename_i e; subst e; exact Thread.rstate_const t (by decide)
    · rfl
  · rw [if_neg h, rstate_of_st t _ (rs r) .full rfl (isConst_rs h)]
    have := rs_lt r
    by_cases e : i = rs r <;> simp [e]; omega

theorem Thread.rstate_setV (t : Thread) (r : Reg6) (x : Vec) (i : Nat) :
    (t.setV r x).rstate i = if i = rv r then .full else t.rstate i := by
  rw [rstate_of_st t _ (rv r) .full rfl (isConst_rv r)]
  have := rv_lt r
  by_cases e : i = rv r <;> simp [e]; omega

theorem Thread.rstate_setP (t : Thread) (r : PReg) (x : Word) (i : Nat) :
    (t.setP r x).rstate i = if i = rp r then .full else t.rstate i := by
  unfold Thread.setP
  by_cases h : r = 0 ∨ r = 1
  · rw [if_pos h]; split
    · rename_i e; subst e; refine Thread.rstate_const t ?_
      rcases h with h | h <;> subst h <;> decide
    · rfl
  · rw [if_neg h]
    simp only [not_or] at h
    rw [rstate_of_st t _ (rp r) .full rfl (isConst_rp h.1 h.2)]
    have := rp_lt r
    by_cases e : i = rp r <;> simp [e]

/-! ### Values -/

theorem Thread.sreg_setS (t : Thread) (r q : Reg6) (x : Word) :
    (t.setS r x).sreg q = if q = r ∧ r ≠ 0 then x else t.sreg q := by
  unfold Thread.setS
  by_cases hr : r = 0
  · rw [if_pos hr, if_neg (show ¬(q = r ∧ r ≠ 0) from fun h => h.2 hr)]
  · rw [if_neg hr]; unfold Thread.sreg
    by_cases e : q = r
    · rw [if_neg (show ¬q = 0 from e ▸ hr), if_pos (show q = r ∧ r ≠ 0 from ⟨e, hr⟩)]; subst e
      exact Vector.getElem_set_self _
    · rw [if_neg (show ¬(q = r ∧ r ≠ 0) from fun h => e h.1)]
      by_cases hq : q = 0
      · rw [if_pos hq, if_pos hq]
      · rw [if_neg hq, if_neg hq]
        exact Vector.getElem_set_ne r.isLt _ (fun h => e (BitVec.eq_of_toNat_eq h.symm))

theorem Thread.vreg_setV (t : Thread) (r q : Reg6) (x : Vec) : (t.setV r x).vreg q = if q = r then x else t.vreg q := by
  unfold Thread.setV Thread.vreg
  rw [Vector.getElem_set]
  by_cases e : q = r
  · subst e; simp
  · have : r.toNat ≠ q.toNat := fun h => e (BitVec.eq_of_toNat_eq h.symm)
    simp [e, this]

theorem Thread.preg_setP (t : Thread) (r q : PReg) (x : Word) :
    (t.setP r x).preg q = if q = r ∧ r ≠ 0 ∧ r ≠ 1 then x else t.preg q := by
  unfold Thread.setP
  by_cases hr : r = 0 ∨ r = 1
  · rw [if_pos hr, if_neg (show ¬(q = r ∧ r ≠ 0 ∧ r ≠ 1) from fun h => hr.elim h.2.1 h.2.2)]
  · rw [if_neg hr]; unfold Thread.preg
    have h0 : ¬r = 0 := fun h => hr (.inl h)
    have h1 : ¬r = 1 := fun h => hr (.inr h)
    by_cases e : q = r
    · rw [if_neg (show ¬q = 0 from e ▸ h0), if_neg (show ¬q = 1 from e ▸ h1),
        if_pos (show q = r ∧ r ≠ 0 ∧ r ≠ 1 from ⟨e, h0, h1⟩)]
      subst e; exact Vector.getElem_set_self _
    · rw [if_neg (show ¬(q = r ∧ r ≠ 0 ∧ r ≠ 1) from fun h => e h.1)]
      by_cases hq : q = 0
      · rw [if_pos hq, if_pos hq]
      · rw [if_neg hq, if_neg hq]
        by_cases hq1 : q = 1
        · rw [if_pos hq1, if_pos hq1]
        · rw [if_neg hq1, if_neg hq1]
          exact Vector.getElem_set_ne r.isLt _ (fun h => e (BitVec.eq_of_toNat_eq h.symm))

@[simp] theorem Thread.sreg_zero (t : Thread) : t.sreg 0 = 0 := by simp [Thread.sreg]
@[simp] theorem Thread.preg_zero (t : Thread) : t.preg 0 = BitVec.allOnes 64 := by simp [Thread.preg]
@[simp] theorem Thread.preg_one (t : Thread) : t.preg 1 = 0 := by simp [Thread.preg]

@[simp] theorem Thread.vreg_setS (t : Thread) (r q : Reg6) (x : Word) : (t.setS r x).vreg q = t.vreg q := by
  unfold Thread.setS; split <;> rfl
@[simp] theorem Thread.preg_setS (t : Thread) (r : Reg6) (q : PReg) (x : Word) : (t.setS r x).preg q = t.preg q := by
  unfold Thread.setS; split <;> rfl
@[simp] theorem Thread.sreg_setV (t : Thread) (r q : Reg6) (x : Vec) : (t.setV r x).sreg q = t.sreg q := rfl
@[simp] theorem Thread.preg_setV (t : Thread) (r : Reg6) (q : PReg) (x : Vec) : (t.setV r x).preg q = t.preg q := rfl
@[simp] theorem Thread.sreg_setP (t : Thread) (r : PReg) (q : Reg6) (x : Word) : (t.setP r x).sreg q = t.sreg q := by
  unfold Thread.setP; split <;> rfl
@[simp] theorem Thread.vreg_setP (t : Thread) (r : PReg) (q : Reg6) (x : Word) : (t.setP r x).vreg q = t.vreg q := by
  unfold Thread.setP; split <;> rfl

/-- A register number names one register of its class. -/
theorem ofNat6_inj {i : Nat} (h : i < 64) (r : Reg6) : BitVec.ofNat 6 i = r ↔ i = r.toNat := by
  constructor
  · intro e; rw [← e]; simp; omega
  · intro e; subst e; simp

theorem ofNat4_inj {i : Nat} (h : i < 16) (r : PReg) : BitVec.ofNat 4 i = r ↔ i = r.toNat := by
  constructor
  · intro e; rw [← e]; simp; omega
  · intro e; subst e; simp

/-- The value of a register number after a write of s[r]. -/
theorem Thread.value_setS (t : Thread) (r : Reg6) (x : Word) (i : Nat) :
    (t.setS r x).value i = if i = rs r ∧ r ≠ 0 then x.setWidth 2048 else t.value i := by
  unfold Thread.value
  have hr := rs_lt r
  by_cases h : i < 64
  · simp only [h, if_true, Thread.sreg_setS, ofNat6_inj h, rs]; split <;> rfl
  · have : i ≠ rs r := by omega
    simp only [h, if_false, Thread.vreg_setS, Thread.preg_setS, this, false_and]

theorem Thread.value_setV (t : Thread) (r : Reg6) (x : Vec) (i : Nat) :
    (t.setV r x).value i = if i = rv r then x else t.value i := by
  unfold Thread.value
  have hr := rv_lt r; have hr' := rv_ge r
  by_cases h : i < 64
  · have : i ≠ rv r := by omega
    simp only [h, if_true, Thread.sreg_setV, this, if_false]
  · simp only [h, if_false]
    by_cases h2 : i < 128
    · simp only [h2, if_true, Thread.vreg_setV, ofNat6_inj (show i - 64 < 64 by omega)]
      have : i - 64 = r.toNat ↔ i = rv r := by simp only [rv]; omega
      simp only [this]
    · have : i ≠ rv r := by omega
      simp only [h2, if_false, Thread.preg_setV, this]

theorem Thread.value_setP (t : Thread) (r : PReg) (x : Word) (i : Nat) (hi : i < 144) :
    (t.setP r x).value i = if i = rp r ∧ r ≠ 0 ∧ r ≠ 1 then x.setWidth 2048 else t.value i := by
  unfold Thread.value
  have hr' := rp_ge r
  by_cases h : i < 64
  · have : i ≠ rp r := by omega
    simp only [h, if_true, Thread.sreg_setP, this, false_and, if_false]
  · simp only [h, if_false]
    by_cases h2 : i < 128
    · have : i ≠ rp r := by omega
      simp only [h2, if_true, Thread.vreg_setP, this, false_and, if_false]
    · simp only [h2, if_false, Thread.preg_setP, ofNat4_inj (show i - 128 < 16 by omega)]
      have : i - 128 = r.toNat ↔ i = rp r := by simp only [rp]; omega
      simp only [this]; split <;> rfl

theorem Thread.value_rs (t : Thread) (r : Reg6) : t.value (rs r) = (t.sreg r).setWidth 2048 := by
  simp only [Thread.value, rs_lt, if_true]; rw [(ofNat6_inj (rs_lt r) r).2 rfl]
theorem Thread.value_rv (t : Thread) (r : Reg6) : t.value (rv r) = t.vreg r := by
  have := r.isLt
  have h1 : ¬(64 + r.toNat < 64) := by omega
  have h2 : 64 + r.toNat < 128 := by omega
  simp [Thread.value, rv, h1, h2]
theorem Thread.value_rp (t : Thread) (r : PReg) : t.value (rp r) = (t.preg r).setWidth 2048 := by
  have h1 : ¬(128 + r.toNat < 64) := by omega
  have h2 : ¬(128 + r.toNat < 128) := by omega
  simp [Thread.value, rp, h1, h2]

end Sys2Proof.Machine
end

