-- ==== Sys2Proof/Laws/State.lean ====
section
/-! SUPPORT. What each update of the state leaves in each field: one lemma for each, by rfl. -/

namespace Sys2Proof.Machine

theorem State.setThr_eq (s : State) (t : Thread) : s.setThr t = s.setThread s.cur t := rfl
theorem State.onThr_eq (s : State) (f : Thread → Thread) : s.onThr f = s.setThread s.cur (f s.thr) := rfl

/-- What a thread slot holds after thread g is replaced. -/
@[simp] theorem State.thread_setThread (s : State) (g : Nat) (t : Thread) (h : Nat) :
    (s.setThread g t).thread h = if h = g then t else s.thread h := tget_tset _ _ _ _ _

/-- What a core slot holds after core c is replaced. -/
@[simp] theorem State.core_setCore (s : State) (c : Nat) (k : Core) (d : Nat) :
    (s.setCore c k).core d = if d = c then k else s.core d := tget_tset _ _ _ _ _

@[simp] theorem State.thr_setThread (s : State) (t : Thread) : (s.setThread s.cur t).thr = t := by
  unfold State.thr; rw [State.thread_setThread]; exact if_pos rfl

@[simp] theorem State.thr_onThr (s : State) (f : Thread → Thread) : (s.onThr f).thr = f s.thr := State.thr_setThread _ _

/-! ### A thread replaced -/

@[simp] theorem State.setThread_agenda (s : State) (g : Nat) (t : Thread) : (s.setThread g t).agenda = s.agenda := rfl
@[simp] theorem State.setThread_cur (s : State) (g : Nat) (t : Thread) : (s.setThread g t).cur = s.cur := rfl
@[simp] theorem State.setThread_curq (s : State) (g : Nat) (t : Thread) : (s.setThread g t).curq = s.curq := rfl
@[simp] theorem State.setThread_ev (s : State) (g : Nat) (t : Thread) : (s.setThread g t).ev = s.ev := rfl
@[simp] theorem State.setThread_coreTurn (s : State) (g : Nat) (t : Thread) : (s.setThread g t).coreTurn = s.coreTurn := rfl
@[simp] theorem State.setThread_prior (s : State) (g : Nat) (t : Thread) : (s.setThread g t).prior = s.prior := rfl
@[simp] theorem State.setThread_ir0 (s : State) (g : Nat) (t : Thread) : (s.setThread g t).ir0 = s.ir0 := rfl
@[simp] theorem State.setThread_ir1 (s : State) (g : Nat) (t : Thread) : (s.setThread g t).ir1 = s.ir1 := rfl
@[simp] theorem State.setThread_stuck (s : State) (g : Nat) (t : Thread) : (s.setThread g t).stuck = s.stuck := rfl
@[simp] theorem State.setThread_freeCtr (s : State) (g : Nat) (t : Thread) : (s.setThread g t).freeCtr = s.freeCtr := rfl
@[simp] theorem State.setThread_now (s : State) (g : Nat) (t : Thread) : (s.setThread g t).now = s.now := rfl
@[simp] theorem State.setThread_mem (s : State) (g : Nat) (t : Thread) : (s.setThread g t).mem = s.mem := rfl
@[simp] theorem State.setThread_pool (s : State) (g : Nat) (t : Thread) : (s.setThread g t).pool = s.pool := rfl
@[simp] theorem State.setThread_hostMem (s : State) (g : Nat) (t : Thread) : (s.setThread g t).hostMem = s.hostMem := rfl
@[simp] theorem State.setThread_remoteMem (s : State) (g : Nat) (t : Thread) : (s.setThread g t).remoteMem = s.remoteMem := rfl
@[simp] theorem State.setThread_fabCopies (s : State) (g : Nat) (t : Thread) : (s.setThread g t).fabCopies = s.fabCopies := rfl
@[simp] theorem State.setThread_lines (s : State) (g : Nat) (t : Thread) : (s.setThread g t).lines = s.lines := rfl
@[simp] theorem State.setThread_ltime (s : State) (g : Nat) (t : Thread) : (s.setThread g t).ltime = s.ltime := rfl
@[simp] theorem State.setThread_rebaseDue (s : State) (g : Nat) (t : Thread) : (s.setThread g t).rebaseDue = s.rebaseDue := rfl
@[simp] theorem State.setThread_marks (s : State) (g : Nat) (t : Thread) : (s.setThread g t).marks = s.marks := rfl
@[simp] theorem State.setThread_tlb (s : State) (g : Nat) (t : Thread) : (s.setThread g t).tlb = s.tlb := rfl
@[simp] theorem State.setThread_phasers (s : State) (g : Nat) (t : Thread) : (s.setThread g t).phasers = s.phasers := rfl
@[simp] theorem State.setThread_phOwners (s : State) (g : Nat) (t : Thread) : (s.setThread g t).phOwners = s.phOwners := rfl
@[simp] theorem State.setThread_phWaits (s : State) (g : Nat) (t : Thread) : (s.setThread g t).phWaits = s.phWaits := rfl
@[simp] theorem State.setThread_linkUp (s : State) (g : Nat) (t : Thread) : (s.setThread g t).linkUp = s.linkUp := rfl
@[simp] theorem State.setThread_lostPorts (s : State) (g : Nat) (t : Thread) : (s.setThread g t).lostPorts = s.lostPorts := rfl
@[simp] theorem State.setThread_portSeen (s : State) (g : Nat) (t : Thread) : (s.setThread g t).portSeen = s.portSeen := rfl
@[simp] theorem State.setThread_portQuar (s : State) (g : Nat) (t : Thread) : (s.setThread g t).portQuar = s.portQuar := rfl
@[simp] theorem State.setThread_claimFrom (s : State) (g : Nat) (t : Thread) : (s.setThread g t).claimFrom = s.claimFrom := rfl
@[simp] theorem State.setThread_peerLinks (s : State) (g : Nat) (t : Thread) : (s.setThread g t).peerLinks = s.peerLinks := rfl
@[simp] theorem State.setThread_beacons (s : State) (g : Nat) (t : Thread) : (s.setThread g t).beacons = s.beacons := rfl
@[simp] theorem State.setThread_outNotices (s : State) (g : Nat) (t : Thread) : (s.setThread g t).outNotices = s.outNotices := rfl
@[simp] theorem State.setThread_exports (s : State) (g : Nat) (t : Thread) : (s.setThread g t).exports = s.exports := rfl
@[simp] theorem State.setThread_launches (s : State) (g : Nat) (t : Thread) : (s.setThread g t).launches = s.launches := rfl
@[simp] theorem State.setThread_packs (s : State) (g : Nat) (t : Thread) : (s.setThread g t).packs = s.packs := rfl
@[simp] theorem State.setThread_queues (s : State) (g : Nat) (t : Thread) : (s.setThread g t).queues = s.queues := rfl
@[simp] theorem State.setThread_served (s : State) (g : Nat) (t : Thread) : (s.setThread g t).served = s.served := rfl
@[simp] theorem State.setThread_childReqs (s : State) (g : Nat) (t : Thread) : (s.setThread g t).childReqs = s.childReqs := rfl
@[simp] theorem State.setThread_kills (s : State) (g : Nat) (t : Thread) : (s.setThread g t).kills = s.kills := rfl
@[simp] theorem State.setThread_killWaits (s : State) (g : Nat) (t : Thread) : (s.setThread g t).killWaits = s.killWaits := rfl
@[simp] theorem State.setThread_flips (s : State) (g : Nat) (t : Thread) : (s.setThread g t).flips = s.flips := rfl
@[simp] theorem State.setThread_regions (s : State) (g : Nat) (t : Thread) : (s.setThread g t).regions = s.regions := rfl
@[simp] theorem State.setThread_trails (s : State) (g : Nat) (t : Thread) : (s.setThread g t).trails = s.trails := rfl
@[simp] theorem State.setThread_ckpts (s : State) (g : Nat) (t : Thread) : (s.setThread g t).ckpts = s.ckpts := rfl
@[simp] theorem State.setThread_revived (s : State) (g : Nat) (t : Thread) : (s.setThread g t).revived = s.revived := rfl
@[simp] theorem State.setThread_copies (s : State) (g : Nat) (t : Thread) : (s.setThread g t).copies = s.copies := rfl
@[simp] theorem State.setThread_rings (s : State) (g : Nat) (t : Thread) : (s.setThread g t).rings = s.rings := rfl
@[simp] theorem State.setThread_ringWaits (s : State) (g : Nat) (t : Thread) : (s.setThread g t).ringWaits = s.ringWaits := rfl
@[simp] theorem State.setThread_semWaits (s : State) (g : Nat) (t : Thread) : (s.setThread g t).semWaits = s.semWaits := rfl
@[simp] theorem State.setThread_held (s : State) (g : Nat) (t : Thread) : (s.setThread g t).held = s.held := rfl
@[simp] theorem State.setThread_probes (s : State) (g : Nat) (t : Thread) : (s.setThread g t).probes = s.probes := rfl
@[simp] theorem State.setThread_requests (s : State) (g : Nat) (t : Thread) : (s.setThread g t).requests = s.requests := rfl
@[simp] theorem State.setThread_seqrs (s : State) (g : Nat) (t : Thread) : (s.setThread g t).seqrs = s.seqrs := rfl
@[simp] theorem State.setThread_seqCaches (s : State) (g : Nat) (t : Thread) : (s.setThread g t).seqCaches = s.seqCaches := rfl
@[simp] theorem State.setThread_colls (s : State) (g : Nat) (t : Thread) : (s.setThread g t).colls = s.colls := rfl
@[simp] theorem State.setThread_arming (s : State) (g : Nat) (t : Thread) : (s.setThread g t).arming = s.arming := rfl
@[simp] theorem State.setThread_disarming (s : State) (g : Nat) (t : Thread) : (s.setThread g t).disarming = s.disarming := rfl
@[simp] theorem State.setThread_quarantine (s : State) (g : Nat) (t : Thread) : (s.setThread g t).quarantine = s.quarantine := rfl
@[simp] theorem State.setThread_notices (s : State) (g : Nat) (t : Thread) : (s.setThread g t).notices = s.notices := rfl
@[simp] theorem State.setThread_applied (s : State) (g : Nat) (t : Thread) : (s.setThread g t).applied = s.applied := rfl
@[simp] theorem State.setThread_sent (s : State) (g : Nat) (t : Thread) : (s.setThread g t).sent = s.sent := rfl
@[simp] theorem State.setThread_collBars (s : State) (g : Nat) (t : Thread) : (s.setThread g t).collBars = s.collBars := rfl
@[simp] theorem State.setThread_ownXfers (s : State) (g : Nat) (t : Thread) : (s.setThread g t).ownXfers = s.ownXfers := rfl
@[simp] theorem State.setThread_ownNotices (s : State) (g : Nat) (t : Thread) : (s.setThread g t).ownNotices = s.ownNotices := rfl
@[simp] theorem State.setThread_ownRequests (s : State) (g : Nat) (t : Thread) : (s.setThread g t).ownRequests = s.ownRequests := rfl
@[simp] theorem State.setThread_early (s : State) (g : Nat) (t : Thread) : (s.setThread g t).early = s.early := rfl
@[simp] theorem State.setThread_accs (s : State) (g : Nat) (t : Thread) : (s.setThread g t).accs = s.accs := rfl
@[simp] theorem State.setThread_shadows (s : State) (g : Nat) (t : Thread) : (s.setThread g t).shadows = s.shadows := rfl
@[simp] theorem State.setThread_buses (s : State) (g : Nat) (t : Thread) : (s.setThread g t).buses = s.buses := rfl
@[simp] theorem State.setThread_lowLines (s : State) (g : Nat) (t : Thread) : (s.setThread g t).lowLines = s.lowLines := rfl
@[simp] theorem State.setThread_deadLines (s : State) (g : Nat) (t : Thread) : (s.setThread g t).deadLines = s.deadLines := rfl
@[simp] theorem State.setThread_arrivals (s : State) (g : Nat) (t : Thread) : (s.setThread g t).arrivals = s.arrivals := rfl
@[simp] theorem State.setThread_invs (s : State) (g : Nat) (t : Thread) : (s.setThread g t).invs = s.invs := rfl
@[simp] theorem State.setThread_flash (s : State) (g : Nat) (t : Thread) : (s.setThread g t).flash = s.flash := rfl
@[simp] theorem State.setThread_fwRun (s : State) (g : Nat) (t : Thread) : (s.setThread g t).fwRun = s.fwRun := rfl
@[simp] theorem State.setThread_fwAsked (s : State) (g : Nat) (t : Thread) : (s.setThread g t).fwAsked = s.fwAsked := rfl
@[simp] theorem State.setThread_meas1 (s : State) (g : Nat) (t : Thread) : (s.setThread g t).meas1 = s.meas1 := rfl
@[simp] theorem State.setThread_meas2 (s : State) (g : Nat) (t : Thread) : (s.setThread g t).meas2 = s.meas2 := rfl
@[simp] theorem State.setThread_mbox (s : State) (g : Nat) (t : Thread) : (s.setThread g t).mbox = s.mbox := rfl
@[simp] theorem State.setThread_spdm (s : State) (g : Nat) (t : Thread) : (s.setThread g t).spdm = s.spdm := rfl
@[simp] theorem State.setThread_spdmShut (s : State) (g : Nat) (t : Thread) : (s.setThread g t).spdmShut = s.spdmShut := rfl
@[simp] theorem State.setThread_answer (s : State) (g : Nat) (t : Thread) : (s.setThread g t).answer = s.answer := rfl
@[simp] theorem State.setThread_msix (s : State) (g : Nat) (t : Thread) : (s.setThread g t).msix = s.msix := rfl
@[simp] theorem State.setThread_msixWait (s : State) (g : Nat) (t : Thread) : (s.setThread g t).msixWait = s.msixWait := rfl
@[simp] theorem State.setThread_tt (s : State) (g : Nat) (t : Thread) : (s.setThread g t).tt = s.tt := rfl
@[simp] theorem State.setThread_ttDue (s : State) (g : Nat) (t : Thread) : (s.setThread g t).ttDue = s.ttDue := rfl
@[simp] theorem State.setThread_slew (s : State) (g : Nat) (t : Thread) : (s.setThread g t).slew = s.slew := rfl
@[simp] theorem State.setThread_warmed (s : State) (g : Nat) (t : Thread) : (s.setThread g t).warmed = s.warmed := rfl
@[simp] theorem State.setThread_unlocked (s : State) (g : Nat) (t : Thread) : (s.setThread g t).unlocked = s.unlocked := rfl
@[simp] theorem State.setThread_skewSince (s : State) (g : Nat) (t : Thread) : (s.setThread g t).skewSince = s.skewSince := rfl
@[simp] theorem State.setThread_uncal (s : State) (g : Nat) (t : Thread) : (s.setThread g t).uncal = s.uncal := rfl
@[simp] theorem State.setThread_moves (s : State) (g : Nat) (t : Thread) : (s.setThread g t).moves = s.moves := rfl
@[simp] theorem State.setThread_halting (s : State) (g : Nat) (t : Thread) : (s.setThread g t).halting = s.halting := rfl
@[simp] theorem State.setThread_replay (s : State) (g : Nat) (t : Thread) : (s.setThread g t).replay = s.replay := rfl
@[simp] theorem State.setThread_nextTicket (s : State) (g : Nat) (t : Thread) : (s.setThread g t).nextTicket = s.nextTicket := rfl
@[simp] theorem State.setThread_nextRequest (s : State) (g : Nat) (t : Thread) : (s.setThread g t).nextRequest = s.nextRequest := rfl
@[simp] theorem State.setThread_nextLaunch (s : State) (g : Nat) (t : Thread) : (s.setThread g t).nextLaunch = s.nextLaunch := rfl
@[simp] theorem State.setThread_nextOrder (s : State) (g : Nat) (t : Thread) : (s.setThread g t).nextOrder = s.nextOrder := rfl
@[simp] theorem State.setThread_attached (s : State) (g : Nat) (t : Thread) : (s.setThread g t).attached = s.attached := rfl
@[simp] theorem State.setThread_detached (s : State) (g : Nat) (t : Thread) : (s.setThread g t).detached = s.detached := rfl
@[simp] theorem State.setThread_halted (s : State) (g : Nat) (t : Thread) : (s.setThread g t).halted = s.halted := rfl
@[simp] theorem State.setThread_resumed (s : State) (g : Nat) (t : Thread) : (s.setThread g t).resumed = s.resumed := rfl
@[simp] theorem State.setThread_named (s : State) (g : Nat) (t : Thread) : (s.setThread g t).named = s.named := rfl
@[simp] theorem State.setThread_dbgWait (s : State) (g : Nat) (t : Thread) : (s.setThread g t).dbgWait = s.dbgWait := rfl
@[simp] theorem State.setThread_watches (s : State) (g : Nat) (t : Thread) : (s.setThread g t).watches = s.watches := rfl
@[simp] theorem State.setThread_cores (s : State) (g : Nat) (t : Thread) : (s.setThread g t).cores = s.cores := rfl
@[simp] theorem State.setThread_binds (s : State) (g : Nat) (t : Thread) : (s.setThread g t).binds = s.binds := rfl
@[simp] theorem State.setThread_epochs (s : State) (g : Nat) (t : Thread) : (s.setThread g t).epochs = s.epochs := rfl
@[simp] theorem State.setThread_flying (s : State) (g : Nat) (t : Thread) : (s.setThread g t).flying = s.flying := rfl
@[simp] theorem State.setThread_ctl (s : State) (g : Nat) (t : Thread) : (s.setThread g t).ctl = s.ctl := rfl
@[simp] theorem State.setThread_heaters (s : State) (g : Nat) (t : Thread) : (s.setThread g t).heaters = s.heaters := rfl
@[simp] theorem State.setThread_window (s : State) (g : Nat) (t : Thread) : (s.setThread g t).window = s.window := rfl
@[simp] theorem State.setThread_config (s : State) (g : Nat) (t : Thread) : (s.setThread g t).config = s.config := rfl

/-! ### The current thread changed -/

@[simp] theorem State.onThr_agenda (s : State) (f : Thread → Thread) : (s.onThr f).agenda = s.agenda := rfl
@[simp] theorem State.onThr_cur (s : State) (f : Thread → Thread) : (s.onThr f).cur = s.cur := rfl
@[simp] theorem State.onThr_curq (s : State) (f : Thread → Thread) : (s.onThr f).curq = s.curq := rfl
@[simp] theorem State.onThr_ev (s : State) (f : Thread → Thread) : (s.onThr f).ev = s.ev := rfl
@[simp] theorem State.onThr_coreTurn (s : State) (f : Thread → Thread) : (s.onThr f).coreTurn = s.coreTurn := rfl
@[simp] theorem State.onThr_prior (s : State) (f : Thread → Thread) : (s.onThr f).prior = s.prior := rfl
@[simp] theorem State.onThr_ir0 (s : State) (f : Thread → Thread) : (s.onThr f).ir0 = s.ir0 := rfl
@[simp] theorem State.onThr_ir1 (s : State) (f : Thread → Thread) : (s.onThr f).ir1 = s.ir1 := rfl
@[simp] theorem State.onThr_stuck (s : State) (f : Thread → Thread) : (s.onThr f).stuck = s.stuck := rfl
@[simp] theorem State.onThr_freeCtr (s : State) (f : Thread → Thread) : (s.onThr f).freeCtr = s.freeCtr := rfl
@[simp] theorem State.onThr_now (s : State) (f : Thread → Thread) : (s.onThr f).now = s.now := rfl
@[simp] theorem State.onThr_mem (s : State) (f : Thread → Thread) : (s.onThr f).mem = s.mem := rfl
@[simp] theorem State.onThr_pool (s : State) (f : Thread → Thread) : (s.onThr f).pool = s.pool := rfl
@[simp] theorem State.onThr_hostMem (s : State) (f : Thread → Thread) : (s.onThr f).hostMem = s.hostMem := rfl
@[simp] theorem State.onThr_remoteMem (s : State) (f : Thread → Thread) : (s.onThr f).remoteMem = s.remoteMem := rfl
@[simp] theorem State.onThr_fabCopies (s : State) (f : Thread → Thread) : (s.onThr f).fabCopies = s.fabCopies := rfl
@[simp] theorem State.onThr_lines (s : State) (f : Thread → Thread) : (s.onThr f).lines = s.lines := rfl
@[simp] theorem State.onThr_ltime (s : State) (f : Thread → Thread) : (s.onThr f).ltime = s.ltime := rfl
@[simp] theorem State.onThr_rebaseDue (s : State) (f : Thread → Thread) : (s.onThr f).rebaseDue = s.rebaseDue := rfl
@[simp] theorem State.onThr_marks (s : State) (f : Thread → Thread) : (s.onThr f).marks = s.marks := rfl
@[simp] theorem State.onThr_tlb (s : State) (f : Thread → Thread) : (s.onThr f).tlb = s.tlb := rfl
@[simp] theorem State.onThr_phasers (s : State) (f : Thread → Thread) : (s.onThr f).phasers = s.phasers := rfl
@[simp] theorem State.onThr_phOwners (s : State) (f : Thread → Thread) : (s.onThr f).phOwners = s.phOwners := rfl
@[simp] theorem State.onThr_phWaits (s : State) (f : Thread → Thread) : (s.onThr f).phWaits = s.phWaits := rfl
@[simp] theorem State.onThr_linkUp (s : State) (f : Thread → Thread) : (s.onThr f).linkUp = s.linkUp := rfl
@[simp] theorem State.onThr_lostPorts (s : State) (f : Thread → Thread) : (s.onThr f).lostPorts = s.lostPorts := rfl
@[simp] theorem State.onThr_portSeen (s : State) (f : Thread → Thread) : (s.onThr f).portSeen = s.portSeen := rfl
@[simp] theorem State.onThr_portQuar (s : State) (f : Thread → Thread) : (s.onThr f).portQuar = s.portQuar := rfl
@[simp] theorem State.onThr_claimFrom (s : State) (f : Thread → Thread) : (s.onThr f).claimFrom = s.claimFrom := rfl
@[simp] theorem State.onThr_peerLinks (s : State) (f : Thread → Thread) : (s.onThr f).peerLinks = s.peerLinks := rfl
@[simp] theorem State.onThr_beacons (s : State) (f : Thread → Thread) : (s.onThr f).beacons = s.beacons := rfl
@[simp] theorem State.onThr_outNotices (s : State) (f : Thread → Thread) : (s.onThr f).outNotices = s.outNotices := rfl
@[simp] theorem State.onThr_exports (s : State) (f : Thread → Thread) : (s.onThr f).exports = s.exports := rfl
@[simp] theorem State.onThr_launches (s : State) (f : Thread → Thread) : (s.onThr f).launches = s.launches := rfl
@[simp] theorem State.onThr_packs (s : State) (f : Thread → Thread) : (s.onThr f).packs = s.packs := rfl
@[simp] theorem State.onThr_queues (s : State) (f : Thread → Thread) : (s.onThr f).queues = s.queues := rfl
@[simp] theorem State.onThr_served (s : State) (f : Thread → Thread) : (s.onThr f).served = s.served := rfl
@[simp] theorem State.onThr_childReqs (s : State) (f : Thread → Thread) : (s.onThr f).childReqs = s.childReqs := rfl
@[simp] theorem State.onThr_kills (s : State) (f : Thread → Thread) : (s.onThr f).kills = s.kills := rfl
@[simp] theorem State.onThr_killWaits (s : State) (f : Thread → Thread) : (s.onThr f).killWaits = s.killWaits := rfl
@[simp] theorem State.onThr_flips (s : State) (f : Thread → Thread) : (s.onThr f).flips = s.flips := rfl
@[simp] theorem State.onThr_regions (s : State) (f : Thread → Thread) : (s.onThr f).regions = s.regions := rfl
@[simp] theorem State.onThr_trails (s : State) (f : Thread → Thread) : (s.onThr f).trails = s.trails := rfl
@[simp] theorem State.onThr_ckpts (s : State) (f : Thread → Thread) : (s.onThr f).ckpts = s.ckpts := rfl
@[simp] theorem State.onThr_revived (s : State) (f : Thread → Thread) : (s.onThr f).revived = s.revived := rfl
@[simp] theorem State.onThr_copies (s : State) (f : Thread → Thread) : (s.onThr f).copies = s.copies := rfl
@[simp] theorem State.onThr_rings (s : State) (f : Thread → Thread) : (s.onThr f).rings = s.rings := rfl
@[simp] theorem State.onThr_ringWaits (s : State) (f : Thread → Thread) : (s.onThr f).ringWaits = s.ringWaits := rfl
@[simp] theorem State.onThr_semWaits (s : State) (f : Thread → Thread) : (s.onThr f).semWaits = s.semWaits := rfl
@[simp] theorem State.onThr_held (s : State) (f : Thread → Thread) : (s.onThr f).held = s.held := rfl
@[simp] theorem State.onThr_probes (s : State) (f : Thread → Thread) : (s.onThr f).probes = s.probes := rfl
@[simp] theorem State.onThr_requests (s : State) (f : Thread → Thread) : (s.onThr f).requests = s.requests := rfl
@[simp] theorem State.onThr_seqrs (s : State) (f : Thread → Thread) : (s.onThr f).seqrs = s.seqrs := rfl
@[simp] theorem State.onThr_seqCaches (s : State) (f : Thread → Thread) : (s.onThr f).seqCaches = s.seqCaches := rfl
@[simp] theorem State.onThr_colls (s : State) (f : Thread → Thread) : (s.onThr f).colls = s.colls := rfl
@[simp] theorem State.onThr_arming (s : State) (f : Thread → Thread) : (s.onThr f).arming = s.arming := rfl
@[simp] theorem State.onThr_disarming (s : State) (f : Thread → Thread) : (s.onThr f).disarming = s.disarming := rfl
@[simp] theorem State.onThr_quarantine (s : State) (f : Thread → Thread) : (s.onThr f).quarantine = s.quarantine := rfl
@[simp] theorem State.onThr_notices (s : State) (f : Thread → Thread) : (s.onThr f).notices = s.notices := rfl
@[simp] theorem State.onThr_applied (s : State) (f : Thread → Thread) : (s.onThr f).applied = s.applied := rfl
@[simp] theorem State.onThr_sent (s : State) (f : Thread → Thread) : (s.onThr f).sent = s.sent := rfl
@[simp] theorem State.onThr_collBars (s : State) (f : Thread → Thread) : (s.onThr f).collBars = s.collBars := rfl
@[simp] theorem State.onThr_ownXfers (s : State) (f : Thread → Thread) : (s.onThr f).ownXfers = s.ownXfers := rfl
@[simp] theorem State.onThr_ownNotices (s : State) (f : Thread → Thread) : (s.onThr f).ownNotices = s.ownNotices := rfl
@[simp] theorem State.onThr_ownRequests (s : State) (f : Thread → Thread) : (s.onThr f).ownRequests = s.ownRequests := rfl
@[simp] theorem State.onThr_early (s : State) (f : Thread → Thread) : (s.onThr f).early = s.early := rfl
@[simp] theorem State.onThr_accs (s : State) (f : Thread → Thread) : (s.onThr f).accs = s.accs := rfl
@[simp] theorem State.onThr_shadows (s : State) (f : Thread → Thread) : (s.onThr f).shadows = s.shadows := rfl
@[simp] theorem State.onThr_buses (s : State) (f : Thread → Thread) : (s.onThr f).buses = s.buses := rfl
@[simp] theorem State.onThr_lowLines (s : State) (f : Thread → Thread) : (s.onThr f).lowLines = s.lowLines := rfl
@[simp] theorem State.onThr_deadLines (s : State) (f : Thread → Thread) : (s.onThr f).deadLines = s.deadLines := rfl
@[simp] theorem State.onThr_arrivals (s : State) (f : Thread → Thread) : (s.onThr f).arrivals = s.arrivals := rfl
@[simp] theorem State.onThr_invs (s : State) (f : Thread → Thread) : (s.onThr f).invs = s.invs := rfl
@[simp] theorem State.onThr_flash (s : State) (f : Thread → Thread) : (s.onThr f).flash = s.flash := rfl
@[simp] theorem State.onThr_fwRun (s : State) (f : Thread → Thread) : (s.onThr f).fwRun = s.fwRun := rfl
@[simp] theorem State.onThr_fwAsked (s : State) (f : Thread → Thread) : (s.onThr f).fwAsked = s.fwAsked := rfl
@[simp] theorem State.onThr_meas1 (s : State) (f : Thread → Thread) : (s.onThr f).meas1 = s.meas1 := rfl
@[simp] theorem State.onThr_meas2 (s : State) (f : Thread → Thread) : (s.onThr f).meas2 = s.meas2 := rfl
@[simp] theorem State.onThr_mbox (s : State) (f : Thread → Thread) : (s.onThr f).mbox = s.mbox := rfl
@[simp] theorem State.onThr_spdm (s : State) (f : Thread → Thread) : (s.onThr f).spdm = s.spdm := rfl
@[simp] theorem State.onThr_spdmShut (s : State) (f : Thread → Thread) : (s.onThr f).spdmShut = s.spdmShut := rfl
@[simp] theorem State.onThr_answer (s : State) (f : Thread → Thread) : (s.onThr f).answer = s.answer := rfl
@[simp] theorem State.onThr_msix (s : State) (f : Thread → Thread) : (s.onThr f).msix = s.msix := rfl
@[simp] theorem State.onThr_msixWait (s : State) (f : Thread → Thread) : (s.onThr f).msixWait = s.msixWait := rfl
@[simp] theorem State.onThr_tt (s : State) (f : Thread → Thread) : (s.onThr f).tt = s.tt := rfl
@[simp] theorem State.onThr_ttDue (s : State) (f : Thread → Thread) : (s.onThr f).ttDue = s.ttDue := rfl
@[simp] theorem State.onThr_slew (s : State) (f : Thread → Thread) : (s.onThr f).slew = s.slew := rfl
@[simp] theorem State.onThr_warmed (s : State) (f : Thread → Thread) : (s.onThr f).warmed = s.warmed := rfl
@[simp] theorem State.onThr_unlocked (s : State) (f : Thread → Thread) : (s.onThr f).unlocked = s.unlocked := rfl
@[simp] theorem State.onThr_skewSince (s : State) (f : Thread → Thread) : (s.onThr f).skewSince = s.skewSince := rfl
@[simp] theorem State.onThr_uncal (s : State) (f : Thread → Thread) : (s.onThr f).uncal = s.uncal := rfl
@[simp] theorem State.onThr_moves (s : State) (f : Thread → Thread) : (s.onThr f).moves = s.moves := rfl
@[simp] theorem State.onThr_halting (s : State) (f : Thread → Thread) : (s.onThr f).halting = s.halting := rfl
@[simp] theorem State.onThr_replay (s : State) (f : Thread → Thread) : (s.onThr f).replay = s.replay := rfl
@[simp] theorem State.onThr_nextTicket (s : State) (f : Thread → Thread) : (s.onThr f).nextTicket = s.nextTicket := rfl
@[simp] theorem State.onThr_nextRequest (s : State) (f : Thread → Thread) : (s.onThr f).nextRequest = s.nextRequest := rfl
@[simp] theorem State.onThr_nextLaunch (s : State) (f : Thread → Thread) : (s.onThr f).nextLaunch = s.nextLaunch := rfl
@[simp] theorem State.onThr_nextOrder (s : State) (f : Thread → Thread) : (s.onThr f).nextOrder = s.nextOrder := rfl
@[simp] theorem State.onThr_attached (s : State) (f : Thread → Thread) : (s.onThr f).attached = s.attached := rfl
@[simp] theorem State.onThr_detached (s : State) (f : Thread → Thread) : (s.onThr f).detached = s.detached := rfl
@[simp] theorem State.onThr_halted (s : State) (f : Thread → Thread) : (s.onThr f).halted = s.halted := rfl
@[simp] theorem State.onThr_resumed (s : State) (f : Thread → Thread) : (s.onThr f).resumed = s.resumed := rfl
@[simp] theorem State.onThr_named (s : State) (f : Thread → Thread) : (s.onThr f).named = s.named := rfl
@[simp] theorem State.onThr_dbgWait (s : State) (f : Thread → Thread) : (s.onThr f).dbgWait = s.dbgWait := rfl
@[simp] theorem State.onThr_watches (s : State) (f : Thread → Thread) : (s.onThr f).watches = s.watches := rfl
@[simp] theorem State.onThr_cores (s : State) (f : Thread → Thread) : (s.onThr f).cores = s.cores := rfl
@[simp] theorem State.onThr_binds (s : State) (f : Thread → Thread) : (s.onThr f).binds = s.binds := rfl
@[simp] theorem State.onThr_epochs (s : State) (f : Thread → Thread) : (s.onThr f).epochs = s.epochs := rfl
@[simp] theorem State.onThr_flying (s : State) (f : Thread → Thread) : (s.onThr f).flying = s.flying := rfl
@[simp] theorem State.onThr_ctl (s : State) (f : Thread → Thread) : (s.onThr f).ctl = s.ctl := rfl
@[simp] theorem State.onThr_heaters (s : State) (f : Thread → Thread) : (s.onThr f).heaters = s.heaters := rfl
@[simp] theorem State.onThr_window (s : State) (f : Thread → Thread) : (s.onThr f).window = s.window := rfl
@[simp] theorem State.onThr_config (s : State) (f : Thread → Thread) : (s.onThr f).config = s.config := rfl

/-! ### A core replaced -/

@[simp] theorem State.setCore_agenda (s : State) (c : Nat) (k : Core) : (s.setCore c k).agenda = s.agenda := rfl
@[simp] theorem State.setCore_cur (s : State) (c : Nat) (k : Core) : (s.setCore c k).cur = s.cur := rfl
@[simp] theorem State.setCore_curq (s : State) (c : Nat) (k : Core) : (s.setCore c k).curq = s.curq := rfl
@[simp] theorem State.setCore_ev (s : State) (c : Nat) (k : Core) : (s.setCore c k).ev = s.ev := rfl
@[simp] theorem State.setCore_coreTurn (s : State) (c : Nat) (k : Core) : (s.setCore c k).coreTurn = s.coreTurn := rfl
@[simp] theorem State.setCore_prior (s : State) (c : Nat) (k : Core) : (s.setCore c k).prior = s.prior := rfl
@[simp] theorem State.setCore_ir0 (s : State) (c : Nat) (k : Core) : (s.setCore c k).ir0 = s.ir0 := rfl
@[simp] theorem State.setCore_ir1 (s : State) (c : Nat) (k : Core) : (s.setCore c k).ir1 = s.ir1 := rfl
@[simp] theorem State.setCore_stuck (s : State) (c : Nat) (k : Core) : (s.setCore c k).stuck = s.stuck := rfl
@[simp] theorem State.setCore_freeCtr (s : State) (c : Nat) (k : Core) : (s.setCore c k).freeCtr = s.freeCtr := rfl
@[simp] theorem State.setCore_now (s : State) (c : Nat) (k : Core) : (s.setCore c k).now = s.now := rfl
@[simp] theorem State.setCore_mem (s : State) (c : Nat) (k : Core) : (s.setCore c k).mem = s.mem := rfl
@[simp] theorem State.setCore_pool (s : State) (c : Nat) (k : Core) : (s.setCore c k).pool = s.pool := rfl
@[simp] theorem State.setCore_hostMem (s : State) (c : Nat) (k : Core) : (s.setCore c k).hostMem = s.hostMem := rfl
@[simp] theorem State.setCore_remoteMem (s : State) (c : Nat) (k : Core) : (s.setCore c k).remoteMem = s.remoteMem := rfl
@[simp] theorem State.setCore_fabCopies (s : State) (c : Nat) (k : Core) : (s.setCore c k).fabCopies = s.fabCopies := rfl
@[simp] theorem State.setCore_lines (s : State) (c : Nat) (k : Core) : (s.setCore c k).lines = s.lines := rfl
@[simp] theorem State.setCore_ltime (s : State) (c : Nat) (k : Core) : (s.setCore c k).ltime = s.ltime := rfl
@[simp] theorem State.setCore_rebaseDue (s : State) (c : Nat) (k : Core) : (s.setCore c k).rebaseDue = s.rebaseDue := rfl
@[simp] theorem State.setCore_marks (s : State) (c : Nat) (k : Core) : (s.setCore c k).marks = s.marks := rfl
@[simp] theorem State.setCore_tlb (s : State) (c : Nat) (k : Core) : (s.setCore c k).tlb = s.tlb := rfl
@[simp] theorem State.setCore_phasers (s : State) (c : Nat) (k : Core) : (s.setCore c k).phasers = s.phasers := rfl
@[simp] theorem State.setCore_phOwners (s : State) (c : Nat) (k : Core) : (s.setCore c k).phOwners = s.phOwners := rfl
@[simp] theorem State.setCore_phWaits (s : State) (c : Nat) (k : Core) : (s.setCore c k).phWaits = s.phWaits := rfl
@[simp] theorem State.setCore_linkUp (s : State) (c : Nat) (k : Core) : (s.setCore c k).linkUp = s.linkUp := rfl
@[simp] theorem State.setCore_lostPorts (s : State) (c : Nat) (k : Core) : (s.setCore c k).lostPorts = s.lostPorts := rfl
@[simp] theorem State.setCore_portSeen (s : State) (c : Nat) (k : Core) : (s.setCore c k).portSeen = s.portSeen := rfl
@[simp] theorem State.setCore_portQuar (s : State) (c : Nat) (k : Core) : (s.setCore c k).portQuar = s.portQuar := rfl
@[simp] theorem State.setCore_claimFrom (s : State) (c : Nat) (k : Core) : (s.setCore c k).claimFrom = s.claimFrom := rfl
@[simp] theorem State.setCore_peerLinks (s : State) (c : Nat) (k : Core) : (s.setCore c k).peerLinks = s.peerLinks := rfl
@[simp] theorem State.setCore_beacons (s : State) (c : Nat) (k : Core) : (s.setCore c k).beacons = s.beacons := rfl
@[simp] theorem State.setCore_outNotices (s : State) (c : Nat) (k : Core) : (s.setCore c k).outNotices = s.outNotices := rfl
@[simp] theorem State.setCore_exports (s : State) (c : Nat) (k : Core) : (s.setCore c k).exports = s.exports := rfl
@[simp] theorem State.setCore_launches (s : State) (c : Nat) (k : Core) : (s.setCore c k).launches = s.launches := rfl
@[simp] theorem State.setCore_packs (s : State) (c : Nat) (k : Core) : (s.setCore c k).packs = s.packs := rfl
@[simp] theorem State.setCore_queues (s : State) (c : Nat) (k : Core) : (s.setCore c k).queues = s.queues := rfl
@[simp] theorem State.setCore_served (s : State) (c : Nat) (k : Core) : (s.setCore c k).served = s.served := rfl
@[simp] theorem State.setCore_childReqs (s : State) (c : Nat) (k : Core) : (s.setCore c k).childReqs = s.childReqs := rfl
@[simp] theorem State.setCore_kills (s : State) (c : Nat) (k : Core) : (s.setCore c k).kills = s.kills := rfl
@[simp] theorem State.setCore_killWaits (s : State) (c : Nat) (k : Core) : (s.setCore c k).killWaits = s.killWaits := rfl
@[simp] theorem State.setCore_flips (s : State) (c : Nat) (k : Core) : (s.setCore c k).flips = s.flips := rfl
@[simp] theorem State.setCore_regions (s : State) (c : Nat) (k : Core) : (s.setCore c k).regions = s.regions := rfl
@[simp] theorem State.setCore_trails (s : State) (c : Nat) (k : Core) : (s.setCore c k).trails = s.trails := rfl
@[simp] theorem State.setCore_ckpts (s : State) (c : Nat) (k : Core) : (s.setCore c k).ckpts = s.ckpts := rfl
@[simp] theorem State.setCore_revived (s : State) (c : Nat) (k : Core) : (s.setCore c k).revived = s.revived := rfl
@[simp] theorem State.setCore_copies (s : State) (c : Nat) (k : Core) : (s.setCore c k).copies = s.copies := rfl
@[simp] theorem State.setCore_rings (s : State) (c : Nat) (k : Core) : (s.setCore c k).rings = s.rings := rfl
@[simp] theorem State.setCore_ringWaits (s : State) (c : Nat) (k : Core) : (s.setCore c k).ringWaits = s.ringWaits := rfl
@[simp] theorem State.setCore_semWaits (s : State) (c : Nat) (k : Core) : (s.setCore c k).semWaits = s.semWaits := rfl
@[simp] theorem State.setCore_held (s : State) (c : Nat) (k : Core) : (s.setCore c k).held = s.held := rfl
@[simp] theorem State.setCore_probes (s : State) (c : Nat) (k : Core) : (s.setCore c k).probes = s.probes := rfl
@[simp] theorem State.setCore_requests (s : State) (c : Nat) (k : Core) : (s.setCore c k).requests = s.requests := rfl
@[simp] theorem State.setCore_seqrs (s : State) (c : Nat) (k : Core) : (s.setCore c k).seqrs = s.seqrs := rfl
@[simp] theorem State.setCore_seqCaches (s : State) (c : Nat) (k : Core) : (s.setCore c k).seqCaches = s.seqCaches := rfl
@[simp] theorem State.setCore_colls (s : State) (c : Nat) (k : Core) : (s.setCore c k).colls = s.colls := rfl
@[simp] theorem State.setCore_arming (s : State) (c : Nat) (k : Core) : (s.setCore c k).arming = s.arming := rfl
@[simp] theorem State.setCore_disarming (s : State) (c : Nat) (k : Core) : (s.setCore c k).disarming = s.disarming := rfl
@[simp] theorem State.setCore_quarantine (s : State) (c : Nat) (k : Core) : (s.setCore c k).quarantine = s.quarantine := rfl
@[simp] theorem State.setCore_notices (s : State) (c : Nat) (k : Core) : (s.setCore c k).notices = s.notices := rfl
@[simp] theorem State.setCore_applied (s : State) (c : Nat) (k : Core) : (s.setCore c k).applied = s.applied := rfl
@[simp] theorem State.setCore_sent (s : State) (c : Nat) (k : Core) : (s.setCore c k).sent = s.sent := rfl
@[simp] theorem State.setCore_collBars (s : State) (c : Nat) (k : Core) : (s.setCore c k).collBars = s.collBars := rfl
@[simp] theorem State.setCore_ownXfers (s : State) (c : Nat) (k : Core) : (s.setCore c k).ownXfers = s.ownXfers := rfl
@[simp] theorem State.setCore_ownNotices (s : State) (c : Nat) (k : Core) : (s.setCore c k).ownNotices = s.ownNotices := rfl
@[simp] theorem State.setCore_ownRequests (s : State) (c : Nat) (k : Core) : (s.setCore c k).ownRequests = s.ownRequests := rfl
@[simp] theorem State.setCore_early (s : State) (c : Nat) (k : Core) : (s.setCore c k).early = s.early := rfl
@[simp] theorem State.setCore_accs (s : State) (c : Nat) (k : Core) : (s.setCore c k).accs = s.accs := rfl
@[simp] theorem State.setCore_shadows (s : State) (c : Nat) (k : Core) : (s.setCore c k).shadows = s.shadows := rfl
@[simp] theorem State.setCore_buses (s : State) (c : Nat) (k : Core) : (s.setCore c k).buses = s.buses := rfl
@[simp] theorem State.setCore_lowLines (s : State) (c : Nat) (k : Core) : (s.setCore c k).lowLines = s.lowLines := rfl
@[simp] theorem State.setCore_deadLines (s : State) (c : Nat) (k : Core) : (s.setCore c k).deadLines = s.deadLines := rfl
@[simp] theorem State.setCore_arrivals (s : State) (c : Nat) (k : Core) : (s.setCore c k).arrivals = s.arrivals := rfl
@[simp] theorem State.setCore_invs (s : State) (c : Nat) (k : Core) : (s.setCore c k).invs = s.invs := rfl
@[simp] theorem State.setCore_flash (s : State) (c : Nat) (k : Core) : (s.setCore c k).flash = s.flash := rfl
@[simp] theorem State.setCore_fwRun (s : State) (c : Nat) (k : Core) : (s.setCore c k).fwRun = s.fwRun := rfl
@[simp] theorem State.setCore_fwAsked (s : State) (c : Nat) (k : Core) : (s.setCore c k).fwAsked = s.fwAsked := rfl
@[simp] theorem State.setCore_meas1 (s : State) (c : Nat) (k : Core) : (s.setCore c k).meas1 = s.meas1 := rfl
@[simp] theorem State.setCore_meas2 (s : State) (c : Nat) (k : Core) : (s.setCore c k).meas2 = s.meas2 := rfl
@[simp] theorem State.setCore_mbox (s : State) (c : Nat) (k : Core) : (s.setCore c k).mbox = s.mbox := rfl
@[simp] theorem State.setCore_spdm (s : State) (c : Nat) (k : Core) : (s.setCore c k).spdm = s.spdm := rfl
@[simp] theorem State.setCore_spdmShut (s : State) (c : Nat) (k : Core) : (s.setCore c k).spdmShut = s.spdmShut := rfl
@[simp] theorem State.setCore_answer (s : State) (c : Nat) (k : Core) : (s.setCore c k).answer = s.answer := rfl
@[simp] theorem State.setCore_msix (s : State) (c : Nat) (k : Core) : (s.setCore c k).msix = s.msix := rfl
@[simp] theorem State.setCore_msixWait (s : State) (c : Nat) (k : Core) : (s.setCore c k).msixWait = s.msixWait := rfl
@[simp] theorem State.setCore_tt (s : State) (c : Nat) (k : Core) : (s.setCore c k).tt = s.tt := rfl
@[simp] theorem State.setCore_ttDue (s : State) (c : Nat) (k : Core) : (s.setCore c k).ttDue = s.ttDue := rfl
@[simp] theorem State.setCore_slew (s : State) (c : Nat) (k : Core) : (s.setCore c k).slew = s.slew := rfl
@[simp] theorem State.setCore_warmed (s : State) (c : Nat) (k : Core) : (s.setCore c k).warmed = s.warmed := rfl
@[simp] theorem State.setCore_unlocked (s : State) (c : Nat) (k : Core) : (s.setCore c k).unlocked = s.unlocked := rfl
@[simp] theorem State.setCore_skewSince (s : State) (c : Nat) (k : Core) : (s.setCore c k).skewSince = s.skewSince := rfl
@[simp] theorem State.setCore_uncal (s : State) (c : Nat) (k : Core) : (s.setCore c k).uncal = s.uncal := rfl
@[simp] theorem State.setCore_moves (s : State) (c : Nat) (k : Core) : (s.setCore c k).moves = s.moves := rfl
@[simp] theorem State.setCore_halting (s : State) (c : Nat) (k : Core) : (s.setCore c k).halting = s.halting := rfl
@[simp] theorem State.setCore_replay (s : State) (c : Nat) (k : Core) : (s.setCore c k).replay = s.replay := rfl
@[simp] theorem State.setCore_nextTicket (s : State) (c : Nat) (k : Core) : (s.setCore c k).nextTicket = s.nextTicket := rfl
@[simp] theorem State.setCore_nextRequest (s : State) (c : Nat) (k : Core) : (s.setCore c k).nextRequest = s.nextRequest := rfl
@[simp] theorem State.setCore_nextLaunch (s : State) (c : Nat) (k : Core) : (s.setCore c k).nextLaunch = s.nextLaunch := rfl
@[simp] theorem State.setCore_nextOrder (s : State) (c : Nat) (k : Core) : (s.setCore c k).nextOrder = s.nextOrder := rfl
@[simp] theorem State.setCore_attached (s : State) (c : Nat) (k : Core) : (s.setCore c k).attached = s.attached := rfl
@[simp] theorem State.setCore_detached (s : State) (c : Nat) (k : Core) : (s.setCore c k).detached = s.detached := rfl
@[simp] theorem State.setCore_halted (s : State) (c : Nat) (k : Core) : (s.setCore c k).halted = s.halted := rfl
@[simp] theorem State.setCore_resumed (s : State) (c : Nat) (k : Core) : (s.setCore c k).resumed = s.resumed := rfl
@[simp] theorem State.setCore_named (s : State) (c : Nat) (k : Core) : (s.setCore c k).named = s.named := rfl
@[simp] theorem State.setCore_dbgWait (s : State) (c : Nat) (k : Core) : (s.setCore c k).dbgWait = s.dbgWait := rfl
@[simp] theorem State.setCore_watches (s : State) (c : Nat) (k : Core) : (s.setCore c k).watches = s.watches := rfl
@[simp] theorem State.setCore_threads (s : State) (c : Nat) (k : Core) : (s.setCore c k).threads = s.threads := rfl
@[simp] theorem State.setCore_binds (s : State) (c : Nat) (k : Core) : (s.setCore c k).binds = s.binds := rfl
@[simp] theorem State.setCore_epochs (s : State) (c : Nat) (k : Core) : (s.setCore c k).epochs = s.epochs := rfl
@[simp] theorem State.setCore_flying (s : State) (c : Nat) (k : Core) : (s.setCore c k).flying = s.flying := rfl
@[simp] theorem State.setCore_ctl (s : State) (c : Nat) (k : Core) : (s.setCore c k).ctl = s.ctl := rfl
@[simp] theorem State.setCore_heaters (s : State) (c : Nat) (k : Core) : (s.setCore c k).heaters = s.heaters := rfl
@[simp] theorem State.setCore_window (s : State) (c : Nat) (k : Core) : (s.setCore c k).window = s.window := rfl
@[simp] theorem State.setCore_config (s : State) (c : Nat) (k : Core) : (s.setCore c k).config = s.config := rfl

/-! ### A completion sets out -/

@[simp] theorem State.fly_agenda (s : State) (tag : ITag) (ctx : Ctx) (r : Result) : (s.fly tag ctx r).agenda = s.agenda := rfl
@[simp] theorem State.fly_cur (s : State) (tag : ITag) (ctx : Ctx) (r : Result) : (s.fly tag ctx r).cur = s.cur := rfl
@[simp] theorem State.fly_curq (s : State) (tag : ITag) (ctx : Ctx) (r : Result) : (s.fly tag ctx r).curq = s.curq := rfl
@[simp] theorem State.fly_ev (s : State) (tag : ITag) (ctx : Ctx) (r : Result) : (s.fly tag ctx r).ev = s.ev := rfl
@[simp] theorem State.fly_coreTurn (s : State) (tag : ITag) (ctx : Ctx) (r : Result) : (s.fly tag ctx r).coreTurn = s.coreTurn := rfl
@[simp] theorem State.fly_prior (s : State) (tag : ITag) (ctx : Ctx) (r : Result) : (s.fly tag ctx r).prior = s.prior := rfl
@[simp] theorem State.fly_ir0 (s : State) (tag : ITag) (ctx : Ctx) (r : Result) : (s.fly tag ctx r).ir0 = s.ir0 := rfl
@[simp] theorem State.fly_ir1 (s : State) (tag : ITag) (ctx : Ctx) (r : Result) : (s.fly tag ctx r).ir1 = s.ir1 := rfl
@[simp] theorem State.fly_stuck (s : State) (tag : ITag) (ctx : Ctx) (r : Result) : (s.fly tag ctx r).stuck = s.stuck := rfl
@[simp] theorem State.fly_freeCtr (s : State) (tag : ITag) (ctx : Ctx) (r : Result) : (s.fly tag ctx r).freeCtr = s.freeCtr := rfl
@[simp] theorem State.fly_now (s : State) (tag : ITag) (ctx : Ctx) (r : Result) : (s.fly tag ctx r).now = s.now := rfl
@[simp] theorem State.fly_mem (s : State) (tag : ITag) (ctx : Ctx) (r : Result) : (s.fly tag ctx r).mem = s.mem := rfl
@[simp] theorem State.fly_pool (s : State) (tag : ITag) (ctx : Ctx) (r : Result) : (s.fly tag ctx r).pool = s.pool := rfl
@[simp] theorem State.fly_hostMem (s : State) (tag : ITag) (ctx : Ctx) (r : Result) : (s.fly tag ctx r).hostMem = s.hostMem := rfl
@[simp] theorem State.fly_remoteMem (s : State) (tag : ITag) (ctx : Ctx) (r : Result) : (s.fly tag ctx r).remoteMem = s.remoteMem := rfl
@[simp] theorem State.fly_fabCopies (s : State) (tag : ITag) (ctx : Ctx) (r : Result) : (s.fly tag ctx r).fabCopies = s.fabCopies := rfl
@[simp] theorem State.fly_lines (s : State) (tag : ITag) (ctx : Ctx) (r : Result) : (s.fly tag ctx r).lines = s.lines := rfl
@[simp] theorem State.fly_ltime (s : State) (tag : ITag) (ctx : Ctx) (r : Result) : (s.fly tag ctx r).ltime = s.ltime := rfl
@[simp] theorem State.fly_rebaseDue (s : State) (tag : ITag) (ctx : Ctx) (r : Result) : (s.fly tag ctx r).rebaseDue = s.rebaseDue := rfl
@[simp] theorem State.fly_marks (s : State) (tag : ITag) (ctx : Ctx) (r : Result) : (s.fly tag ctx r).marks = s.marks := rfl
@[simp] theorem State.fly_tlb (s : State) (tag : ITag) (ctx : Ctx) (r : Result) : (s.fly tag ctx r).tlb = s.tlb := rfl
@[simp] theorem State.fly_phasers (s : State) (tag : ITag) (ctx : Ctx) (r : Result) : (s.fly tag ctx r).phasers = s.phasers := rfl
@[simp] theorem State.fly_phOwners (s : State) (tag : ITag) (ctx : Ctx) (r : Result) : (s.fly tag ctx r).phOwners = s.phOwners := rfl
@[simp] theorem State.fly_phWaits (s : State) (tag : ITag) (ctx : Ctx) (r : Result) : (s.fly tag ctx r).phWaits = s.phWaits := rfl
@[simp] theorem State.fly_linkUp (s : State) (tag : ITag) (ctx : Ctx) (r : Result) : (s.fly tag ctx r).linkUp = s.linkUp := rfl
@[simp] theorem State.fly_lostPorts (s : State) (tag : ITag) (ctx : Ctx) (r : Result) : (s.fly tag ctx r).lostPorts = s.lostPorts := rfl
@[simp] theorem State.fly_portSeen (s : State) (tag : ITag) (ctx : Ctx) (r : Result) : (s.fly tag ctx r).portSeen = s.portSeen := rfl
@[simp] theorem State.fly_portQuar (s : State) (tag : ITag) (ctx : Ctx) (r : Result) : (s.fly tag ctx r).portQuar = s.portQuar := rfl
@[simp] theorem State.fly_claimFrom (s : State) (tag : ITag) (ctx : Ctx) (r : Result) : (s.fly tag ctx r).claimFrom = s.claimFrom := rfl
@[simp] theorem State.fly_peerLinks (s : State) (tag : ITag) (ctx : Ctx) (r : Result) : (s.fly tag ctx r).peerLinks = s.peerLinks := rfl
@[simp] theorem State.fly_beacons (s : State) (tag : ITag) (ctx : Ctx) (r : Result) : (s.fly tag ctx r).beacons = s.beacons := rfl
@[simp] theorem State.fly_outNotices (s : State) (tag : ITag) (ctx : Ctx) (r : Result) : (s.fly tag ctx r).outNotices = s.outNotices := rfl
@[simp] theorem State.fly_exports (s : State) (tag : ITag) (ctx : Ctx) (r : Result) : (s.fly tag ctx r).exports = s.exports := rfl
@[simp] theorem State.fly_launches (s : State) (tag : ITag) (ctx : Ctx) (r : Result) : (s.fly tag ctx r).launches = s.launches := rfl
@[simp] theorem State.fly_packs (s : State) (tag : ITag) (ctx : Ctx) (r : Result) : (s.fly tag ctx r).packs = s.packs := rfl
@[simp] theorem State.fly_queues (s : State) (tag : ITag) (ctx : Ctx) (r : Result) : (s.fly tag ctx r).queues = s.queues := rfl
@[simp] theorem State.fly_served (s : State) (tag : ITag) (ctx : Ctx) (r : Result) : (s.fly tag ctx r).served = s.served := rfl
@[simp] theorem State.fly_childReqs (s : State) (tag : ITag) (ctx : Ctx) (r : Result) : (s.fly tag ctx r).childReqs = s.childReqs := rfl
@[simp] theorem State.fly_kills (s : State) (tag : ITag) (ctx : Ctx) (r : Result) : (s.fly tag ctx r).kills = s.kills := rfl
@[simp] theorem State.fly_killWaits (s : State) (tag : ITag) (ctx : Ctx) (r : Result) : (s.fly tag ctx r).killWaits = s.killWaits := rfl
@[simp] theorem State.fly_flips (s : State) (tag : ITag) (ctx : Ctx) (r : Result) : (s.fly tag ctx r).flips = s.flips := rfl
@[simp] theorem State.fly_regions (s : State) (tag : ITag) (ctx : Ctx) (r : Result) : (s.fly tag ctx r).regions = s.regions := rfl
@[simp] theorem State.fly_trails (s : State) (tag : ITag) (ctx : Ctx) (r : Result) : (s.fly tag ctx r).trails = s.trails := rfl
@[simp] theorem State.fly_ckpts (s : State) (tag : ITag) (ctx : Ctx) (r : Result) : (s.fly tag ctx r).ckpts = s.ckpts := rfl
@[simp] theorem State.fly_revived (s : State) (tag : ITag) (ctx : Ctx) (r : Result) : (s.fly tag ctx r).revived = s.revived := rfl
@[simp] theorem State.fly_copies (s : State) (tag : ITag) (ctx : Ctx) (r : Result) : (s.fly tag ctx r).copies = s.copies := rfl
@[simp] theorem State.fly_rings (s : State) (tag : ITag) (ctx : Ctx) (r : Result) : (s.fly tag ctx r).rings = s.rings := rfl
@[simp] theorem State.fly_ringWaits (s : State) (tag : ITag) (ctx : Ctx) (r : Result) : (s.fly tag ctx r).ringWaits = s.ringWaits := rfl
@[simp] theorem State.fly_semWaits (s : State) (tag : ITag) (ctx : Ctx) (r : Result) : (s.fly tag ctx r).semWaits = s.semWaits := rfl
@[simp] theorem State.fly_held (s : State) (tag : ITag) (ctx : Ctx) (r : Result) : (s.fly tag ctx r).held = s.held := rfl
@[simp] theorem State.fly_probes (s : State) (tag : ITag) (ctx : Ctx) (r : Result) : (s.fly tag ctx r).probes = s.probes := rfl
@[simp] theorem State.fly_requests (s : State) (tag : ITag) (ctx : Ctx) (r : Result) : (s.fly tag ctx r).requests = s.requests := rfl
@[simp] theorem State.fly_seqrs (s : State) (tag : ITag) (ctx : Ctx) (r : Result) : (s.fly tag ctx r).seqrs = s.seqrs := rfl
@[simp] theorem State.fly_seqCaches (s : State) (tag : ITag) (ctx : Ctx) (r : Result) : (s.fly tag ctx r).seqCaches = s.seqCaches := rfl
@[simp] theorem State.fly_colls (s : State) (tag : ITag) (ctx : Ctx) (r : Result) : (s.fly tag ctx r).colls = s.colls := rfl
@[simp] theorem State.fly_arming (s : State) (tag : ITag) (ctx : Ctx) (r : Result) : (s.fly tag ctx r).arming = s.arming := rfl
@[simp] theorem State.fly_disarming (s : State) (tag : ITag) (ctx : Ctx) (r : Result) : (s.fly tag ctx r).disarming = s.disarming := rfl
@[simp] theorem State.fly_quarantine (s : State) (tag : ITag) (ctx : Ctx) (r : Result) : (s.fly tag ctx r).quarantine = s.quarantine := rfl
@[simp] theorem State.fly_notices (s : State) (tag : ITag) (ctx : Ctx) (r : Result) : (s.fly tag ctx r).notices = s.notices := rfl
@[simp] theorem State.fly_applied (s : State) (tag : ITag) (ctx : Ctx) (r : Result) : (s.fly tag ctx r).applied = s.applied := rfl
@[simp] theorem State.fly_sent (s : State) (tag : ITag) (ctx : Ctx) (r : Result) : (s.fly tag ctx r).sent = s.sent := rfl
@[simp] theorem State.fly_collBars (s : State) (tag : ITag) (ctx : Ctx) (r : Result) : (s.fly tag ctx r).collBars = s.collBars := rfl
@[simp] theorem State.fly_ownXfers (s : State) (tag : ITag) (ctx : Ctx) (r : Result) : (s.fly tag ctx r).ownXfers = s.ownXfers := rfl
@[simp] theorem State.fly_ownNotices (s : State) (tag : ITag) (ctx : Ctx) (r : Result) : (s.fly tag ctx r).ownNotices = s.ownNotices := rfl
@[simp] theorem State.fly_ownRequests (s : State) (tag : ITag) (ctx : Ctx) (r : Result) : (s.fly tag ctx r).ownRequests = s.ownRequests := rfl
@[simp] theorem State.fly_early (s : State) (tag : ITag) (ctx : Ctx) (r : Result) : (s.fly tag ctx r).early = s.early := rfl
@[simp] theorem State.fly_accs (s : State) (tag : ITag) (ctx : Ctx) (r : Result) : (s.fly tag ctx r).accs = s.accs := rfl
@[simp] theorem State.fly_shadows (s : State) (tag : ITag) (ctx : Ctx) (r : Result) : (s.fly tag ctx r).shadows = s.shadows := rfl
@[simp] theorem State.fly_buses (s : State) (tag : ITag) (ctx : Ctx) (r : Result) : (s.fly tag ctx r).buses = s.buses := rfl
@[simp] theorem State.fly_lowLines (s : State) (tag : ITag) (ctx : Ctx) (r : Result) : (s.fly tag ctx r).lowLines = s.lowLines := rfl
@[simp] theorem State.fly_deadLines (s : State) (tag : ITag) (ctx : Ctx) (r : Result) : (s.fly tag ctx r).deadLines = s.deadLines := rfl
@[simp] theorem State.fly_arrivals (s : State) (tag : ITag) (ctx : Ctx) (r : Result) : (s.fly tag ctx r).arrivals = s.arrivals := rfl
@[simp] theorem State.fly_invs (s : State) (tag : ITag) (ctx : Ctx) (r : Result) : (s.fly tag ctx r).invs = s.invs := rfl
@[simp] theorem State.fly_flash (s : State) (tag : ITag) (ctx : Ctx) (r : Result) : (s.fly tag ctx r).flash = s.flash := rfl
@[simp] theorem State.fly_fwRun (s : State) (tag : ITag) (ctx : Ctx) (r : Result) : (s.fly tag ctx r).fwRun = s.fwRun := rfl
@[simp] theorem State.fly_fwAsked (s : State) (tag : ITag) (ctx : Ctx) (r : Result) : (s.fly tag ctx r).fwAsked = s.fwAsked := rfl
@[simp] theorem State.fly_meas1 (s : State) (tag : ITag) (ctx : Ctx) (r : Result) : (s.fly tag ctx r).meas1 = s.meas1 := rfl
@[simp] theorem State.fly_meas2 (s : State) (tag : ITag) (ctx : Ctx) (r : Result) : (s.fly tag ctx r).meas2 = s.meas2 := rfl
@[simp] theorem State.fly_mbox (s : State) (tag : ITag) (ctx : Ctx) (r : Result) : (s.fly tag ctx r).mbox = s.mbox := rfl
@[simp] theorem State.fly_spdm (s : State) (tag : ITag) (ctx : Ctx) (r : Result) : (s.fly tag ctx r).spdm = s.spdm := rfl
@[simp] theorem State.fly_spdmShut (s : State) (tag : ITag) (ctx : Ctx) (r : Result) : (s.fly tag ctx r).spdmShut = s.spdmShut := rfl
@[simp] theorem State.fly_answer (s : State) (tag : ITag) (ctx : Ctx) (r : Result) : (s.fly tag ctx r).answer = s.answer := rfl
@[simp] theorem State.fly_msix (s : State) (tag : ITag) (ctx : Ctx) (r : Result) : (s.fly tag ctx r).msix = s.msix := rfl
@[simp] theorem State.fly_msixWait (s : State) (tag : ITag) (ctx : Ctx) (r : Result) : (s.fly tag ctx r).msixWait = s.msixWait := rfl
@[simp] theorem State.fly_tt (s : State) (tag : ITag) (ctx : Ctx) (r : Result) : (s.fly tag ctx r).tt = s.tt := rfl
@[simp] theorem State.fly_ttDue (s : State) (tag : ITag) (ctx : Ctx) (r : Result) : (s.fly tag ctx r).ttDue = s.ttDue := rfl
@[simp] theorem State.fly_slew (s : State) (tag : ITag) (ctx : Ctx) (r : Result) : (s.fly tag ctx r).slew = s.slew := rfl
@[simp] theorem State.fly_warmed (s : State) (tag : ITag) (ctx : Ctx) (r : Result) : (s.fly tag ctx r).warmed = s.warmed := rfl
@[simp] theorem State.fly_unlocked (s : State) (tag : ITag) (ctx : Ctx) (r : Result) : (s.fly tag ctx r).unlocked = s.unlocked := rfl
@[simp] theorem State.fly_skewSince (s : State) (tag : ITag) (ctx : Ctx) (r : Result) : (s.fly tag ctx r).skewSince = s.skewSince := rfl
@[simp] theorem State.fly_uncal (s : State) (tag : ITag) (ctx : Ctx) (r : Result) : (s.fly tag ctx r).uncal = s.uncal := rfl
@[simp] theorem State.fly_moves (s : State) (tag : ITag) (ctx : Ctx) (r : Result) : (s.fly tag ctx r).moves = s.moves := rfl
@[simp] theorem State.fly_halting (s : State) (tag : ITag) (ctx : Ctx) (r : Result) : (s.fly tag ctx r).halting = s.halting := rfl
@[simp] theorem State.fly_replay (s : State) (tag : ITag) (ctx : Ctx) (r : Result) : (s.fly tag ctx r).replay = s.replay := rfl
@[simp] theorem State.fly_nextTicket (s : State) (tag : ITag) (ctx : Ctx) (r : Result) : (s.fly tag ctx r).nextTicket = s.nextTicket := rfl
@[simp] theorem State.fly_nextRequest (s : State) (tag : ITag) (ctx : Ctx) (r : Result) : (s.fly tag ctx r).nextRequest = s.nextRequest := rfl
@[simp] theorem State.fly_nextLaunch (s : State) (tag : ITag) (ctx : Ctx) (r : Result) : (s.fly tag ctx r).nextLaunch = s.nextLaunch := rfl
@[simp] theorem State.fly_nextOrder (s : State) (tag : ITag) (ctx : Ctx) (r : Result) : (s.fly tag ctx r).nextOrder = s.nextOrder := rfl
@[simp] theorem State.fly_attached (s : State) (tag : ITag) (ctx : Ctx) (r : Result) : (s.fly tag ctx r).attached = s.attached := rfl
@[simp] theorem State.fly_detached (s : State) (tag : ITag) (ctx : Ctx) (r : Result) : (s.fly tag ctx r).detached = s.detached := rfl
@[simp] theorem State.fly_halted (s : State) (tag : ITag) (ctx : Ctx) (r : Result) : (s.fly tag ctx r).halted = s.halted := rfl
@[simp] theorem State.fly_resumed (s : State) (tag : ITag) (ctx : Ctx) (r : Result) : (s.fly tag ctx r).resumed = s.resumed := rfl
@[simp] theorem State.fly_named (s : State) (tag : ITag) (ctx : Ctx) (r : Result) : (s.fly tag ctx r).named = s.named := rfl
@[simp] theorem State.fly_dbgWait (s : State) (tag : ITag) (ctx : Ctx) (r : Result) : (s.fly tag ctx r).dbgWait = s.dbgWait := rfl
@[simp] theorem State.fly_watches (s : State) (tag : ITag) (ctx : Ctx) (r : Result) : (s.fly tag ctx r).watches = s.watches := rfl
@[simp] theorem State.fly_threads (s : State) (tag : ITag) (ctx : Ctx) (r : Result) : (s.fly tag ctx r).threads = s.threads := rfl
@[simp] theorem State.fly_cores (s : State) (tag : ITag) (ctx : Ctx) (r : Result) : (s.fly tag ctx r).cores = s.cores := rfl
@[simp] theorem State.fly_binds (s : State) (tag : ITag) (ctx : Ctx) (r : Result) : (s.fly tag ctx r).binds = s.binds := rfl
@[simp] theorem State.fly_epochs (s : State) (tag : ITag) (ctx : Ctx) (r : Result) : (s.fly tag ctx r).epochs = s.epochs := rfl
@[simp] theorem State.fly_ctl (s : State) (tag : ITag) (ctx : Ctx) (r : Result) : (s.fly tag ctx r).ctl = s.ctl := rfl
@[simp] theorem State.fly_heaters (s : State) (tag : ITag) (ctx : Ctx) (r : Result) : (s.fly tag ctx r).heaters = s.heaters := rfl
@[simp] theorem State.fly_window (s : State) (tag : ITag) (ctx : Ctx) (r : Result) : (s.fly tag ctx r).window = s.window := rfl
@[simp] theorem State.fly_config (s : State) (tag : ITag) (ctx : Ctx) (r : Result) : (s.fly tag ctx r).config = s.config := rfl

/-! ### A binding removed -/

@[simp] theorem State.unbind_agenda (s : State) (tag : ITag) : (s.unbind tag).agenda = s.agenda := rfl
@[simp] theorem State.unbind_cur (s : State) (tag : ITag) : (s.unbind tag).cur = s.cur := rfl
@[simp] theorem State.unbind_curq (s : State) (tag : ITag) : (s.unbind tag).curq = s.curq := rfl
@[simp] theorem State.unbind_ev (s : State) (tag : ITag) : (s.unbind tag).ev = s.ev := rfl
@[simp] theorem State.unbind_coreTurn (s : State) (tag : ITag) : (s.unbind tag).coreTurn = s.coreTurn := rfl
@[simp] theorem State.unbind_prior (s : State) (tag : ITag) : (s.unbind tag).prior = s.prior := rfl
@[simp] theorem State.unbind_ir0 (s : State) (tag : ITag) : (s.unbind tag).ir0 = s.ir0 := rfl
@[simp] theorem State.unbind_ir1 (s : State) (tag : ITag) : (s.unbind tag).ir1 = s.ir1 := rfl
@[simp] theorem State.unbind_stuck (s : State) (tag : ITag) : (s.unbind tag).stuck = s.stuck := rfl
@[simp] theorem State.unbind_freeCtr (s : State) (tag : ITag) : (s.unbind tag).freeCtr = s.freeCtr := rfl
@[simp] theorem State.unbind_now (s : State) (tag : ITag) : (s.unbind tag).now = s.now := rfl
@[simp] theorem State.unbind_mem (s : State) (tag : ITag) : (s.unbind tag).mem = s.mem := rfl
@[simp] theorem State.unbind_pool (s : State) (tag : ITag) : (s.unbind tag).pool = s.pool := rfl
@[simp] theorem State.unbind_hostMem (s : State) (tag : ITag) : (s.unbind tag).hostMem = s.hostMem := rfl
@[simp] theorem State.unbind_remoteMem (s : State) (tag : ITag) : (s.unbind tag).remoteMem = s.remoteMem := rfl
@[simp] theorem State.unbind_fabCopies (s : State) (tag : ITag) : (s.unbind tag).fabCopies = s.fabCopies := rfl
@[simp] theorem State.unbind_lines (s : State) (tag : ITag) : (s.unbind tag).lines = s.lines := rfl
@[simp] theorem State.unbind_ltime (s : State) (tag : ITag) : (s.unbind tag).ltime = s.ltime := rfl
@[simp] theorem State.unbind_rebaseDue (s : State) (tag : ITag) : (s.unbind tag).rebaseDue = s.rebaseDue := rfl
@[simp] theorem State.unbind_marks (s : State) (tag : ITag) : (s.unbind tag).marks = s.marks := rfl
@[simp] theorem State.unbind_tlb (s : State) (tag : ITag) : (s.unbind tag).tlb = s.tlb := rfl
@[simp] theorem State.unbind_phasers (s : State) (tag : ITag) : (s.unbind tag).phasers = s.phasers := rfl
@[simp] theorem State.unbind_phOwners (s : State) (tag : ITag) : (s.unbind tag).phOwners = s.phOwners := rfl
@[simp] theorem State.unbind_phWaits (s : State) (tag : ITag) : (s.unbind tag).phWaits = s.phWaits := rfl
@[simp] theorem State.unbind_linkUp (s : State) (tag : ITag) : (s.unbind tag).linkUp = s.linkUp := rfl
@[simp] theorem State.unbind_lostPorts (s : State) (tag : ITag) : (s.unbind tag).lostPorts = s.lostPorts := rfl
@[simp] theorem State.unbind_portSeen (s : State) (tag : ITag) : (s.unbind tag).portSeen = s.portSeen := rfl
@[simp] theorem State.unbind_portQuar (s : State) (tag : ITag) : (s.unbind tag).portQuar = s.portQuar := rfl
@[simp] theorem State.unbind_claimFrom (s : State) (tag : ITag) : (s.unbind tag).claimFrom = s.claimFrom := rfl
@[simp] theorem State.unbind_peerLinks (s : State) (tag : ITag) : (s.unbind tag).peerLinks = s.peerLinks := rfl
@[simp] theorem State.unbind_beacons (s : State) (tag : ITag) : (s.unbind tag).beacons = s.beacons := rfl
@[simp] theorem State.unbind_outNotices (s : State) (tag : ITag) : (s.unbind tag).outNotices = s.outNotices := rfl
@[simp] theorem State.unbind_exports (s : State) (tag : ITag) : (s.unbind tag).exports = s.exports := rfl
@[simp] theorem State.unbind_launches (s : State) (tag : ITag) : (s.unbind tag).launches = s.launches := rfl
@[simp] theorem State.unbind_packs (s : State) (tag : ITag) : (s.unbind tag).packs = s.packs := rfl
@[simp] theorem State.unbind_queues (s : State) (tag : ITag) : (s.unbind tag).queues = s.queues := rfl
@[simp] theorem State.unbind_served (s : State) (tag : ITag) : (s.unbind tag).served = s.served := rfl
@[simp] theorem State.unbind_childReqs (s : State) (tag : ITag) : (s.unbind tag).childReqs = s.childReqs := rfl
@[simp] theorem State.unbind_kills (s : State) (tag : ITag) : (s.unbind tag).kills = s.kills := rfl
@[simp] theorem State.unbind_killWaits (s : State) (tag : ITag) : (s.unbind tag).killWaits = s.killWaits := rfl
@[simp] theorem State.unbind_flips (s : State) (tag : ITag) : (s.unbind tag).flips = s.flips := rfl
@[simp] theorem State.unbind_regions (s : State) (tag : ITag) : (s.unbind tag).regions = s.regions := rfl
@[simp] theorem State.unbind_trails (s : State) (tag : ITag) : (s.unbind tag).trails = s.trails := rfl
@[simp] theorem State.unbind_ckpts (s : State) (tag : ITag) : (s.unbind tag).ckpts = s.ckpts := rfl
@[simp] theorem State.unbind_revived (s : State) (tag : ITag) : (s.unbind tag).revived = s.revived := rfl
@[simp] theorem State.unbind_copies (s : State) (tag : ITag) : (s.unbind tag).copies = s.copies := rfl
@[simp] theorem State.unbind_rings (s : State) (tag : ITag) : (s.unbind tag).rings = s.rings := rfl
@[simp] theorem State.unbind_ringWaits (s : State) (tag : ITag) : (s.unbind tag).ringWaits = s.ringWaits := rfl
@[simp] theorem State.unbind_semWaits (s : State) (tag : ITag) : (s.unbind tag).semWaits = s.semWaits := rfl
@[simp] theorem State.unbind_held (s : State) (tag : ITag) : (s.unbind tag).held = s.held := rfl
@[simp] theorem State.unbind_probes (s : State) (tag : ITag) : (s.unbind tag).probes = s.probes := rfl
@[simp] theorem State.unbind_requests (s : State) (tag : ITag) : (s.unbind tag).requests = s.requests := rfl
@[simp] theorem State.unbind_seqrs (s : State) (tag : ITag) : (s.unbind tag).seqrs = s.seqrs := rfl
@[simp] theorem State.unbind_seqCaches (s : State) (tag : ITag) : (s.unbind tag).seqCaches = s.seqCaches := rfl
@[simp] theorem State.unbind_colls (s : State) (tag : ITag) : (s.unbind tag).colls = s.colls := rfl
@[simp] theorem State.unbind_arming (s : State) (tag : ITag) : (s.unbind tag).arming = s.arming := rfl
@[simp] theorem State.unbind_disarming (s : State) (tag : ITag) : (s.unbind tag).disarming = s.disarming := rfl
@[simp] theorem State.unbind_quarantine (s : State) (tag : ITag) : (s.unbind tag).quarantine = s.quarantine := rfl
@[simp] theorem State.unbind_notices (s : State) (tag : ITag) : (s.unbind tag).notices = s.notices := rfl
@[simp] theorem State.unbind_applied (s : State) (tag : ITag) : (s.unbind tag).applied = s.applied := rfl
@[simp] theorem State.unbind_sent (s : State) (tag : ITag) : (s.unbind tag).sent = s.sent := rfl
@[simp] theorem State.unbind_collBars (s : State) (tag : ITag) : (s.unbind tag).collBars = s.collBars := rfl
@[simp] theorem State.unbind_ownXfers (s : State) (tag : ITag) : (s.unbind tag).ownXfers = s.ownXfers := rfl
@[simp] theorem State.unbind_ownNotices (s : State) (tag : ITag) : (s.unbind tag).ownNotices = s.ownNotices := rfl
@[simp] theorem State.unbind_ownRequests (s : State) (tag : ITag) : (s.unbind tag).ownRequests = s.ownRequests := rfl
@[simp] theorem State.unbind_early (s : State) (tag : ITag) : (s.unbind tag).early = s.early := rfl
@[simp] theorem State.unbind_accs (s : State) (tag : ITag) : (s.unbind tag).accs = s.accs := rfl
@[simp] theorem State.unbind_shadows (s : State) (tag : ITag) : (s.unbind tag).shadows = s.shadows := rfl
@[simp] theorem State.unbind_buses (s : State) (tag : ITag) : (s.unbind tag).buses = s.buses := rfl
@[simp] theorem State.unbind_lowLines (s : State) (tag : ITag) : (s.unbind tag).lowLines = s.lowLines := rfl
@[simp] theorem State.unbind_deadLines (s : State) (tag : ITag) : (s.unbind tag).deadLines = s.deadLines := rfl
@[simp] theorem State.unbind_arrivals (s : State) (tag : ITag) : (s.unbind tag).arrivals = s.arrivals := rfl
@[simp] theorem State.unbind_invs (s : State) (tag : ITag) : (s.unbind tag).invs = s.invs := rfl
@[simp] theorem State.unbind_flash (s : State) (tag : ITag) : (s.unbind tag).flash = s.flash := rfl
@[simp] theorem State.unbind_fwRun (s : State) (tag : ITag) : (s.unbind tag).fwRun = s.fwRun := rfl
@[simp] theorem State.unbind_fwAsked (s : State) (tag : ITag) : (s.unbind tag).fwAsked = s.fwAsked := rfl
@[simp] theorem State.unbind_meas1 (s : State) (tag : ITag) : (s.unbind tag).meas1 = s.meas1 := rfl
@[simp] theorem State.unbind_meas2 (s : State) (tag : ITag) : (s.unbind tag).meas2 = s.meas2 := rfl
@[simp] theorem State.unbind_mbox (s : State) (tag : ITag) : (s.unbind tag).mbox = s.mbox := rfl
@[simp] theorem State.unbind_spdm (s : State) (tag : ITag) : (s.unbind tag).spdm = s.spdm := rfl
@[simp] theorem State.unbind_spdmShut (s : State) (tag : ITag) : (s.unbind tag).spdmShut = s.spdmShut := rfl
@[simp] theorem State.unbind_answer (s : State) (tag : ITag) : (s.unbind tag).answer = s.answer := rfl
@[simp] theorem State.unbind_msix (s : State) (tag : ITag) : (s.unbind tag).msix = s.msix := rfl
@[simp] theorem State.unbind_msixWait (s : State) (tag : ITag) : (s.unbind tag).msixWait = s.msixWait := rfl
@[simp] theorem State.unbind_tt (s : State) (tag : ITag) : (s.unbind tag).tt = s.tt := rfl
@[simp] theorem State.unbind_ttDue (s : State) (tag : ITag) : (s.unbind tag).ttDue = s.ttDue := rfl
@[simp] theorem State.unbind_slew (s : State) (tag : ITag) : (s.unbind tag).slew = s.slew := rfl
@[simp] theorem State.unbind_warmed (s : State) (tag : ITag) : (s.unbind tag).warmed = s.warmed := rfl
@[simp] theorem State.unbind_unlocked (s : State) (tag : ITag) : (s.unbind tag).unlocked = s.unlocked := rfl
@[simp] theorem State.unbind_skewSince (s : State) (tag : ITag) : (s.unbind tag).skewSince = s.skewSince := rfl
@[simp] theorem State.unbind_uncal (s : State) (tag : ITag) : (s.unbind tag).uncal = s.uncal := rfl
@[simp] theorem State.unbind_moves (s : State) (tag : ITag) : (s.unbind tag).moves = s.moves := rfl
@[simp] theorem State.unbind_halting (s : State) (tag : ITag) : (s.unbind tag).halting = s.halting := rfl
@[simp] theorem State.unbind_replay (s : State) (tag : ITag) : (s.unbind tag).replay = s.replay := rfl
@[simp] theorem State.unbind_nextTicket (s : State) (tag : ITag) : (s.unbind tag).nextTicket = s.nextTicket := rfl
@[simp] theorem State.unbind_nextRequest (s : State) (tag : ITag) : (s.unbind tag).nextRequest = s.nextRequest := rfl
@[simp] theorem State.unbind_nextLaunch (s : State) (tag : ITag) : (s.unbind tag).nextLaunch = s.nextLaunch := rfl
@[simp] theorem State.unbind_nextOrder (s : State) (tag : ITag) : (s.unbind tag).nextOrder = s.nextOrder := rfl
@[simp] theorem State.unbind_attached (s : State) (tag : ITag) : (s.unbind tag).attached = s.attached := rfl
@[simp] theorem State.unbind_detached (s : State) (tag : ITag) : (s.unbind tag).detached = s.detached := rfl
@[simp] theorem State.unbind_halted (s : State) (tag : ITag) : (s.unbind tag).halted = s.halted := rfl
@[simp] theorem State.unbind_resumed (s : State) (tag : ITag) : (s.unbind tag).resumed = s.resumed := rfl
@[simp] theorem State.unbind_named (s : State) (tag : ITag) : (s.unbind tag).named = s.named := rfl
@[simp] theorem State.unbind_dbgWait (s : State) (tag : ITag) : (s.unbind tag).dbgWait = s.dbgWait := rfl
@[simp] theorem State.unbind_watches (s : State) (tag : ITag) : (s.unbind tag).watches = s.watches := rfl
@[simp] theorem State.unbind_threads (s : State) (tag : ITag) : (s.unbind tag).threads = s.threads := rfl
@[simp] theorem State.unbind_cores (s : State) (tag : ITag) : (s.unbind tag).cores = s.cores := rfl
@[simp] theorem State.unbind_epochs (s : State) (tag : ITag) : (s.unbind tag).epochs = s.epochs := rfl
@[simp] theorem State.unbind_flying (s : State) (tag : ITag) : (s.unbind tag).flying = s.flying := rfl
@[simp] theorem State.unbind_ctl (s : State) (tag : ITag) : (s.unbind tag).ctl = s.ctl := rfl
@[simp] theorem State.unbind_heaters (s : State) (tag : ITag) : (s.unbind tag).heaters = s.heaters := rfl
@[simp] theorem State.unbind_window (s : State) (tag : ITag) : (s.unbind tag).window = s.window := rfl
@[simp] theorem State.unbind_config (s : State) (tag : ITag) : (s.unbind tag).config = s.config := rfl

end Sys2Proof.Machine
end

