-- ==== Sys2Proof/Laws/Frames.lean ====
section
/-! SUPPORT. What the frames of the thread instructions do, said once for each shared operation: the guard, parking,
poisoned operands, and the writes of registers. -/

namespace Sys2Proof.Machine

theorem mem_any_false {l : List Nat} {p : Nat → Bool} (h : ∀ i ∈ l, p i = false) : l.any p = false := by
  simpa using h

theorem isPending_of_full {t : Thread} {i : Nat} (h : t.rstate i = .full) : t.isPending i = false := by
  unfold Thread.isPending; rw [h]

/-- No register of a list of full ones is poisoned. -/
theorem Thread.firstPoison_full (t : Thread) : ∀ {l : List Nat}, (∀ i ∈ l, t.rstate i = .full) → t.firstPoison l = none
  | [], _ => rfl
  | i :: r, h => by
    unfold Thread.firstPoison
    rw [h i (List.mem_cons_self ..)]
    exact Thread.firstPoison_full t fun j hj => h j (List.mem_cons_of_mem _ hj)

/-- With every operand ready the body runs. -/
theorem State.operands_ready {s : State} {reads writes : List Nat} {body : State → State}
    (hr : ∀ i ∈ reads, s.thr.rstate i = .full) (hw : ∀ i ∈ writes, s.thr.isPending i = false) :
    s.operands reads writes body = body s := by
  unfold State.operands
  rw [if_neg, Thread.firstPoison_full _ hr]
  simp only [List.any_append, Bool.or_eq_true, not_or, Bool.not_eq_true]
  exact ⟨mem_any_false fun i hi => isPending_of_full (hr i hi), mem_any_false hw⟩

/-- With its guard full and its bit 0 one, and its operands ready, a control instruction does what its body says. -/
theorem control_runs {g : Guard} {len : Nat} {reads writes : List Nat} {body : State → State} {s : State}
    (h : s.Runs g reads writes) : control g len reads writes body s = .next (body s) := by
  unfold control State.guarded
  rw [h.guard]; simp only [h.bit, if_true]
  rw [State.operands_ready h.reads h.writes]

/-- With bit 0 of a full guard zero, a control instruction only moves on. -/
theorem control_off {g : Guard} {len : Nat} {reads writes : List Nat} {body : State → State} {s : State}
    (hg : s.thr.rstate (rp g) = .full) (hb : (s.thr.preg g).getLsbD 0 = false) :
    control g len reads writes body s = .next (s.advance len) := by
  unfold control State.guarded; rw [hg]; simp only [hb, Bool.false_eq_true, if_false]

/-- With its guard full and its operands ready, a vector instruction does what its body says. -/
theorem vectorFrame_ready {g : Guard} {reads writes : List Nat} {body : State → State} {s : State}
    (h : s.Ready g reads writes) : vectorFrame g reads writes body s = .next (body s) := by
  unfold vectorFrame State.guarded
  rw [h.guard]; simp only
  rw [State.operands_ready h.reads h.writes]

/-! ### Writes of the current thread -/

/-- Storage reads the same where the memories are the same. -/
theorem State.peek_eq {s t : State} (h1 : t.mem = s.mem) (h2 : t.pool = s.pool) (h3 : t.hostMem = s.hostMem)
    (h4 : t.remoteMem = s.remoteMem) (p : Place) (hp : p.isStorage = true) : t.peek p = s.peek p := by
  cases p <;> simp_all [State.peek, Place.isStorage]

/-- A change of the current thread that keeps everything but its registers, FPFLAGS and pc. -/
theorem elsewhere_onThr (s : State) (f : Thread → Thread)
    (h : ∀ t : Thread, { f t with s := t.s, v := t.v, p := t.p, st := t.st, fpflags := t.fpflags, pc := t.pc } = t) :
    Elsewhere s (s.onThr f) where
  machine := rfl
  threads := fun g hg => by rw [State.onThr_eq, State.thread_setThread, if_neg hg]
  thread := by rw [State.thr_onThr]; exact h s.thr
  memory := State.peek_eq rfl rfl rfl rfl

@[simp] theorem Thread.advance_value (t : Thread) (n i : Nat) : (t.advance n).value i = t.value i := rfl
@[simp] theorem Thread.advance_rstate (t : Thread) (n i : Nat) : (t.advance n).rstate i = t.rstate i := rfl
@[simp] theorem Thread.advance_fpflags (t : Thread) (n : Nat) : (t.advance n).fpflags = t.fpflags := rfl
@[simp] theorem Thread.advance_pc (t : Thread) (n : Nat) : (t.advance n).pc = t.pc + BitVec.ofNat 64 n := rfl

theorem setS_frame (t : Thread) (r : Reg6) (x : Word) :
    { t.setS r x with s := t.s, v := t.v, p := t.p, st := t.st, fpflags := t.fpflags, pc := t.pc } = t := by
  unfold Thread.setS; split <;> rfl
theorem setP_frame (t : Thread) (r : PReg) (x : Word) :
    { t.setP r x with s := t.s, v := t.v, p := t.p, st := t.st, fpflags := t.fpflags, pc := t.pc } = t := by
  unfold Thread.setP; split <;> rfl

theorem isConst_rs_iff (r : Reg6) : isConst (rs r) = true ↔ r = 0 := by
  constructor
  · intro h; exact Decidable.byContradiction fun hr => by rw [isConst_rs hr] at h; cases h
  · rintro rfl; rfl

theorem isConst_rp_iff (r : PReg) : isConst (rp r) = true ↔ r = 0 ∨ r = 1 := by
  constructor
  · intro h; refine Decidable.byContradiction fun hr => ?_; rw [isConst_rp (fun e => hr (.inl e)) (fun e => hr (.inr e))] at h; cases h
  · rintro (rfl | rfl) <;> rfl

theorem or_zero5 (x : BitVec 5) : x = x ||| 0 := by simp

/-- putS writes s[d] full and moves on. -/
theorem writesOnly_putS (s : State) (d : Reg6) (x : Word) (len : Nat) :
    WritesOnly s (s.putS d x len) [(rs d, wide x)] 0 (s.thr.pc + BitVec.ofNat 64 len) := by
  unfold State.putS
  refine ⟨?_, ?_, ?_, ?_, elsewhere_onThr s _ fun t => ?_⟩
  · intro o ho
    simp only [List.mem_singleton] at ho; subst ho
    simp only [State.thr_onThr, Thread.advance_value, Thread.advance_rstate, Thread.value_setS, Thread.rstate_setS, if_true,
      and_true]
    by_cases h : d = 0
    · rw [if_neg (by simp [h]), if_pos ((isConst_rs_iff d).2 h)]
    · rw [if_pos ⟨trivial, h⟩, isConst_rs h]; rfl
  · intro i _ hi
    simp only [List.map_cons, List.map_nil, List.mem_singleton] at hi
    simp only [State.thr_onThr, Thread.advance_value, Thread.advance_rstate, Thread.value_setS, Thread.rstate_setS, hi,
      false_and, if_false, and_self]
  · simp
  · simp
  · unfold Thread.setS Thread.advance; split <;> rfl

/-- putP writes p[d] full and moves on. -/
theorem writesOnly_putP (s : State) (d : PReg) (x : Word) (len : Nat) :
    WritesOnly s (s.putP d x len) [(rp d, wide x)] 0 (s.thr.pc + BitVec.ofNat 64 len) := by
  unfold State.putP
  refine ⟨?_, ?_, ?_, ?_, elsewhere_onThr s _ fun t => ?_⟩
  · intro o ho
    simp only [List.mem_singleton] at ho; subst ho
    simp only [State.thr_onThr, Thread.advance_value, Thread.advance_rstate, Thread.value_setP _ _ _ _ (rp_lt d),
      Thread.rstate_setP, if_true, and_true]
    by_cases h : d = 0 ∨ d = 1
    · rw [if_neg (by rintro ⟨-, h0, h1⟩; exact h.elim h0 h1), if_pos ((isConst_rp_iff d).2 h)]
    · rw [not_or] at h; rw [if_pos ⟨trivial, h⟩, isConst_rp h.1 h.2]; rfl
  · intro i hl hi
    simp only [List.map_cons, List.map_nil, List.mem_singleton] at hi
    simp only [State.thr_onThr, Thread.advance_value, Thread.advance_rstate, Thread.value_setP _ _ _ _ hl, Thread.rstate_setP, hi,
      false_and, if_false, and_self]
  · simp
  · simp
  · unfold Thread.setP Thread.advance; split <;> rfl

/-- putPair writes a compare's pair. -/
theorem writesOnly_putPair (s : State) (pd : PReg) (a b : Word) (len : Nat) (h : pd ≠ 15) :
    WritesOnly s (s.putPair pd a b len) [(rp pd, wide a), (rp pd + 1, wide b)] 0 (s.thr.pc + BitVec.ofNat 64 len) := by
  have hlt := rp_lt pd
  have hn : pd.toNat ≠ 15 := fun e => h (BitVec.eq_of_toNat_eq (by simpa using e))
  have hs : rp (pd + 1) = rp pd + 1 := by
    have := pd.isLt
    simp only [rp, BitVec.toNat_add]; change 128 + (pd.toNat + 1) % 16 = _; omega
  have hne : pd ≠ pd + 1 := fun e => by rw [← e] at hs; omega
  unfold State.putPair
  refine ⟨?_, ?_, ?_, ?_, elsewhere_onThr s _ fun t => ?_⟩
  · intro o ho
    simp only [List.mem_cons, List.not_mem_nil, or_false] at ho
    have hl1 := rp_lt (pd + 1)
    rw [← hs] at ho
    simp only [State.thr_onThr, Thread.advance_value, Thread.advance_rstate, Thread.rstate_setP]
    rcases ho with rfl | rfl
    · rw [Thread.value_setP _ _ _ _ hlt, Thread.value_setP _ _ _ _ hlt, if_neg (by rw [hs]; omega)]
      refine ⟨?_, by simp⟩
      by_cases h : pd = 0 ∨ pd = 1
      · rw [if_neg (by rintro ⟨-, h0, h1⟩; exact h.elim h0 h1), if_pos ((isConst_rp_iff pd).2 h)]
      · rw [not_or] at h; rw [if_pos ⟨rfl, h⟩, isConst_rp h.1 h.2]; rfl
    · rw [Thread.value_setP _ _ _ _ hl1, Thread.value_setP _ _ _ _ hl1]
      refine ⟨?_, by simp⟩
      by_cases h : pd + 1 = 0 ∨ pd + 1 = 1
      · rw [if_neg (by rintro ⟨-, h0, h1⟩; exact h.elim h0 h1), if_pos ((isConst_rp_iff _).2 h), if_neg (by rw [hs]; omega)]
      · rw [not_or] at h; rw [if_pos ⟨rfl, h⟩, isConst_rp h.1 h.2]; rfl
  · intro i hl hi
    simp only [List.map_cons, List.map_nil, List.mem_cons, List.not_mem_nil, or_false, not_or, ← hs] at hi
    simp only [State.thr_onThr, Thread.advance_value, Thread.advance_rstate, Thread.value_setP _ _ _ _ hl, Thread.rstate_setP, hi.1,
      hi.2, false_and, if_false, and_self]
  · simp
  · simp
  · unfold Thread.setP Thread.advance; split <;> split <;> rfl

end Sys2Proof.Machine
end

