-- ==== Sys2Proof/Laws/Lanes.lean ====
section
/-! SUPPORT. Vector registers as elements: what a register made of elements holds in each, and what the shared frames of the
merging instructions write. -/

namespace Sys2Proof.Machine

theorem packElems_lt (w : Nat) : ∀ xs : List Nat, packElems w xs < 2 ^ (w * xs.length)
  | [] => by simp [packElems]
  | x :: r => by
    have h := packElems_lt w r
    have hx := Nat.mod_lt x (Nat.two_pow_pos w)
    simp only [packElems, List.length_cons, Nat.mul_add, Nat.mul_one, Nat.pow_add]
    have h2 : packElems w r + 1 ≤ 2 ^ (w * r.length) := h
    calc x % 2 ^ w + 2 ^ w * packElems w r < 2 ^ w + 2 ^ w * packElems w r := by omega
      _ = 2 ^ w * (packElems w r + 1) := by rw [Nat.mul_add, Nat.mul_one, Nat.add_comm]
      _ ≤ 2 ^ w * 2 ^ (w * r.length) := Nat.mul_le_mul_left _ h2
      _ = 2 ^ (w * r.length) * 2 ^ w := Nat.mul_comm _ _

/-- Element e of packed elements. -/
theorem packElems_get (w : Nat) : ∀ (xs : List Nat) (e : Nat),
    packElems w xs / 2 ^ (w * e) % 2 ^ w = xs[e]?.getD 0 % 2 ^ w
  | [], e => by simp [packElems]
  | x :: r, 0 => by simp [packElems]
  | x :: r, e + 1 => by
    have hx := Nat.mod_lt x (Nat.two_pow_pos w)
    rw [List.getElem?_cons_succ, ← packElems_get w r e, packElems, Nat.mul_add, Nat.mul_one, Nat.add_comm (w * e) w, Nat.pow_add,
      ← Nat.div_div_eq_div_mul, Nat.add_mul_div_left _ _ (Nat.two_pow_pos w), Nat.div_eq_of_lt hx, Nat.zero_add]

/-- Element e of a register made of elements that fit into it. -/
theorem elem_vecOf {w : Nat} {xs : List Nat} (h : w * xs.length ≤ 2048) (e : Nat) :
    elem w (vecOf w xs) e = xs[e]?.getD 0 % 2 ^ w := by
  unfold elem vecOf
  rw [BitVec.toNat_ofNat, Nat.mod_eq_of_lt (Nat.lt_of_lt_of_le (packElems_lt w xs) (Nat.pow_le_pow_right (by decide) h))]
  exact packElems_get w xs e

theorem elem_lt (w : Nat) (v : Vec) (e : Nat) : elem w v e < 2 ^ w := Nat.mod_lt _ (Nat.two_pow_pos w)

theorem lanes_get (w wd : Nat) (pg : Word) (old : Vec) (f : Nat → Nat × Nat) (e : Nat) (h : e < 2048 / w) :
    ((lanes w wd pg old f).map (·.1))[e]?.getD 0 = if active w pg e then (f e).1 else elem wd old e := by
  simp [lanes, tabulate, h]
  split <;> rfl

theorem lanes_length (w wd : Nat) (pg : Word) (old : Vec) (f : Nat → Nat × Nat) :
    (lanes w wd pg old f).length = 2048 / w := by simp [lanes, tabulate]

/-- putVF writes v[d] full, merges flags and moves on. -/
theorem writesOnly_putVF (s : State) (d : Reg6) (x : Vec) (fl len : Nat) :
    WritesOnly s (s.putVF d x fl len) [(rv d, x)] (BitVec.ofNat 5 fl) (s.thr.pc + BitVec.ofNat 64 len) := by
  unfold State.putVF
  refine ⟨?_, ?_, ?_, ?_, elsewhere_onThr s _ fun t => rfl⟩
  · intro o ho
    simp only [List.mem_singleton] at ho; subst ho
    rw [State.thr_onThr, isConst_rv]
    refine ⟨?_, ?_⟩
    · exact Eq.trans (Thread.value_setV s.thr d x (rv d)) (by simp)
    · exact Eq.trans (Thread.rstate_setV s.thr d x (rv d)) (by simp)
  · intro i _ hi
    simp only [List.map_cons, List.map_nil, List.mem_singleton] at hi
    rw [State.thr_onThr]
    refine ⟨?_, ?_⟩
    · exact Eq.trans (Thread.value_setV s.thr d x i) (by simp [hi])
    · exact Eq.trans (Thread.rstate_setV s.thr d x i) (by simp [hi])
  · rw [State.thr_onThr]; rfl
  · rw [State.thr_onThr]; rfl

theorem or_zero_five (x : BitVec 5) : x ||| 0 = x := by simp

/-- putV writes v[d] full and moves on. -/
theorem writesOnly_putV (s : State) (d : Reg6) (x : Vec) (len : Nat) :
    WritesOnly s (s.putV d x len) [(rv d, x)] 0 (s.thr.pc + BitVec.ofNat 64 len) := by
  have h := writesOnly_putVF s d x 0 len
  have e : s.putVF d x 0 len = s.putV d x len := by
    unfold State.putVF State.putV
    have : ∀ t : Thread, ((t.setV d x).raise 0).advance len = (t.setV d x).advance len := by
      intro t; unfold Thread.raise; rw [show BitVec.ofNat 5 0 = 0 from rfl, or_zero_five]
    simp only [this]
  rwa [e] at h

theorem activatesAll_iff (w : Nat) (pg : Word) : activatesAll w pg = true ↔ ∀ e < 2048 / w, active w pg e = true := by
  simp [activatesAll]

end Sys2Proof.Machine
end

