-- ==== Sys2Proof/Laws/Memory.lean ====
section
/-! SUPPORT. Every operation that writes storage keeps the canonical form of the memories, and what a byte reads as after it. -/

namespace Sys2Proof.Machine

/-- The four memories of two states are the same. -/
def SameMemories (s t : State) : Prop :=
  t.mem = s.mem ∧ t.pool = s.pool ∧ t.hostMem = s.hostMem ∧ t.remoteMem = s.remoteMem

theorem SameMemories.wf {s t : State} (h : SameMemories s t) (w : s.wf) : t.wf := by
  obtain ⟨a, b, c, d⟩ := h
  unfold State.wf at *; rw [a, b, c, d]; exact w

theorem SameMemories.trans {s t u : State} (h : SameMemories s t) (k : SameMemories t u) : SameMemories s u :=
  ⟨k.1.trans h.1, k.2.1.trans h.2.1, k.2.2.1.trans h.2.2.1, k.2.2.2.trans h.2.2.2⟩

theorem SameMemories.refl (s : State) : SameMemories s s := ⟨rfl, rfl, rfl, rfl⟩

/-- Nothing is listed in any memory after reset, so each has its canonical form. -/
theorem Memory.wf_reset : Memory.wf State.reset.mem = true ∧ Memory.wf State.reset.pool = true
    ∧ Memory.wf State.reset.hostMem = true ∧ Memory.wf State.reset.remoteMem = true := ⟨rfl, rfl, rfl, rfl⟩

theorem State.wf_poke {s : State} (w : s.wf) (p : Place) (b : Byte) : (s.poke p b).wf := by
  obtain ⟨a, c, d, e⟩ := w
  cases p
  · exact ⟨Memory.wf_mset _ _ a, c, d, e⟩
  · exact ⟨a, Memory.wf_mset _ _ c, d, e⟩
  · exact ⟨a, c, Memory.wf_mset _ _ d, e⟩
  · exact ⟨a, c, d, Memory.wf_mset _ _ e⟩
  · exact ⟨a, c, d, e⟩

theorem State.wf_pokeN (bs : List Byte) : ∀ {s : State} (p : Place), s.wf → (s.pokeN p bs).wf := by
  induction bs with
  | nil => intro s p w; exact w
  | cons b r ih => intro s p w; exact ih _ (State.wf_poke w p b)

theorem State.wf_pokeBeside (phs : List Place) (bs : List Byte) :
    ∀ {s : State} (p : Place), s.wf → (s.pokeBeside phs p bs).wf := by
  induction bs with
  | nil => intro s p w; exact w
  | cons b r ih =>
    intro s p w
    unfold State.pokeBeside
    split
    · exact ih _ w
    · exact ih _ (State.wf_poke w p b)

/-! ### Operations that leave the memories alone -/

theorem State.lease_memories (s : State) (p : Place) (n : Nat) : SameMemories s (s.lease p n) := by
  unfold State.lease; split <;> exact ⟨rfl, rfl, rfl, rfl⟩

theorem State.stamp_memories (s : State) (p : Place) (n t : Nat) : SameMemories s (s.stamp p n t) := by
  unfold State.stamp; split <;> exact ⟨rfl, rfl, rfl, rfl⟩

theorem State.unmark_memories (s : State) (p : Place) (n : Nat) : SameMemories s (s.unmark p n) := by
  unfold State.unmark; split <;> exact ⟨rfl, rfl, rfl, rfl⟩

theorem State.spoil_memories (s : State) (p : Place) (n : Nat) : SameMemories s (s.spoil p n) := by
  unfold State.spoil
  split
  · split <;> exact ⟨rfl, rfl, rfl, rfl⟩
  · exact SameMemories.refl s

theorem State.dropCopies_memories (s : State) (p : Place) (n : Nat) : SameMemories s (s.dropCopies p n) := by
  unfold State.dropCopies; split <;> exact ⟨rfl, rfl, rfl, rfl⟩

theorem State.fly_memories (s : State) (tag : ITag) (ctx : Ctx) (r : Result) : SameMemories s (s.fly tag ctx r) :=
  ⟨rfl, rfl, rfl, rfl⟩

theorem State.flies_memories (code : Nat) (l : List PhWait) : ∀ s : State,
    SameMemories s (l.foldl (fun a w => a.fly w.tag w.ctx (.poison code 0 0 0)) s) := by
  induction l with
  | nil => exact SameMemories.refl
  | cons x r ih => intro s; exact (State.fly_memories s _ _ _).trans (ih _)

theorem State.poisonWaits_memories (s : State) (ph : Place) (code : Nat) : SameMemories s (s.poisonWaits ph code) :=
  State.flies_memories _ _ { s with phWaits := s.phWaits.filter fun w => !samePlace w.place ph }

/-! ### A write in the package order -/

theorem State.wf_breakPhaser {s : State} (w : s.wf) (ph : Place) : (s.breakPhaser ph).wf := by
  unfold State.breakPhaser
  exact (State.poisonWaits_memories _ _ _).wf (State.wf_poke w _ _)

theorem State.wf_putT {s : State} (w : s.wf) (p : Place) (bs : List Byte) (t : Nat) : (s.putT p bs t).wf := by
  have fold : ∀ (l : List Place) {t : State}, t.wf → (l.foldl (fun a ph => a.breakPhaser ph) t).wf := by
    intro l
    induction l with
    | nil => intro t h; exact h
    | cons x r ih => intro t h; exact ih (State.wf_breakPhaser h x)
  unfold State.putT
  apply fold
  have h0 := (State.dropCopies_memories _ p bs.length).wf ((State.spoil_memories s p bs.length).wf w)
  have h1 : ∀ hit, (if hit = [] then ((s.spoil p bs.length).dropCopies p bs.length).pokeN p bs
      else ((s.spoil p bs.length).dropCopies p bs.length).pokeBeside hit p bs).wf := by
    intro hit
    split
    · exact State.wf_pokeN bs p h0
    · exact State.wf_pokeBeside _ bs p h0
  have h2 := fun hit => (State.stamp_memories _ p bs.length t).wf ((State.unmark_memories _ p bs.length).wf (h1 hit))
  split
  · exact SameMemories.wf ⟨rfl, rfl, rfl, rfl⟩ (h2 _)
  · exact h2 _

theorem State.wf_put {s : State} (w : s.wf) (p : Place) (bs : List Byte) : (s.put p bs).wf := State.wf_putT w p bs _

/-! ### What a byte reads as -/

/-- A byte of device memory written reads back, and every other byte of device memory reads as before. -/
theorem State.peek_poke_dev {s : State} (w : s.wf) (a b : Nat) (v : Byte) :
    (s.poke (.dev a) v).peek (.dev b) = if b = a then v else s.peek (.dev b) := mget_mset w.1 a v b

/-- A byte of a pool written reads back under every swizzle code that names it. -/
theorem State.peek_poke_pool {s : State} (w : s.wf) (c z o c' z' o' : Nat) (v : Byte) :
    (s.poke (.pool c z o) v).peek (.pool c' z' o')
      = if poolKey c' z' o' = poolKey c z o then v else s.peek (.pool c' z' o') := mget_mset w.2.1 _ v _

/-- A byte written to host memory, or to another module, reads back. -/
theorem State.peek_poke_host {s : State} (w : s.wf) (a b : Nat) (v : Byte) :
    (s.poke (.host a) v).peek (.host b) = if b = a then v else s.peek (.host b) := mget_mset w.2.2.1 a v b

theorem State.peek_poke_remote {s : State} (w : s.wf) (m a n b : Nat) (v : Byte) :
    (s.poke (.remote m a) v).peek (.remote n b)
      = if remoteKey n b = remoteKey m a then v else s.peek (.remote n b) := mget_mset w.2.2.2 _ v _

end Sys2Proof.Machine
end

