-- ==== Sys2Proof/Laws/Merge.lean ====
section
/-! SUPPORT. What the frames of the merging vector instructions do, in the terms of the statements. -/

namespace Sys2Proof.Machine

theorem active_iff (w : Nat) (pg : Word) (e : Nat) : active w pg e = true ↔ activates w pg e := by
  unfold active guardLane activates; rfl

theorem full_iff (w : Nat) (pg : Word) : activatesAll w pg = true ↔ Full w pg := by
  rw [activatesAll_iff]; unfold Full; exact forall_congr' fun e => forall_congr' fun _ => active_iff w pg e

/-- The destination of a merging instruction is ready to be read where it is read. -/
theorem merge_ready {r : LaneEffect} {s : State} (h : r.ready s) :
    s.Ready r.g (r.reads ++ mergeReads r.layout r.g [rv r.d] s) [rv r.d] where
  guard := h.1.guard
  writes := h.1.writes
  reads := fun i hi => by
    rcases List.mem_append.1 hi with hi | hi
    · exact h.1.reads i hi
    · unfold mergeReads at hi
      split at hi
      · cases hi
      · rename_i hn
        simp only [List.mem_singleton] at hi; subst hi
        rcases h.2 with hf | hf
        · exact absurd ((full_iff _ _).2 hf) hn
        · exact hf

theorem orFlags_testBit (rs : List (Nat × Nat)) (b : Nat) :
    (orFlags rs).testBit b = rs.any fun r => r.2.testBit b := by
  unfold orFlags
  suffices ∀ (l : List (Nat × Nat)) (a : Nat), (l.foldl (fun a r => a ||| r.2) a).testBit b = (a.testBit b
    || l.any fun r => r.2.testBit b) by
    simpa using this rs 0
  intro l
  induction l with
  | nil => simp
  | cons x r ih => intro a; rw [List.foldl_cons, ih, Nat.testBit_or, List.any_cons, Bool.or_assoc]

/-- A register of merged elements, with its flags, is what the statements say. -/
theorem merges_of {i : Instr} {r : LaneEffect} {s : State} {f : Nat → Nat × Nat}
    (hw : r.width ≤ r.layout)
    (hf : ∀ e, f e = (r.value e, r.flags e))
    (hx : exec i s = .next (s.putVF r.d
      (vecOf r.width ((lanes r.layout r.width (s.thr.preg r.g) (s.thr.vreg r.d) f).map (·.1)))
      (orFlags (lanes r.layout r.width (s.thr.preg r.g) (s.thr.vreg r.d) f)) r.len)) : Merges i r s := by
  have hlen : r.width * ((lanes r.layout r.width (s.thr.preg r.g) (s.thr.vreg r.d) f).map (·.1)).length ≤ 2048 := by
    rw [List.length_map, lanes_length]
    exact Nat.le_trans (Nat.mul_le_mul_right _ hw) (Nat.mul_div_le 2048 r.layout)
  have hget := elem_vecOf hlen
  refine ⟨_, _, _, hx, writesOnly_putVF _ _ _ _ _, ?_, ?_, ?_⟩
  · intro b hb
    unfold State.putVF
    rw [State.thr_onThr]
    change (s.thr.fpflags ||| BitVec.ofNat 5 _).getLsbD b = true ↔ _
    rw [BitVec.getLsbD_or, BitVec.getLsbD_ofNat, orFlags_testBit, Bool.or_eq_true]
    refine or_congr Iff.rfl ?_
    simp only [hb, decide_true, Bool.true_and, lanes, tabulate, List.any_map, List.any_eq_true, List.mem_range,
      Function.comp_apply, hf]
    refine exists_congr fun e => and_congr Iff.rfl ?_
    rw [← active_iff]
    by_cases ha : active r.layout (s.thr.preg r.g) e <;> simp [ha]
  · intro e he
    rw [hget, lanes_get _ _ _ _ _ _ he, hf, ← active_iff]
    refine ⟨fun ha => by rw [if_pos ha], fun ha => ?_⟩
    rw [if_neg ha]; exact Nat.mod_eq_of_lt (elem_lt _ _ _)
  · intro e he _
    rw [hget, List.getElem?_eq_none (by rw [List.length_map, lanes_length]; exact he)]; simp

/-- A merging instruction without rounding. -/
theorem vecMap_merges {i : Instr} {r : LaneEffect} {s : State} {f : Thread → Nat → Nat × Nat} (h : r.ready s)
    (hw : r.width ≤ r.layout)
    (hx : exec i s = vecMap r.layout r.width r.g r.reads r.d r.len f s)
    (hf : ∀ e, f s.thr e = (r.value e, r.flags e)) : Merges i r s :=
  merges_of hw hf (by rw [hx]; exact vectorFrame_ready (merge_ready h))

/-- The mode of an instruction that does not trap on DYN. -/
theorem rounding_mode {s : State} {rm m : Rm} (h : modeOf rm s.thr.fprm = some m) (body : Rm → State → State) :
    s.rounding rm body = body m s := by
  unfold modeOf at h; unfold State.rounding rmOf
  split
  · rename_i hd; rw [if_pos hd] at h
    split at h <;> simp_all
    all_goals (cases h; rfl)
  · rename_i hd; rw [if_neg hd] at h; cases h; rfl

/-- A merging instruction that rounds, in the mode that applies. -/
theorem vecRound_merges {i : Instr} {r : LaneEffect} {s : State} {srcs : List Nat} {rm m : Rm} {k n : Reg6}
    {f : Rm → Thread → Nat → Nat → Nat × Nat} (h : r.ready s) (hw : r.width ≤ r.layout)
    (hr : r.reads = srcs ++ srReads rm k n) (hm : modeOf rm s.thr.fprm = some m)
    (hx : exec i s = vecRound r.layout r.width r.g srcs r.d rm k n r.len f s)
    (hf : ∀ e, f m s.thr (rbits (s.thr.sreg k) (s.thr.sreg n) e) e = (r.value e, r.flags e)) : Merges i r s := by
  refine merges_of hw hf ?_
  rw [hx]; unfold vecRound
  have := merge_ready h
  rw [hr] at this
  rw [vectorFrame_ready this, rounding_mode hm]

end Sys2Proof.Machine
end

