-- ==== Sys2Proof/Laws/PerInstr.lean ====
section
/-! SUPPORT. Statements made for every instruction, one lemma for each constructor: how many words an instruction takes. -/

namespace Sys2Proof.Laws

/-- An instruction takes at most two words, and bits [26:25] of the first are 0b11 where it takes two (R107). -/
def Length.Statement (i : Instr) : Prop :=
  (encode i).length ≤ 2 ∧ ∀ w0 w1, encode i = [w0, w1] → isLong w0 = true

theorem length_none {i : Instr} (h : encode i = []) : Length.Statement i := by
  unfold Length.Statement; rw [h]; exact ⟨Nat.zero_le 2, fun _ _ e => nomatch e⟩

theorem length_one {i : Instr} {w : Nat} (h : encode i = [w]) : Length.Statement i := by
  unfold Length.Statement; rw [h]; exact ⟨Nat.le_succ 1, fun _ _ e => by simp at e⟩

theorem length_long {op f : Nat} {g : Guard} {d a b : Reg6} (_ : op < 128) (hf : f < 8) (h : op % 4 = 3) :
    isLong (encR op g d.toNat a.toNat b.toNat f) = true := by
  have hg := g.isLt; have hd := d.isLt; have ha := a.isLt; have hb := b.isLt
  unfold isLong fld encR
  rw [beq_iff_eq]
  omega

theorem length_two {i : Instr} {op f w : Nat} {g : Guard} {d a b : Reg6} (h : encode i = enc64 op f g d a b w)
    (ho : op < 128) (hf : f < 8) (h4 : op % 4 = 3) : Length.Statement i := by
  unfold Length.Statement; rw [h]
  refine ⟨Nat.le_refl 2, fun w0 w1 e => ?_⟩
  simp only [enc64, List.cons.injEq] at e
  rw [← e.1]; exact length_long ho hf h4

theorem Length.add (g : Guard) (d a b : Reg6) : Length.Statement (.add g d a b) := length_one rfl
theorem Length.sub (g : Guard) (d a b : Reg6) : Length.Statement (.sub g d a b) := length_one rfl
theorem Length.and (g : Guard) (d a b : Reg6) : Length.Statement (.and g d a b) := length_one rfl
theorem Length.or (g : Guard) (d a b : Reg6) : Length.Statement (.or g d a b) := length_one rfl
theorem Length.xor (g : Guard) (d a b : Reg6) : Length.Statement (.xor g d a b) := length_one rfl
theorem Length.sll (g : Guard) (d a b : Reg6) : Length.Statement (.sll g d a b) := length_one rfl
theorem Length.srl (g : Guard) (d a b : Reg6) : Length.Statement (.srl g d a b) := length_one rfl
theorem Length.sra (g : Guard) (d a b : Reg6) : Length.Statement (.sra g d a b) := length_one rfl
theorem Length.mul (g : Guard) (d a b : Reg6) : Length.Statement (.mul g d a b) := length_one rfl
theorem Length.mulhs (g : Guard) (d a b : Reg6) : Length.Statement (.mulhs g d a b) := length_one rfl
theorem Length.mulhu (g : Guard) (d a b : Reg6) : Length.Statement (.mulhu g d a b) := length_one rfl
theorem Length.divs (g : Guard) (d a b : Reg6) : Length.Statement (.divs g d a b) := length_one rfl
theorem Length.divu (g : Guard) (d a b : Reg6) : Length.Statement (.divu g d a b) := length_one rfl
theorem Length.rems (g : Guard) (d a b : Reg6) : Length.Statement (.rems g d a b) := length_one rfl
theorem Length.remu (g : Guard) (d a b : Reg6) : Length.Statement (.remu g d a b) := length_one rfl
theorem Length.addi (g : Guard) (d a : Reg6) (imm : BitVec 9) : Length.Statement (.addi g d a imm) := length_one rfl
theorem Length.andi (g : Guard) (d a : Reg6) (imm : BitVec 9) : Length.Statement (.andi g d a imm) := length_one rfl
theorem Length.ori (g : Guard) (d a : Reg6) (imm : BitVec 9) : Length.Statement (.ori g d a imm) := length_one rfl
theorem Length.xori (g : Guard) (d a : Reg6) (imm : BitVec 9) : Length.Statement (.xori g d a imm) := length_one rfl
theorem Length.slli (g : Guard) (d a sh : Reg6) : Length.Statement (.slli g d a sh) := length_one rfl
theorem Length.srli (g : Guard) (d a sh : Reg6) : Length.Statement (.srli g d a sh) := length_one rfl
theorem Length.srai (g : Guard) (d a sh : Reg6) : Length.Statement (.srai g d a sh) := length_one rfl
theorem Length.rotri (g : Guard) (d a sh : Reg6) : Length.Statement (.rotri g d a sh) := length_one rfl
theorem Length.movi (g : Guard) (d : Reg6) (imm : BitVec 32) :
    Length.Statement (.movi g d imm) := length_two rfl (by decide) (by decide) (by decide)
theorem Length.addiL (g : Guard) (d a : Reg6) (imm : BitVec 32) :
    Length.Statement (.addiL g d a imm) := length_two rfl (by decide) (by decide) (by decide)
theorem Length.orhi (g : Guard) (d a : Reg6) (imm : BitVec 32) :
    Length.Statement (.orhi g d a imm) := length_two rfl (by decide) (by decide) (by decide)
theorem Length.andiL (g : Guard) (d a : Reg6) (imm : BitVec 32) :
    Length.Statement (.andiL g d a imm) := length_two rfl (by decide) (by decide) (by decide)
theorem Length.xoriL (g : Guard) (d a : Reg6) (imm : BitVec 32) :
    Length.Statement (.xoriL g d a imm) := length_two rfl (by decide) (by decide) (by decide)
theorem Length.cmpiL (g : Guard) (c : ICond) (pd : PReg) (a : Reg6) (imm : BitVec 32) :
    Length.Statement (.cmpiL g c pd a imm) := length_two rfl (by decide) (by decide) (by decide)
theorem Length.muladd (g : Guard) (d a b c : Reg6) :
    Length.Statement (.muladd g d a b c) := length_two rfl (by decide) (by decide) (by decide)
theorem Length.mins (g : Guard) (d a b : Reg6) : Length.Statement (.mins g d a b) := length_one rfl
theorem Length.minu (g : Guard) (d a b : Reg6) : Length.Statement (.minu g d a b) := length_one rfl
theorem Length.maxs (g : Guard) (d a b : Reg6) : Length.Statement (.maxs g d a b) := length_one rfl
theorem Length.maxu (g : Guard) (d a b : Reg6) : Length.Statement (.maxu g d a b) := length_one rfl
theorem Length.clz (g : Guard) (d a : Reg6) : Length.Statement (.clz g d a) := length_one rfl
theorem Length.ctz (g : Guard) (d a : Reg6) : Length.Statement (.ctz g d a) := length_one rfl
theorem Length.popc (g : Guard) (d a : Reg6) : Length.Statement (.popc g d a) := length_one rfl
theorem Length.brev (g : Guard) (d a : Reg6) : Length.Statement (.brev g d a) := length_one rfl
theorem Length.cmp (g : Guard) (c : ICond) (pd : PReg) (a b : Reg6) : Length.Statement (.cmp g c pd a b) := length_one rfl
theorem Length.cmpi (g : Guard) (c : ICond) (pd : PReg) (a : Reg6) (imm : BitVec 9) :
    Length.Statement (.cmpi g c pd a imm) := length_one rfl
theorem Length.pand (g : Guard) (d a b : PReg) : Length.Statement (.pand g d a b) := length_one rfl
theorem Length.por (g : Guard) (d a b : PReg) : Length.Statement (.por g d a b) := length_one rfl
theorem Length.pxor (g : Guard) (d a b : PReg) : Length.Statement (.pxor g d a b) := length_one rfl
theorem Length.pandn (g : Guard) (d a b : PReg) : Length.Statement (.pandn g d a b) := length_one rfl
theorem Length.pnot (g : Guard) (d a : PReg) : Length.Statement (.pnot g d a) := length_one rfl
theorem Length.pfroms (g : Guard) (d : PReg) (a : Reg6) : Length.Statement (.pfroms g d a) := length_one rfl
theorem Length.ptos (g : Guard) (d : Reg6) (a : PReg) : Length.Statement (.ptos g d a) := length_one rfl
theorem Length.pcnt (g : Guard) (d : Reg6) (a : PReg) : Length.Statement (.pcnt g d a) := length_one rfl
theorem Length.br (g : Guard) (imm : BitVec 21) : Length.Statement (.br g imm) := length_one rfl
theorem Length.call (g : Guard) (imm : BitVec 21) : Length.Statement (.call g imm) := length_one rfl
theorem Length.jr (g : Guard) (a : Reg6) : Length.Statement (.jr g a) := length_one rfl
theorem Length.jalr (g : Guard) (d a : Reg6) : Length.Statement (.jalr g d a) := length_one rfl
theorem Length.yield (g : Guard) : Length.Statement (.yield g) := length_one rfl
theorem Length.exit (g : Guard) : Length.Statement (.exit g) := length_one rfl
theorem Length.brk (g : Guard) (code : Reg6) : Length.Statement (.brk g code) := length_one rfl
theorem Length.crr (g : Guard) (d : Reg6) (x : BitVec 8) : Length.Statement (.crr g d x) := length_one rfl
theorem Length.crw (g : Guard) (a : Reg6) (x : BitVec 8) : Length.Statement (.crw g a x) := length_one rfl
theorem Length.shadd (g : Guard) (d a b : Reg6) (n : BitVec 3) : Length.Statement (.shadd g d a b n) := length_one rfl
theorem Length.bfxu (g : Guard) (d a : Reg6) (pos len1 : BitVec 6) :
    Length.Statement (.bfxu g d a pos len1) := length_two rfl (by decide) (by decide) (by decide)
theorem Length.bfxs (g : Guard) (d a : Reg6) (pos len1 : BitVec 6) :
    Length.Statement (.bfxs g d a pos len1) := length_two rfl (by decide) (by decide) (by decide)
theorem Length.bfi (g : Guard) (d a : Reg6) (pos len1 : BitVec 6) :
    Length.Statement (.bfi g d a pos len1) := length_two rfl (by decide) (by decide) (by decide)
theorem Length.illegalOp (w0 w1 : BitVec 32) : Length.Statement (.illegalOp w0 w1) := length_none rfl
theorem Length.extAbsent (w0 w1 : BitVec 32) : Length.Statement (.extAbsent w0 w1) := length_none rfl
theorem Length.vaddF32 (g : Guard) (d a b : Reg6) (rm : Rm) : Length.Statement (.vaddF32 g d a b rm) := length_one rfl
theorem Length.vsubF32 (g : Guard) (d a b : Reg6) (rm : Rm) : Length.Statement (.vsubF32 g d a b rm) := length_one rfl
theorem Length.vmulF32 (g : Guard) (d a b : Reg6) (rm : Rm) : Length.Statement (.vmulF32 g d a b rm) := length_one rfl
theorem Length.vaddBf16 (g : Guard) (d a b : Reg6) (rm : Rm) : Length.Statement (.vaddBf16 g d a b rm) := length_one rfl
theorem Length.vsubBf16 (g : Guard) (d a b : Reg6) (rm : Rm) : Length.Statement (.vsubBf16 g d a b rm) := length_one rfl
theorem Length.vmulBf16 (g : Guard) (d a b : Reg6) (rm : Rm) : Length.Statement (.vmulBf16 g d a b rm) := length_one rfl
theorem Length.vaddF16 (g : Guard) (d a b : Reg6) (rm : Rm) : Length.Statement (.vaddF16 g d a b rm) := length_one rfl
theorem Length.vsubF16 (g : Guard) (d a b : Reg6) (rm : Rm) : Length.Statement (.vsubF16 g d a b rm) := length_one rfl
theorem Length.vmulF16 (g : Guard) (d a b : Reg6) (rm : Rm) : Length.Statement (.vmulF16 g d a b rm) := length_one rfl
theorem Length.vdivF32 (g : Guard) (d a b : Reg6) (rm : Rm) : Length.Statement (.vdivF32 g d a b rm) := length_one rfl
theorem Length.vsqrtF32 (g : Guard) (d a : Reg6) (rm : Rm) : Length.Statement (.vsqrtF32 g d a rm) := length_one rfl
theorem Length.vrcpF32 (g : Guard) (d a : Reg6) (rm : Rm) : Length.Statement (.vrcpF32 g d a rm) := length_one rfl
theorem Length.vrsqF32 (g : Guard) (d a : Reg6) (rm : Rm) : Length.Statement (.vrsqF32 g d a rm) := length_one rfl
theorem Length.vexp2F32 (g : Guard) (d a : Reg6) (rm : Rm) : Length.Statement (.vexp2F32 g d a rm) := length_one rfl
theorem Length.vlog2F32 (g : Guard) (d a : Reg6) (rm : Rm) : Length.Statement (.vlog2F32 g d a rm) := length_one rfl
theorem Length.vfcmp (g : Guard) (c : FCond) (pd : PReg) (a b : Reg6) (ty : Ty) :
    Length.Statement (.vfcmp g c pd a b ty) := length_one rfl
theorem Length.vaddL (g : Guard) (d a b : Reg6) (ty : Ty) (rm : Rm) (k n : Reg6) :
    Length.Statement (.vaddL g d a b ty rm k n) := length_two rfl (by decide) (by decide) (by decide)
theorem Length.vsubL (g : Guard) (d a b : Reg6) (ty : Ty) (rm : Rm) (k n : Reg6) :
    Length.Statement (.vsubL g d a b ty rm k n) := length_two rfl (by decide) (by decide) (by decide)
theorem Length.vmulL (g : Guard) (d a b : Reg6) (ty : Ty) (rm : Rm) (k n : Reg6) :
    Length.Statement (.vmulL g d a b ty rm k n) := length_two rfl (by decide) (by decide) (by decide)
theorem Length.vdivL (g : Guard) (d a b : Reg6) (ty : Ty) (rm : Rm) (k n : Reg6) :
    Length.Statement (.vdivL g d a b ty rm k n) := length_two rfl (by decide) (by decide) (by decide)
theorem Length.vfma (g : Guard) (d a b c : Reg6) (ty : Ty) (rm : Rm) (k n : Reg6) :
    Length.Statement (.vfma g d a b c ty rm k n) := length_two rfl (by decide) (by decide) (by decide)
theorem Length.vfms (g : Guard) (d a b c : Reg6) (ty : Ty) (rm : Rm) (k n : Reg6) :
    Length.Statement (.vfms g d a b c ty rm k n) := length_two rfl (by decide) (by decide) (by decide)
theorem Length.vfnma (g : Guard) (d a b c : Reg6) (ty : Ty) (rm : Rm) (k n : Reg6) :
    Length.Statement (.vfnma g d a b c ty rm k n) := length_two rfl (by decide) (by decide) (by decide)
theorem Length.vsqrtL (g : Guard) (d a : Reg6) (ty : Ty) (rm : Rm) (k n : Reg6) :
    Length.Statement (.vsqrtL g d a ty rm k n) := length_two rfl (by decide) (by decide) (by decide)
theorem Length.vrcpL (g : Guard) (d a : Reg6) (ty : Ty) (rm : Rm) (k n : Reg6) :
    Length.Statement (.vrcpL g d a ty rm k n) := length_two rfl (by decide) (by decide) (by decide)
theorem Length.vrsqL (g : Guard) (d a : Reg6) (ty : Ty) (rm : Rm) (k n : Reg6) :
    Length.Statement (.vrsqL g d a ty rm k n) := length_two rfl (by decide) (by decide) (by decide)
theorem Length.vexp2L (g : Guard) (d a : Reg6) (ty : Ty) (rm : Rm) (k n : Reg6) :
    Length.Statement (.vexp2L g d a ty rm k n) := length_two rfl (by decide) (by decide) (by decide)
theorem Length.vlog2L (g : Guard) (d a : Reg6) (ty : Ty) (rm : Rm) (k n : Reg6) :
    Length.Statement (.vlog2L g d a ty rm k n) := length_two rfl (by decide) (by decide) (by decide)
theorem Length.vmin (g : Guard) (d a b : Reg6) (ty : Ty) :
    Length.Statement (.vmin g d a b ty) := length_two rfl (by decide) (by decide) (by decide)
theorem Length.vmax (g : Guard) (d a b : Reg6) (ty : Ty) :
    Length.Statement (.vmax g d a b ty) := length_two rfl (by decide) (by decide) (by decide)
theorem Length.vabs (g : Guard) (d a : Reg6) (ty : Ty) :
    Length.Statement (.vabs g d a ty) := length_two rfl (by decide) (by decide) (by decide)
theorem Length.vneg (g : Guard) (d a : Reg6) (ty : Ty) :
    Length.Statement (.vneg g d a ty) := length_two rfl (by decide) (by decide) (by decide)
theorem Length.vaddI32 (g : Guard) (d a b : Reg6) : Length.Statement (.vaddI32 g d a b) := length_one rfl
theorem Length.vsubI32 (g : Guard) (d a b : Reg6) : Length.Statement (.vsubI32 g d a b) := length_one rfl
theorem Length.vmulI32 (g : Guard) (d a b : Reg6) : Length.Statement (.vmulI32 g d a b) := length_one rfl
theorem Length.vminS32 (g : Guard) (d a b : Reg6) : Length.Statement (.vminS32 g d a b) := length_one rfl
theorem Length.vmaxS32 (g : Guard) (d a b : Reg6) : Length.Statement (.vmaxS32 g d a b) := length_one rfl
theorem Length.vminuI32 (g : Guard) (d a b : Reg6) : Length.Statement (.vminuI32 g d a b) := length_one rfl
theorem Length.vmaxuI32 (g : Guard) (d a b : Reg6) : Length.Statement (.vmaxuI32 g d a b) := length_one rfl
theorem Length.vsraI32 (g : Guard) (d a b : Reg6) : Length.Statement (.vsraI32 g d a b) := length_one rfl
theorem Length.vand (g : Guard) (d a b : Reg6) : Length.Statement (.vand g d a b) := length_one rfl
theorem Length.vor (g : Guard) (d a b : Reg6) : Length.Statement (.vor g d a b) := length_one rfl
theorem Length.vxor (g : Guard) (d a b : Reg6) : Length.Statement (.vxor g d a b) := length_one rfl
theorem Length.vandn (g : Guard) (d a b : Reg6) : Length.Statement (.vandn g d a b) := length_one rfl
theorem Length.vshlI32 (g : Guard) (d a b : Reg6) : Length.Statement (.vshlI32 g d a b) := length_one rfl
theorem Length.vshrI32 (g : Guard) (d a b : Reg6) : Length.Statement (.vshrI32 g d a b) := length_one rfl
theorem Length.vnot (g : Guard) (d a : Reg6) : Length.Statement (.vnot g d a) := length_one rfl
theorem Length.vmov (g : Guard) (d a : Reg6) : Length.Statement (.vmov g d a) := length_one rfl
theorem Length.vicmp (g : Guard) (c : ICond) (pd : PReg) (a b : Reg6) (w : Width) :
    Length.Statement (.vicmp g c pd a b w) := length_one rfl
theorem Length.vsel (g : Guard) (d a b : Reg6) (w : Width) : Length.Statement (.vsel g d a b w) := length_one rfl
theorem Length.vperm (g : Guard) (d a b : Reg6) : Length.Statement (.vperm g d a b) := length_one rfl
theorem Length.vbcast (g : Guard) (d a b : Reg6) : Length.Statement (.vbcast g d a b) := length_one rfl
theorem Length.vins (g : Guard) (d a b : Reg6) : Length.Statement (.vins g d a b) := length_one rfl
theorem Length.vext (g : Guard) (d a b : Reg6) : Length.Statement (.vext g d a b) := length_one rfl
theorem Length.vziplo (g : Guard) (d a b : Reg6) : Length.Statement (.vziplo g d a b) := length_one rfl
theorem Length.vziphi (g : Guard) (d a b : Reg6) : Length.Statement (.vziphi g d a b) := length_one rfl
theorem Length.vcomp (g : Guard) (d a : Reg6) : Length.Statement (.vcomp g d a) := length_one rfl
theorem Length.vsplati (g : Guard) (d : Reg6) (imm : BitVec 9) : Length.Statement (.vsplati g d imm) := length_one rfl
theorem Length.vdotS8 (g : Guard) (d a b : Reg6) : Length.Statement (.vdotS8 g d a b) := length_one rfl
theorem Length.vdotU8 (g : Guard) (d a b : Reg6) : Length.Statement (.vdotU8 g d a b) := length_one rfl
theorem Length.vdotSu8 (g : Guard) (d a b : Reg6) : Length.Statement (.vdotSu8 g d a b) := length_one rfl
theorem Length.vredAddF32 (g : Guard) (d a : Reg6) : Length.Statement (.vredAddF32 g d a) := length_one rfl
theorem Length.vredMaxF32 (g : Guard) (d a : Reg6) : Length.Statement (.vredMaxF32 g d a) := length_one rfl
theorem Length.vredMinF32 (g : Guard) (d a : Reg6) : Length.Statement (.vredMinF32 g d a) := length_one rfl
theorem Length.vredAddI32 (g : Guard) (d a : Reg6) : Length.Statement (.vredAddI32 g d a) := length_one rfl
theorem Length.vredMaxS32 (g : Guard) (d a : Reg6) : Length.Statement (.vredMaxS32 g d a) := length_one rfl
theorem Length.vredMinS32 (g : Guard) (d a : Reg6) : Length.Statement (.vredMinS32 g d a) := length_one rfl
theorem Length.vredMaxuI32 (g : Guard) (d a : Reg6) : Length.Statement (.vredMaxuI32 g d a) := length_one rfl
theorem Length.vredMinuI32 (g : Guard) (d a : Reg6) : Length.Statement (.vredMinuI32 g d a) := length_one rfl
theorem Length.vcvt (g : Guard) (d a : Reg6) (sty dty : Ty) (rm : Rm) :
    Length.Statement (.vcvt g d a sty dty rm) := length_one rfl
theorem Length.vhist (g : Guard) (d a b : Reg6) (ty : Ty) : Length.Statement (.vhist g d a b ty) := length_one rfl
theorem Length.vaddIw (g : Guard) (d a b : Reg6) (w : Width) :
    Length.Statement (.vaddIw g d a b w) := length_two rfl (by decide) (by decide) (by decide)
theorem Length.vsubIw (g : Guard) (d a b : Reg6) (w : Width) :
    Length.Statement (.vsubIw g d a b w) := length_two rfl (by decide) (by decide) (by decide)
theorem Length.vmulIw (g : Guard) (d a b : Reg6) (w : Width) :
    Length.Statement (.vmulIw g d a b w) := length_two rfl (by decide) (by decide) (by decide)
theorem Length.vmulhs (g : Guard) (d a b : Reg6) (w : Width) :
    Length.Statement (.vmulhs g d a b w) := length_two rfl (by decide) (by decide) (by decide)
theorem Length.vmulhu (g : Guard) (d a b : Reg6) (w : Width) :
    Length.Statement (.vmulhu g d a b w) := length_two rfl (by decide) (by decide) (by decide)
theorem Length.vadds (g : Guard) (d a b : Reg6) (w : Width) :
    Length.Statement (.vadds g d a b w) := length_two rfl (by decide) (by decide) (by decide)
theorem Length.vaddsu (g : Guard) (d a b : Reg6) (w : Width) :
    Length.Statement (.vaddsu g d a b w) := length_two rfl (by decide) (by decide) (by decide)
theorem Length.vsubs (g : Guard) (d a b : Reg6) (w : Width) :
    Length.Statement (.vsubs g d a b w) := length_two rfl (by decide) (by decide) (by decide)
theorem Length.vsubsu (g : Guard) (d a b : Reg6) (w : Width) :
    Length.Statement (.vsubsu g d a b w) := length_two rfl (by decide) (by decide) (by decide)
theorem Length.vmins (g : Guard) (d a b : Reg6) (w : Width) :
    Length.Statement (.vmins g d a b w) := length_two rfl (by decide) (by decide) (by decide)
theorem Length.vmaxs (g : Guard) (d a b : Reg6) (w : Width) :
    Length.Statement (.vmaxs g d a b w) := length_two rfl (by decide) (by decide) (by decide)
theorem Length.vminu (g : Guard) (d a b : Reg6) (w : Width) :
    Length.Statement (.vminu g d a b w) := length_two rfl (by decide) (by decide) (by decide)
theorem Length.vmaxu (g : Guard) (d a b : Reg6) (w : Width) :
    Length.Statement (.vmaxu g d a b w) := length_two rfl (by decide) (by decide) (by decide)
theorem Length.vshl (g : Guard) (d a b : Reg6) (w : Width) :
    Length.Statement (.vshl g d a b w) := length_two rfl (by decide) (by decide) (by decide)
theorem Length.vshr (g : Guard) (d a b : Reg6) (w : Width) :
    Length.Statement (.vshr g d a b w) := length_two rfl (by decide) (by decide) (by decide)
theorem Length.vsra (g : Guard) (d a b : Reg6) (w : Width) :
    Length.Statement (.vsra g d a b w) := length_two rfl (by decide) (by decide) (by decide)
theorem Length.vmad (g : Guard) (d a b c : Reg6) (w : Width) :
    Length.Statement (.vmad g d a b c w) := length_two rfl (by decide) (by decide) (by decide)
theorem Length.vdivs (g : Guard) (d a b : Reg6) (w : Width) :
    Length.Statement (.vdivs g d a b w) := length_two rfl (by decide) (by decide) (by decide)
theorem Length.vdivu (g : Guard) (d a b : Reg6) (w : Width) :
    Length.Statement (.vdivu g d a b w) := length_two rfl (by decide) (by decide) (by decide)
theorem Length.vabsIw (g : Guard) (d a : Reg6) (w : Width) :
    Length.Statement (.vabsIw g d a w) := length_two rfl (by decide) (by decide) (by decide)
theorem Length.vredAdd (g : Guard) (d a : Reg6) (ty : Ty) (rm : Rm) :
    Length.Statement (.vredAdd g d a ty rm) := length_two rfl (by decide) (by decide) (by decide)
theorem Length.vredMax (g : Guard) (d a : Reg6) (ty : Ty) :
    Length.Statement (.vredMax g d a ty) := length_two rfl (by decide) (by decide) (by decide)
theorem Length.vredMin (g : Guard) (d a : Reg6) (ty : Ty) :
    Length.Statement (.vredMin g d a ty) := length_two rfl (by decide) (by decide) (by decide)
theorem Length.vtopk (g : Guard) (d a b c : Reg6) (ty : Ty) :
    Length.Statement (.vtopk g d a b c ty) := length_two rfl (by decide) (by decide) (by decide)
theorem Length.vcvtL (g : Guard) (d a : Reg6) (sty dty : Ty) (rm : Rm) (k n : Reg6) :
    Length.Statement (.vcvtL g d a sty dty rm k n) := length_two rfl (by decide) (by cases dty <;> decide) (by decide)
theorem Length.vqsc (g : Guard) (d a b : Reg6) (sty dty : Ty) (rm : Rm) (k n : Reg6) :
    Length.Statement (.vqsc g d a b sty dty rm k n) := length_two rfl (by decide) (by cases dty <;> decide) (by decide)
theorem Length.vpack (g : Guard) (d a : Reg6) (mx : Mx) (ty : Ty) (rm : Rm) (k n : Reg6) :
    Length.Statement (.vpack g d a mx ty rm k n) := length_two rfl (by decide) (by decide) (by decide)
theorem Length.vunpk (g : Guard) (d a : Reg6) (mx : Mx) (ty : Ty) (rm : Rm) (k n : Reg6) :
    Length.Statement (.vunpk g d a mx ty rm k n) := length_two rfl (by decide) (by decide) (by decide)
theorem Length.vhistMx (g : Guard) (d a b : Reg6) (mx : Mx) :
    Length.Statement (.vhistMx g d a b mx) := length_two rfl (by decide) (by decide) (by decide)
theorem Length.ld (g : Guard) (d a : Reg6) (sz : LdSz) (off : BitVec 6) :
    Length.Statement (.ld g d a sz off) := length_one rfl
theorem Length.st (g : Guard) (d a : Reg6) (w : Width) (off : BitVec 6) :
    Length.Statement (.st g d a w off) := length_one rfl
theorem Length.vld (g : Guard) (d a : Reg6) (w : Width) (off : BitVec 6) :
    Length.Statement (.vld g d a w off) := length_one rfl
theorem Length.vst (g : Guard) (d a : Reg6) (w : Width) (off : BitVec 6) :
    Length.Statement (.vst g d a w off) := length_one rfl
theorem Length.ldx (g : Guard) (d a : Reg6) (sz : LdSz) (sc : Scope) (o : Ordr) (imm : BitVec 32) :
    Length.Statement (.ldx g d a sz sc o imm) := length_two rfl (by decide) (by cases sz <;> decide) (by decide)
theorem Length.stx (g : Guard) (d a : Reg6) (w : Width) (sc : Scope) (o : Ordr) (imm : BitVec 32) :
    Length.Statement (.stx g d a w sc o imm) := length_two rfl (by decide) (by cases w <;> decide) (by decide)
theorem Length.vlds (g : Guard) (d a b : Reg6) (w : Width) : Length.Statement (.vlds g d a b w) := length_one rfl
theorem Length.vsts (g : Guard) (d a b : Reg6) (w : Width) : Length.Statement (.vsts g d a b w) := length_one rfl
theorem Length.vgath (g : Guard) (d a b : Reg6) (w : Width) : Length.Statement (.vgath g d a b w) := length_one rfl
theorem Length.vscat (g : Guard) (d a b : Reg6) (w : Width) : Length.Statement (.vscat g d a b w) := length_one rfl
theorem Length.fence (g : Guard) (d : Reg6) (sc : Scope) : Length.Statement (.fence g d sc) := length_one rfl
theorem Length.atom (g : Guard) (d a b c : Reg6) (op : AOp) (aw : AWidth) (o : Ordr) (sc : Scope) (imm : BitVec 16) :
    Length.Statement (.atom g d a b c op aw o sc imm) := length_two rfl (by decide) (by decide) (by decide)
theorem Length.ftst (g : Guard) (pd : PReg) (a : Reg6) (cl : RClass) (set : BitVec 3) :
    Length.Statement (.ftst g pd a cl set) := length_one rfl
theorem Length.fmov (g : Guard) (d a : Reg6) (cl : RClass) : Length.Statement (.fmov g d a cl) := length_one rfl
theorem Length.fdrop (g : Guard) (d : Reg6) (cl : RClass) : Length.Statement (.fdrop g d cl) := length_one rfl
theorem Length.fwait (g : Guard) (a : Reg6) (cl : RClass) : Length.Statement (.fwait g a cl) := length_one rfl
theorem Length.tmark (g : Guard) (d : Reg6) : Length.Statement (.tmark g d) := length_one rfl
theorem Length.phReg (g : Guard) (a b : Reg6) : Length.Statement (.phReg g a b) := length_one rfl
theorem Length.phArrive (g : Guard) (a : Reg6) : Length.Statement (.phArrive g a) := length_one rfl
theorem Length.phWait (g : Guard) (d a b : Reg6) : Length.Statement (.phWait g d a b) := length_one rfl
theorem Length.phDereg (g : Guard) (a : Reg6) : Length.Statement (.phDereg g a) := length_one rfl
theorem Length.phRole (g : Guard) (a b : Reg6) : Length.Statement (.phRole g a b) := length_one rfl
theorem Length.phInit (g : Guard) (a b : Reg6) : Length.Statement (.phInit g a b) := length_one rfl
theorem Length.fpoison (g : Guard) (d : Reg6) (cl : RClass) (code : BitVec 16) :
    Length.Statement (.fpoison g d cl code) := length_two rfl (by decide) (by decide) (by decide)
theorem Length.semWait (g : Guard) (d a b : Reg6) (c : SCond) : Length.Statement (.semWait g d a b c) := length_one rfl
theorem Length.qseq (g : Guard) (d a b : Reg6) : Length.Statement (.qseq g d a b) := length_one rfl
theorem Length.qseqLane (g : Guard) (d a b : Reg6) : Length.Statement (.qseqLane g d a b) := length_one rfl
theorem Length.qtbl (g : Guard) (d a b : Reg6) : Length.Statement (.qtbl g d a b) := length_one rfl
theorem Length.vrand (g : Guard) (d a b : Reg6) : Length.Statement (.vrand g d a b) := length_one rfl
theorem Length.probeR (g : Guard) (d a b : Reg6) : Length.Statement (.probeR g d a b) := length_one rfl
theorem Length.probeW (g : Guard) (d a b : Reg6) : Length.Statement (.probeW g d a b) := length_one rfl
theorem Length.cpCopy (g : Guard) (d a b c : Reg6) (ord bar hist ring : Bool) (hty : Ty) (eng : BitVec 3) :
    Length.Statement (.cpCopy g d a b c ord bar hist ring hty eng) := length_two rfl (by decide) (by decide) (by decide)
theorem Length.cpFill (g : Guard) (d a b c : Reg6) (ord bar ring : Bool) (eng : BitVec 3) :
    Length.Statement (.cpFill g d a b c ord bar ring eng) := length_two rfl (by decide) (by decide) (by decide)
theorem Length.cpCvt (g : Guard) (d a b c : Reg6) (ord bar hist ring : Bool) (dty sty : Ty) (rm : Rm) (eng : BitVec 3) :
    Length.Statement (.cpCvt g d a b c ord bar hist ring dty sty rm eng) := length_two rfl (by decide) (by decide) (by decide)
theorem Length.cpStride (g : Guard) (d a b c : Reg6) (ord bar hist : Bool) (hty : Ty) (eng : BitVec 3) :
    Length.Statement (.cpStride g d a b c ord bar hist hty eng) := length_two rfl (by decide) (by decide) (by decide)
theorem Length.ringAdvFill (g : Guard) (d a b : Reg6) :
    Length.Statement (.ringAdvFill g d a b) := length_two rfl (by decide) (by decide) (by decide)
theorem Length.ringAdvFree (g : Guard) (d a b : Reg6) :
    Length.Statement (.ringAdvFree g d a b) := length_two rfl (by decide) (by decide) (by decide)
theorem Length.ringWaitFill (g : Guard) (d a b : Reg6) :
    Length.Statement (.ringWaitFill g d a b) := length_two rfl (by decide) (by decide) (by decide)
theorem Length.ringWaitFree (g : Guard) (d a b : Reg6) :
    Length.Statement (.ringWaitFree g d a b) := length_two rfl (by decide) (by decide) (by decide)
theorem Length.ringReset (g : Guard) (d a b c : Reg6) :
    Length.Statement (.ringReset g d a b c) := length_two rfl (by decide) (by decide) (by decide)
theorem Length.collArm (g : Guard) (d a : Reg6) :
    Length.Statement (.collArm g d a) := length_two rfl (by decide) (by decide) (by decide)
theorem Length.collDisarm (g : Guard) (d a : Reg6) :
    Length.Statement (.collDisarm g d a) := length_two rfl (by decide) (by decide) (by decide)
theorem Length.collGo (g : Guard) (d a : Reg6) :
    Length.Statement (.collGo g d a) := length_two rfl (by decide) (by decide) (by decide)
theorem Length.collGoResume (g : Guard) (d a : Reg6) :
    Length.Statement (.collGoResume g d a) := length_two rfl (by decide) (by decide) (by decide)
theorem Length.launch (g : Guard) (d a : Reg6) (unord endd : Bool) :
    Length.Statement (.launch g d a unord endd) := length_two rfl (by decide) (by decide) (by decide)
theorem Length.strmGoTile (g : Guard) (d a b : Reg6) (ref : Bool) (tile : BitVec 5) :
    Length.Statement (.strmGoTile g d a b ref tile) := length_two rfl (by decide) (by decide) (by decide)
theorem Length.strmGoBus (g : Guard) (d a b : Reg6) (ref : Bool) (bus : BitVec 2) :
    Length.Statement (.strmGoBus g d a b ref bus) := length_two rfl (by decide) (by decide) (by decide)
theorem Length.strmReg (g : Guard) (d a : Reg6) (tile : BitVec 5) :
    Length.Statement (.strmReg g d a tile) := length_two rfl (by decide) (by decide) (by decide)
theorem Length.strmDereg (g : Guard) (d : Reg6) (tile : BitVec 5) :
    Length.Statement (.strmDereg g d tile) := length_two rfl (by decide) (by decide) (by decide)
theorem Length.lnkAlign (g : Guard) (d a : Reg6) :
    Length.Statement (.lnkAlign g d a) := length_two rfl (by decide) (by decide) (by decide)
theorem Length.sEnd : Length.Statement .sEnd := length_one rfl
theorem Length.sJmp (t : BitVec 16) : Length.Statement (.sJmp t) := length_one rfl
theorem Length.sLoop (l : BitVec 2) (t : BitVec 16) : Length.Statement (.sLoop l t) := length_one rfl
theorem Length.sSetlc (l : BitVec 2) (imm : BitVec 24) : Length.Statement (.sSetlc l imm) := length_one rfl
theorem Length.sBrz (l : BitVec 2) (t : BitVec 16) : Length.Statement (.sBrz l t) := length_one rfl
theorem Length.sWnow (imm : BitVec 24) : Length.Statement (.sWnow imm) := length_one rfl
theorem Length.sWin (wd : BitVec 8) : Length.Statement (.sWin wd) := length_one rfl
theorem Length.sGain (gain : BitVec 5) : Length.Statement (.sGain gain) := length_one rfl
theorem Length.sFmt (f : BitVec 2) : Length.Statement (.sFmt f) := length_one rfl
theorem Length.sFmtA (f : BitVec 2) : Length.Statement (.sFmtA f) := length_one rfl
theorem Length.sScl (m : BitVec 1) (x : BitVec 8) : Length.Statement (.sScl m x) := length_one rfl
theorem Length.sRing (role : BitVec 2) (core : BitVec 7) (ring : BitVec 4) :
    Length.Statement (.sRing role core ring) := length_one rfl
theorem Length.sMode (r : BitVec 1) : Length.Statement (.sMode r) := length_one rfl
theorem Length.sSelb (sel : BitVec 3) : Length.Statement (.sSelb sel) := length_one rfl
theorem Length.sAcc (n : BitVec 2) : Length.Statement (.sAcc n) := length_one rfl
theorem Length.sAclr (n : BitVec 2) : Length.Statement (.sAclr n) := length_one rfl
theorem Length.sRun (k : BitVec 1) : Length.Statement (.sRun k) := length_one rfl
theorem Length.sDrain (bar z : BitVec 1) (rm ty : BitVec 3) (n : BitVec 2) :
    Length.Statement (.sDrain bar z rm ty n) := length_one rfl
theorem Length.sOrst : Length.Statement .sOrst := length_one rfl
theorem Length.badStreamOp (w : BitVec 32) : Length.Statement (.badStreamOp w) := length_one rfl
theorem Length.completion : Length.Statement .completion := length_none rfl
theorem Length.chunk : Length.Statement .chunk := length_none rfl
theorem Length.rebase : Length.Statement .rebase := length_none rfl
theorem Length.transfer : Length.Statement .transfer := length_none rfl
theorem Length.transferReceive : Length.Statement .transferReceive := length_none rfl
theorem Length.transferAck : Length.Statement .transferAck := length_none rfl
theorem Length.releaseNotice : Length.Statement .releaseNotice := length_none rfl
theorem Length.noticeRequest : Length.Statement .noticeRequest := length_none rfl
theorem Length.noticeRequestRetry : Length.Statement .noticeRequestRetry := length_none rfl
theorem Length.noticeWaitTimeout : Length.Statement .noticeWaitTimeout := length_none rfl
theorem Length.ackTimeout : Length.Statement .ackTimeout := length_none rfl
theorem Length.quarantineEnd : Length.Statement .quarantineEnd := length_none rfl
theorem Length.frameBoundary : Length.Statement .frameBoundary := length_none rfl
theorem Length.accumulation : Length.Statement .accumulation := length_none rfl
theorem Length.importFrame : Length.Statement .importFrame := length_none rfl
theorem Length.combLoss : Length.Statement .combLoss := length_none rfl
theorem Length.lineLowTimeout : Length.Statement .lineLowTimeout := length_none rfl
theorem Length.shadowCheck : Length.Statement .shadowCheck := length_none rfl
theorem Length.trackerService : Length.Statement .trackerService := length_none rfl
theorem Length.moveSettle : Length.Statement .moveSettle := length_none rfl
theorem Length.patrolScrub : Length.Statement .patrolScrub := length_none rfl
theorem Length.holdTimeout : Length.Statement .holdTimeout := length_none rfl
theorem Length.invAll : Length.Statement .invAll := length_none rfl
theorem Length.invAsid : Length.Statement .invAsid := length_none rfl
theorem Length.invRange : Length.Statement .invRange := length_none rfl
theorem Length.invalidationComplete : Length.Statement .invalidationComplete := length_none rfl
theorem Length.resolved : Length.Statement .resolved := length_none rfl
theorem Length.invalid : Length.Statement .invalid := length_none rfl
theorem Length.residencyTimeout : Length.Statement .residencyTimeout := length_none rfl
theorem Length.doorbell : Length.Statement .doorbell := length_none rfl
theorem Length.qctl : Length.Statement .qctl := length_none rfl
theorem Length.acceptance : Length.Statement .acceptance := length_none rfl
theorem Length.semaphoreRead : Length.Statement .semaphoreRead := length_none rfl
theorem Length.start : Length.Statement .start := length_none rfl
theorem Length.dispatch : Length.Statement .dispatch := length_none rfl
theorem Length.holdClusters : Length.Statement .holdClusters := length_none rfl
theorem Length.preEmption : Length.Statement .preEmption := length_none rfl
theorem Length.save : Length.Statement .save := length_none rfl
theorem Length.restore : Length.Statement .restore := length_none rfl
theorem Length.packEnd : Length.Statement .packEnd := length_none rfl
theorem Length.regionKill : Length.Statement .regionKill := length_none rfl
theorem Length.powerOn : Length.Statement .powerOn := length_none rfl
theorem Length.conventionalReset : Length.Statement .conventionalReset := length_none rfl
theorem Length.config : Length.Statement .config := length_none rfl
theorem Length.ident : Length.Statement .ident := length_none rfl
theorem Length.memup : Length.Statement .memup := length_none rfl
theorem Length.optic : Length.Statement .optic := length_none rfl
theorem Length.ready : Length.Statement .ready := length_none rfl
theorem Length.linkDown : Length.Statement .linkDown := length_none rfl
theorem Length.linkUp : Length.Statement .linkUp := length_none rfl
theorem Length.trip : Length.Statement .trip := length_none rfl
theorem Length.tripRecovery : Length.Statement .tripRecovery := length_none rfl
theorem Length.cxlMemAccess : Length.Statement .cxlMemAccess := length_none rfl
theorem Length.remoteAccess : Length.Statement .remoteAccess := length_none rfl
theorem Length.forward : Length.Statement .forward := length_none rfl
theorem Length.bankSwap : Length.Statement .bankSwap := length_none rfl
theorem Length.beacon : Length.Statement .beacon := length_none rfl
theorem Length.failover : Length.Statement .failover := length_none rfl
theorem Length.ptpMessage : Length.Statement .ptpMessage := length_none rfl
theorem Length.holdover : Length.Statement .holdover := length_none rfl
theorem Length.resv : Length.Statement .resv := length_none rfl
theorem Length.commit : Length.Statement .commit := length_none rfl
theorem Length.minm : Length.Statement .minm := length_none rfl
theorem Length.counterClear : Length.Statement .counterClear := length_none rfl
theorem Length.optreqClear : Length.Statement .optreqClear := length_none rfl
theorem Length.optreqSet : Length.Statement .optreqSet := length_none rfl
theorem Length.rbsel : Length.Statement .rbsel := length_none rfl
theorem Length.retire : Length.Statement .retire := length_none rfl
theorem Length.registerWrite : Length.Statement .registerWrite := length_none rfl
theorem Length.identify : Length.Statement .identify := length_none rfl
theorem Length.getHealthInfo : Length.Statement .getHealthInfo := length_none rfl
theorem Length.getFwInfo : Length.Statement .getFwInfo := length_none rfl
theorem Length.transferFw : Length.Statement .transferFw := length_none rfl
theorem Length.activateFw : Length.Statement .activateFw := length_none rfl
theorem Length.unsupported : Length.Statement .unsupported := length_none rfl
theorem Length.getVersion : Length.Statement .getVersion := length_none rfl
theorem Length.getCapabilities : Length.Statement .getCapabilities := length_none rfl
theorem Length.negotiateAlgorithms : Length.Statement .negotiateAlgorithms := length_none rfl
theorem Length.getDigests : Length.Statement .getDigests := length_none rfl
theorem Length.getCertificate : Length.Statement .getCertificate := length_none rfl
theorem Length.challenge : Length.Statement .challenge := length_none rfl
theorem Length.getMeasurements : Length.Statement .getMeasurements := length_none rfl
theorem Length.attach : Length.Statement .attach := length_none rfl
theorem Length.detach : Length.Statement .detach := length_none rfl
theorem Length.halt : Length.Statement .halt := length_none rfl
theorem Length.haltComplete : Length.Statement .haltComplete := length_none rfl
theorem Length.resume : Length.Statement .resume := length_none rfl
theorem Length.rewind : Length.Statement .rewind := length_none rfl
theorem Length.replay : Length.Statement .replay := length_none rfl
theorem Length.trim : Length.Statement .trim := length_none rfl
theorem Length.watch : Length.Statement .watch := length_none rfl
theorem Length.acknowledgement : Length.Statement .acknowledgement := length_none rfl
theorem Length.replayParked : Length.Statement .replayParked := length_none rfl
theorem Length.importLight : Length.Statement .importLight := length_none rfl

end Sys2Proof.Laws
end

