-- ==== Sys2Proof/Laws/Produce.lean ====
section
/-! SUPPORT. Issuing a producer, said once: the checks of step 6 that pass, the binding, and the thread after it. -/

namespace Sys2Proof.Machine

/-- A search from lo on finds a number below its end that passes. -/
theorem findFrom_spec {f : Nat → Bool} {n : Nat} : ∀ {lo i : Nat}, findFrom f lo n = some i → lo ≤ i ∧ i < lo + n ∧ f i = true := by
  induction n with
  | zero => intro lo i h; cases h
  | succ n ih =>
    intro lo i h
    unfold findFrom at h
    split at h
    · cases h; exact ⟨Nat.le_refl _, by omega, ‹_›⟩
    · obtain ⟨a, b, c⟩ := ih h; exact ⟨by omega, by omega, c⟩

/-- The entry that a producer takes is one of the table's, no binding holds it, and nothing carries its next tag (R34). -/
theorem State.freeSlot_spec {s : State} {core i : Nat} (h : s.freeSlot core = some i) :
    i < 512 ∧ (∀ b ∈ s.binds, ¬(b.holder.isSome = true ∧ b.entryCore = core ∧ b.entry = i))
      ∧ s.tagLives core i ((s.epoch core i + 1) % 256) = false := by
  obtain ⟨-, h1, h2⟩ := findFrom_spec h
  simp only [Bool.and_eq_true, Bool.not_eq_true', List.any_eq_false, beq_iff_eq] at h2
  exact ⟨by omega, fun b hb k => h2.1 b hb ⟨⟨k.1, k.2.1⟩, k.2.2⟩, h2.2⟩

/-- An access of a thread none of whose loads and atomics is still to be performed takes its place now (R62). -/
@[simp] theorem State.inOrder_next {s : State} (h : s.behind = false) (body : State → State) : s.inOrder body = body s := by
  unfold State.inOrder
  rw [if_neg (by simp [h])]

/-- One behind such a load or atomic waits. -/
theorem State.inOrder_behind {s : State} (h : s.behind = true) (body : State → State) : s.inOrder body = s.wait := if_pos h

/-- Without a trail or a watchpoint, the end of step 6 lets an instruction on. -/
theorem State.admitted_quiet {s : State} (q : s.Quiet) (n : Nat) (body : State → State) : s.admitted n none body = body s := by
  unfold State.admitted State.inOrder
  rw [if_neg (by simp [q.behind])]
  simp only [q.trail]
  simp [State.admitEntry, q.stalled]

/-- The same, where the instruction accesses ranges. -/
theorem State.checked_quiet {s : State} (q : s.Quiet) (n : Nat) (r w : Bool) (ranges : List (Nat × Nat))
    (body : State → State) : s.checked n r w ranges body = body s := by
  unfold State.checked State.watched
  rw [if_pos q.watches, s.admitted_quiet q]

/-- What issuing a producer leaves carries over to a state with the same threads and bindings. -/
theorem Issued.of {s u t : State} {i cls : Nat} {mask : BitVec 256} {len : Nat} {fs : List Fate} {tag : ITag}
    (h : Issued s u i cls mask len fs tag) (ht : t.threads = u.threads) (hc : t.cur = u.cur) (hb : t.binds = u.binds) :
    Issued s t i cls mask len fs tag := by
  have e : ∀ g, t.thread g = u.thread g := fun g => by unfold State.thread; rw [ht]
  have e' : t.thr = u.thr := by unfold State.thr; rw [e, hc]
  exact ⟨h.1, by rw [hb]; exact h.2, by rw [e']; exact h.3, by rw [e']; exact h.4, by rw [e']; exact h.5,
    by rw [e']; exact h.6, by rw [e']; exact h.7, by rw [e']; exact h.8, fun g hg => by rw [e]; exact h.9 g hg⟩

/-- What binding a register of the current thread and moving on leaves. -/
theorem State.bind_advance (s : State) (i cls : Nat) (mask : BitVec 256) (len : Nat) :
    (s.bind s.cur i cls mask).1.advance len =
      { s with
        epochs := tset s.epochs (coreOf s.cur * 512 + (s.bind s.cur i cls mask).2.slot) (s.bind s.cur i cls mask).2.epoch
        binds := s.binds ++ [{ tag := (s.bind s.cur i cls mask).2, entryCore := s.cur / 8
                               entry := (s.bind s.cur i cls mask).2.slot, mask := mask
                               loc := if isConst i then .sink s.cur else .reg s.cur i }]
        threads := ((s.bind s.cur i cls mask).1.advance len).threads } := by
  unfold State.advance State.onThr State.setThr State.setThread State.bind
  rfl

theorem State.thr_bind_advance (s : State) (i cls : Nat) (mask : BitVec 256) (len : Nat) :
    ((s.bind s.cur i cls mask).1.advance len).thr =
      (s.thr.setState i (.pending (tagBits (s.bind s.cur i cls mask).2.epoch cls (s.bind s.cur i cls mask).2.slot))).advance
        len := by
  unfold State.advance
  rw [State.thr_onThr]
  congr 1
  unfold State.bind State.thr
  simp only [State.setThread_cur, State.thread_setThread, if_true]
  rfl

theorem State.thread_bind_advance (s : State) (i cls : Nat) (mask : BitVec 256) (len : Nat) {g : Nat} (hg : g ≠ s.cur) :
    ((s.bind s.cur i cls mask).1.advance len).thread g = s.thread g := by
  unfold State.advance
  rw [State.onThr_eq, State.thread_setThread]
  have e : (s.bind s.cur i cls mask).1.cur = s.cur := rfl
  rw [if_neg (e ▸ hg)]
  unfold State.bind
  simp only [State.thread_setThread, if_neg hg]
  rfl

/-- A producer that finds an entry is issued, and nothing else changes. -/
theorem State.produce_issued {s : State} (h : s.mayBind s.cur = true) {i : Nat} (hi : i < 144) (cls : Nat)
    (mask : BitVec 256) (len : Nat) :
    ∃ u tag, Issued s u i cls mask len [] tag
      ∧ u = { s with threads := u.threads, binds := u.binds, epochs := u.epochs }
      ∧ ∀ body, s.produce i cls mask len body = body tag s.ctx u := by
  refine ⟨(s.bind s.cur i cls mask).1.advance len, (s.bind s.cur i cls mask).2, ?_, ?_, ?_⟩
  · have hb := s.bind_advance i cls mask len
    have ht := s.thr_bind_advance i cls mask len
    generalize hu : (s.bind s.cur i cls mask).1.advance len = u at *
    have h5 : ∀ r, (s.thr.setState i r).pc = s.thr.pc ∧ (s.thr.setState i r).count = s.thr.count
        ∧ (s.thr.setState i r).unacked = s.thr.unacked
        ∧ { (s.thr.setState i r) with st := s.thr.st } = s.thr := fun r => by
      unfold Thread.setState; split <;> exact ⟨rfl, rfl, rfl, rfl⟩
    constructor
    · exact ⟨rfl, rfl⟩
    · rw [hb]
    · intro hc
      rw [ht, Thread.advance_rstate, Thread.rstate_setState]
      simp [hc, hi]
    · intro j hj hd
      rw [ht, Thread.advance_rstate, Thread.rstate_setState]
      split
      · rename_i hc
        rcases hd with hd | hd
        · exact absurd hc.1 hd
        · simp [hd] at hc
      · rfl
    · rw [ht, Thread.advance_pc, (h5 _).1]
    · rw [ht]
      show (s.thr.setState i _).count.toNat = _
      rw [(h5 _).2.1]
      have := s.thr.count.isLt
      simp only [List.length_nil]; omega
    · rw [ht, List.append_nil]
      exact (h5 _).2.2.1
    · rw [ht]
      refine Eq.trans ?_ (h5 (.pending (tagBits (s.bind s.cur i cls mask).2.epoch cls (s.bind s.cur i cls mask).2.slot))).2.2.2
      unfold Thread.advance Thread.setState
      split <;> rfl
    · intro g hg
      rw [← hu]; exact s.thread_bind_advance i cls mask len hg
  · rw [s.bind_advance]
  · intro body
    unfold State.produce; rw [if_pos h]

end Sys2Proof.Machine
end

