-- ==== Sys2Proof/Laws/VectorOps.lean ====
section
/-! SUPPORT. One law for each shared operation of the vector instructions. -/

namespace Sys2Proof.Machine

/-- Two sources of w bits (R165, R166). -/
theorem int2_merges {i : Instr} {s : State} {w : Nat} {f f' : BitVec w → BitVec w → BitVec w} {g : Guard} {d a b : Reg6}
    {len : Nat} (hx : exec i s = int2 w f g d a b len s) (hf : ∀ x y, f x y = f' x y)
    (h : (LaneEffect.int2 s.thr w f' g d a b len).ready s) : Merges i (LaneEffect.int2 s.thr w f' g d a b len) s := by
  refine vecMap_merges (f := fun t e => ((f (BitVec.ofNat w (elem w (t.vreg a) e)) (BitVec.ofNat w (elem w (t.vreg b) e))).toNat, 0))
    h (Nat.le_refl _) hx ?_
  intro e; rw [hf]; rfl

/-- One source of w bits. -/
theorem int1_merges {i : Instr} {s : State} {w : Nat} {f f' : BitVec w → BitVec w} {g : Guard} {d a : Reg6} {len : Nat}
    (hx : exec i s = int1 w f g d a len s) (hf : ∀ x, f x = f' x)
    (h : (LaneEffect.int1 s.thr w f' g d a len).ready s) : Merges i (LaneEffect.int1 s.thr w f' g d a len) s := by
  refine vecMap_merges (f := fun t e => ((f (BitVec.ofNat w (elem w (t.vreg a) e))).toNat, 0)) h (Nat.le_refl _) hx ?_
  intro e; rw [hf]; rfl

/-- A permute that merges per lane (R170). -/
theorem permute_merges {i : Instr} {s : State} {g : Guard} {reads : List Nat} {d : Reg6} {pick : Thread → Nat → Nat}
    {value : Nat → Nat} (hx : exec i s = permute g reads d pick s) (hf : ∀ e, pick s.thr e = value e)
    (h : (LaneEffect.move g reads d value).ready s) : Merges i (LaneEffect.move g reads d value) s := by
  refine vecMap_merges (f := fun t e => (pick t e, 0)) h (Nat.le_refl _) hx ?_
  intro e; rw [hf]; rfl

theorem rbits_drawn (t : Thread) (k n : Reg6) (e : Nat) : rbits (t.sreg k) (t.sreg n) e = drawn t k n e := by
  simp [rbits, drawn, bits]

/-- A rounding instruction in the mode that applies. -/
theorem rounded_merges {i : Instr} {s : State} {layout width : Nat} {g : Guard} {srcs : List Nat} {d : Reg6} {rm m : Rm}
    {k n : Reg6} {len : Nat} {f : Rm → Thread → Nat → Nat → Nat × Nat} {r : Nat → Nat × Nat} (hw : width ≤ layout)
    (hx : exec i s = vecRound layout width g srcs d rm k n len f s) (hm : modeOf rm s.thr.fprm = some m)
    (hf : ∀ e, f m s.thr (drawn s.thr k n e) e = r e)
    (h : (LaneEffect.rounded g srcs d rm k n len layout width r).ready s) :
    Merges i (LaneEffect.rounded g srcs d rm k n len layout width r) s := by
  refine vecRound_merges (srcs := srcs) (rm := rm) (k := k) (n := n) (f := f) h hw rfl hm hx ?_
  intro e; rw [rbits_drawn, hf]; rfl

/-- One source, one rounding (R163). -/
theorem fp1_merges {i : Instr} {s : State} {g : Guard} {d a : Reg6} {ty : Ty} {m rm : Rm} {k n : Reg6} {len : Nat}
    {op : Val → Op} (hx : exec i s = fp1 op g d a ty rm k n len s) (hm : modeOf rm s.thr.fprm = some m)
    (h : (fpUnary (fmtOf ty) op m s.thr g d a rm k n len).ready s) : Merges i (fpUnary (fmtOf ty) op m s.thr g d a rm k n len) s :=
  rounded_merges (f := fun m t rb e => (fmtOf ty).finish m rb (op ((fmtOf ty).val (elem (fmtOf ty).width (t.vreg a) e))))
    (Nat.le_refl _) hx hm (fun _ => rfl) h

/-- Two sources, one rounding (R163). -/
theorem fp2_merges {i : Instr} {s : State} {g : Guard} {d a b : Reg6} {ty : Ty} {m rm : Rm} {k n : Reg6} {len : Nat}
    {op : Rm → Val → Val → Op} (hx : exec i s = fp2 op g d a b ty rm k n len s) (hm : modeOf rm s.thr.fprm = some m)
    (h : (fpBinary (fmtOf ty) (op m) m s.thr g d a b rm k n len).ready s) :
    Merges i (fpBinary (fmtOf ty) (op m) m s.thr g d a b rm k n len) s :=
  rounded_merges (f := fun m t rb e => (fmtOf ty).finish m rb (op m ((fmtOf ty).val (elem (fmtOf ty).width (t.vreg a) e)) ((fmtOf ty).val (elem (fmtOf ty).width (t.vreg b) e))))
    (Nat.le_refl _) hx hm (fun _ => rfl) h

/-- Three sources, one rounding (R163). -/
theorem fp3_merges {i : Instr} {s : State} {g : Guard} {d a b c : Reg6} {ty : Ty} {m rm : Rm} {k n : Reg6}
    {op : Rm → Val → Val → Val → Op} (hx : exec i s = fp3 op g d a b c ty rm k n s) (hm : modeOf rm s.thr.fprm = some m)
    (h : (fpTernary (fmtOf ty) (op m) m s.thr g d a b c rm k n).ready s) :
    Merges i (fpTernary (fmtOf ty) (op m) m s.thr g d a b c rm k n) s :=
  rounded_merges (f := fun m t rb e => (fmtOf ty).finish m rb (op m ((fmtOf ty).val (elem (fmtOf ty).width (t.vreg a) e)) ((fmtOf ty).val (elem (fmtOf ty).width (t.vreg b) e)) ((fmtOf ty).val (elem (fmtOf ty).width (t.vreg c) e))))
    (Nat.le_refl _) hx hm (fun _ => rfl) h

/-- The operands of an instruction that reads its destination where its guard does not activate every element (R158). -/
theorem whole_ready {q : VForm} {s : State} (h : q.ready s) :
    s.Ready q.g (q.reads ++ mergeReads q.layout q.g q.merged s) q.dests where
  guard := h.1.guard
  writes := h.1.writes
  reads := fun i hi => by
    rcases List.mem_append.1 hi with hi | hi
    · exact h.1.reads i hi
    · unfold mergeReads at hi
      split at hi
      · cases hi
      · rename_i hn
        rcases h.2 with hf | hf
        · exact absurd ((full_iff _ _).2 hf) hn
        · exact hf i hi

end Sys2Proof.Machine
end

