-- ==== Sys2Proof/Tests/Slice0.lean ====
section
/-! SUPPORT. Small tests of the model's reading, with results worked out in spec/, and a witness for the hypotheses of every
statement in Certificates/Slice0/Obligations.lean. -/

namespace Sys2Proof.Tests

set_option Elab.async false

open Sys2Proof Sys2Proof.Machine

/-! ### What no encoding admits -/

/-- R112: a compare destination is even and above p1. -/
theorem test_refuses_odd_pair : wellFormed (.cmp 0 .lt 3 5 6) = false ∧ wellFormed (.cmpi 0 .eq 0 5 6) = false
    ∧ wellFormed (.vicmp 0 .eq 5 1 2 .w32) = false ∧ wellFormed (.cmpiL 0 .eq 7 1 2) = false := by decide
/-- R114, R117: VFCMP takes FP32, BF16 or FP16. -/
theorem test_refuses_vfcmp_type : wellFormed (.vfcmp 0 .lt 2 1 2 .e4m3) = false := by decide
/-- R111: k and n are zero unless the mode is SR; the short forms have no SR. -/
theorem test_refuses_unused_key : wellFormed (.vaddL 0 1 2 3 .f32 .rne 4 0) = false
    ∧ wellFormed (.vaddF32 0 1 2 3 .sr) = false ∧ wellFormed (.vredAdd 0 1 2 .f32 .sr) = false := by decide
/-- R171, R173: a conversion has two types; VQSC narrows from FP32, BF16 or FP16. -/
theorem test_refuses_conversions : wellFormed (.vcvt 0 1 2 .f32 .f32 .rne) = false
    ∧ wellFormed (.vqsc 0 1 2 3 .bf16 .int .rne 0 0) = false ∧ wellFormed (.vpack 0 1 2 .mxint8 .f16 .rne 0 0) = false := by decide
/-- R181: VTOPK writes an even register and the one above it. -/
theorem test_refuses_odd_topk : wellFormed (.vtopk 0 11 12 5 13 .f32) = false
    ∧ wellFormed (.vtopk 0 10 12 5 13 .e4m3) = false ∧ wellFormed (.vhist 0 1 2 3 .int) = false := by decide
/-- R143: a field ends within the register. -/
theorem test_refuses_long_field : wellFormed (.bfxu 0 1 2 60 4) = false ∧ wellFormed (.bfi 0 1 2 63 1) = false
    ∧ wellFormed (.bfxs 0 1 2 32 32) = false := by decide
/-- R119, R120: loads acquire, stores release, C is zero but for CAS, and only ADD has floating-point types. -/
theorem test_refuses_orders : wellFormed (.ldx 0 1 2 .x64 .sys .rel 0) = false
    ∧ wellFormed (.stx 0 1 2 .w64 .sys .acq 0) = false ∧ wellFormed (.atom 0 1 2 3 4 .add .i32 .plain .cl 0) = false
    ∧ wellFormed (.atom 0 1 2 3 0 .swap .f32 .plain .cl 0) = false
    ∧ wellFormed (.atom 0 1 2 3 0 .add .i32 .plain .sys 0) = false := by decide
/-- R46, R112: a poison code is at least 0x8000; a predicate field has [5:4] zero. -/
theorem test_refuses_future_fields : wellFormed (.fpoison 0 7 .s 0x7FFF) = false ∧ wellFormed (.fdrop 0 16 .p) = false
    ∧ wellFormed (.fmov 0 1 16 .p) = false ∧ wellFormed (.fwait 0 16 .p) = false ∧ wellFormed (.ftst 0 3 4 .s 2) = false := by
  decide
/-- R213, R216: the group of a copy command ends at s63, and its histogram has a floating-point type. -/
theorem test_refuses_copy_groups : wellFormed (.cpCopy 0 1 2 3 62 false false true false .f32 0) = false
    ∧ wellFormed (.cpCopy 0 1 2 3 4 false false true false .int 0) = false
    ∧ wellFormed (.cpFill 0 1 2 3 63 false true false 0) = false
    ∧ wellFormed (.cpCvt 0 1 2 3 60 false false false false .bf16 .f32 .sr 0) = false
    ∧ wellFormed (.cpStride 0 1 2 3 61 false false false .f32 0) = false := by decide
/-- R15, R149: an index that names no control register. -/
theorem test_refuses_control_register : wellFormed (.crr 0 1 0x02) = false ∧ wellFormed (.crw 0 1 0xFF) = false := by decide
/-- R8: there are 4 dies, 32 tiles, 5 combs and 64 queues. -/
theorem test_refuses_units : (Event.transfer 4 0).wellFormed = false ∧ (Event.accumulation 32).wellFormed = false
    ∧ (Event.combLoss 5).wellFormed = false ∧ (Event.doorbell 64 0).wellFormed = false
    ∧ (Event.dispatch 1 8).wellFormed = false := by decide

/-! ### Words that spec/ writes out -/

/-- spec/06: R138 to R150. -/
theorem test_decodes_scalar : decode 0x04030C01 0 = .ok (.addi 0 6 6 1) ∧ decode 0x06030000 1 = .ok (.movi 0 6 1)
    ∧ decode 0x3003821B 0 = .ok (.shadd 0 7 1 3 3) ∧ decode 0x24000001 0 = .ok (.exit 0)
    ∧ decode 0x14090830 0 = .ok (.cmp 0 .lt 2 4 6) := ⟨rfl, rfl, rfl, rfl, rfl⟩
/-- spec/07: R171, R173, R174, R177. -/
theorem test_decodes_vector : decode 0x80028409 0 = .ok (.vcvt 0 5 2 .f32 .bf16 .rtz)
    ∧ decode 0x8603041B 0x00826801 = .ok (.vqsc 0 6 2 3 .f32 .e4m3 .sr 8 9)
    ∧ decode 0x860A0400 8 = .ok (.vpack 0 20 2 .mxint8 .f32 .rne 0 0) := ⟨rfl, rfl, rfl⟩
/-- spec/08: R188 to R210. -/
theorem test_decodes_memory : decode 0xA00202C1 0 = .ok (.ld 0 4 1 .x64 1) ∧ decode 0xA4008880 0 = .ok (.vld 0 1 4 .w32 0)
    ∧ decode 0xB0028832 0 = .ok (.vgath 0 5 4 6 .w32) ∧ decode 0xB4028002 0 = .ok (.fence 0 5 .sys)
    ∧ decode 0xB6020A30 0x00150010 = .ok (.atom 0 4 5 6 0 .add .i64 .acq .pkg 0x10)
    ∧ decode 0xD8050829 0 = .ok (.probeW 0 10 4 5) := ⟨rfl, rfl, rfl, rfl, rfl, rfl⟩
/-- spec/08: R202 to R211. -/
theorem test_decodes_sync : decode 0xC4000801 0 = .ok (.phArrive 0 4) ∧ decode 0xC8050A3A 0 = .ok (.semWait 0 10 5 7 .geu)
    ∧ decode 0xC2060000 0 = .ok (.tmark 0 12) ∧ decode 0xC00A1801 0 = .ok (.fmov 0 20 12 .s)
    ∧ decode 0xC0070002 0 = .ok (.fdrop 0 14 .s) ∧ decode 0xC0000683 0 = .ok (.fwait 0 3 .v)
    ∧ decode 0xC6038000 0x8001 = .ok (.fpoison 0 7 .s 0x8001) := ⟨rfl, rfl, rfl, rfl, rfl, rfl, rfl⟩
/-- spec/09: R217 to R241. -/
theorem test_decodes_engines : decode 0xD6050828 0x18030002 = .ok (.cpCopy 0 10 4 5 6 true true false false .f32 2)
    ∧ decode 0xD60528A8 0x58090001 = .ok (.cpCopy 0 10 20 21 22 true false false true .f32 1)
    ∧ decode 0xD605A8B8 0x00010900 = .ok (.ringWaitFree 0 11 20 23)
    ∧ decode 0xD6069C00 0x00001100 = .ok (.collGo 0 13 14) ∧ decode 0xD607A000 0x00001800 = .ok (.launch 0 15 16 false false)
    ∧ decode 0xD6061048 0x00012005 = .ok (.strmGoTile 0 12 8 9 true 5)
    ∧ decode 0xD0038828 0 = .ok (.qseq 0 7 4 5) ∧ decode 0xD2058C38 0 = .ok (.qtbl 0 11 6 7)
    ∧ decode 0xD4048828 0 = .ok (.vrand 0 9 4 5) := ⟨rfl, rfl, rfl, rfl, rfl, rfl, rfl, rfl, rfl⟩
/-- spec/23: the example of LNK.ALIGN. -/
theorem test_decodes_align : decode 0xD6050800 0x00002800 = .ok (.lnkAlign 0 10 4) := rfl
/-- spec/10: R245 to R248. -/
theorem test_decodes_stream : decodeStream 0x20000008 = .ok (.sWin 8) ∧ decodeStream 0x24000010 = .ok (.sGain 16)
    ∧ decodeStream 0x30000032 = .ok (.sRing 0 3 2) := ⟨rfl, rfl, rfl⟩
/-- R123, R125: an extension major with no feature, and a reserved function code, do not decode. -/
theorem test_decodes_fates : decode 0xE0000000 0 = .error .extAbsent ∧ (decode 0x1A080000 0).isOk = false
    ∧ (decode 0x24000007 0).isOk = false := ⟨rfl, rfl, rfl⟩

/-! ### Small states -/

/-- A thread of pack 0 of launch 1 that runs in address space 1. -/
def thr0 : Thread := { idleThread with status := .ready, pc := 0x10000, pack := 2 ^ 24, asid := 1 }

/-- The first GiB of address space 1 on itself, with every permission, A and D set. -/
def page0 : TlbEntry := { asid := 1, page := 0, size := 30, leaf := 0x7F, leafPa := 0, holder := .shared }

/-- The same entry in another TLB (R337). -/
def pageOf (h : TlbId) : TlbEntry := { page0 with holder := h }

/-- Thread 0 runs on core 0, which its pack holds. -/
def running (t : Thread) : State :=
  { State.reset with
    threads := [(0, t)]
    tlb := page0 :: [.copy 2, .walker 0, .seqr 2, .seqr 33].map pageOf
    cores := [(0, { idleCore with pack := some (2 ^ 24), pb0 := 4, pb1 := 8, pb2 := 16 })] }

/-- An event has the turn. -/
def event (e : Event) (s : State := State.reset) : State := { s with ev := some e }

theorem runs_of {s : State} {g : Guard} {reads writes : List Nat}
    (h : s.thr.rstate (rp g) = .full ∧ (∀ i ∈ reads, s.thr.rstate i = .full) ∧ (∀ i ∈ writes, s.thr.isPending i = false)
      ∧ (s.thr.preg g).getLsbD 0 = true) : s.Runs g reads writes := ⟨⟨h.1, h.2.1, h.2.2.1⟩, h.2.2.2⟩

theorem quiet_of {s : State} (h : s.watches = [] ∧ s.trailOf s.thr.pack = none ∧ s.marks = [] ∧ s.thr.stalled = false
    ∧ s.behind = false) : s.Quiet := ⟨h.1, h.2.1, h.2.2.1, h.2.2.2.1, h.2.2.2.2⟩

theorem plain_of {s : State} (h : s.watches = [] ∧ s.trailOf s.thr.pack = none ∧ s.marks = [] ∧ s.thr.stalled = false
    ∧ s.behind = false) (k : s.trails = [] ∧ s.phasers = [] ∧ s.fabCopies = []) : s.Plain := ⟨quiet_of h, k.1, k.2.1, k.2.2⟩

theorem plainFor_of {s : State} {pack : Nat} (h : s.trailOf pack = none ∧ s.trails = [] ∧ s.phasers = [] ∧ s.marks = [])
    (w : s.wf) : s.PlainFor pack := ⟨h.1, h.2.1, h.2.2.1, h.2.2.2, w⟩

theorem reaches_by (h : TlbId) {s : State} {ag : Agent} {va : Word} {need : Need} {pa : Nat}
    (k : s.locate ag va need = .ok (.dev pa) (some (pageOf h)) ∧ s.tlb.contains (pageOf h) = true) :
    s.ReachesFor ag va need (.dev pa) := by
  refine ⟨rfl, some (pageOf h), k.1, fun x e => ?_⟩
  cases e
  refine ⟨k.2, ?_, fun e => absurd e (by show bits page0.leaf 62 60 ≠ 2; decide +kernel)⟩
  show page0.leaf ||| _ = page0.leaf
  cases need.w <;> decide

theorem reaches_of {s : State} {ag : Agent} {va : Word} {need : Need} {pa : Nat}
    (k : s.locate ag va need = .ok (.dev pa) (some page0) ∧ s.tlb.contains page0 = true) : s.ReachesFor ag va need (.dev pa) :=
  reaches_by .shared k

theorem spans_dev (pa n : Nat) : (Place.dev pa).spans n := by
  refine fun k _ => ⟨trivial, fun j hj => ?_⟩
  have : Place.dev (pa + j) ≠ Place.dev (pa + k) := by intro e; injection e with e; omega
  exact beq_eq_false_iff_ne.mpr this

theorem wf_nil {s : State} (h : s.mem = [] ∧ s.pool = [] ∧ s.hostMem = [] ∧ s.remoteMem = []) : s.wf := by
  obtain ⟨a, b, c, d⟩ := h
  unfold State.wf; rw [a, b, c, d]; exact ⟨rfl, rfl, rfl, rfl⟩

/-! ### Witnesses: decoding and steps -/

theorem witness_EncodedInstructionsDecode : wellFormed (.vfma 0 3 1 2 4 .bf16 .sr 8 9) = true
    ∧ encode (.vfma 0 3 1 2 4 .bf16 .sr 8 9) ≠ [] ∧ (∀ b, streamSideOk b (.vfma 0 3 1 2 4 .bf16 .sr 8 9) = false)
    ∧ ∀ w, Instr.vfma 0 3 1 2 4 .bf16 .sr 8 9 ≠ .badStreamOp w := by
  refine ⟨by decide +kernel, by decide +kernel, by decide +kernel, fun w h => nomatch h⟩

theorem witness_EncodedStreamWordsDecode : wellFormed (.sDrain 1 1 3 2 3) = true ∧ streamSideOk false (.sDrain 1 1 3 2 3) = true := by
  decide

/-- Thread 0 has the next turn; its code is the memory given. -/
def codeAt (cells : List Host.Cell) : State := { running thr0 with agenda := [.thread 0], mem := cells }

/-- The state in which the turn of thread 0 issues. -/
def begun (s : State) : State := (((s.turnBegins []).issueTurn 0).map (·.2)).getD s

theorem issues_of {s : State} (h : ((s.turnBegins []).issueTurn 0).map (·.1) = some 0) :
    (s.turnBegins []).issueTurn 0 = some (0, begun s) := by
  unfold begun
  revert h
  cases (s.turnBegins []).issueTurn 0 with
  | none => intro h; cases h
  | some x => intro h; obtain ⟨a, b⟩ := x; cases h; rfl

theorem witness_StepRunsTheDecodedInstruction_short :
    let s := codeAt []
    let u := (begun s).fetching 0
    s.stuck = none ∧ s.agenda = .thread 0 :: [] ∧ s.rebaseDue = false ∧ s.replay = none
      ∧ (s.turnBegins []).issueTurn 0 = some (0, begun s)
      ∧ CodeWord u u.thr.pc (.dev 0x10000) 0 ∧ decode 0 0 = .ok (.add 0 0 0 0) ∧ isLong 0 = false := by
  refine ⟨rfl, rfl, rfl, rfl, issues_of (by decide +kernel), ⟨reaches_of (by decide +kernel), rfl, by decide +kernel⟩, rfl, rfl⟩

/-- MOVI s6 with an immediate of zero (R142). -/
theorem witness_StepRunsTheDecodedInstruction_long :
    let s := codeAt [(0x10002, 0x03), (0x10003, 0x06)]
    let u := (begun s).fetching 0
    s.stuck = none ∧ s.rebaseDue = false ∧ s.replay = none ∧ (s.turnBegins []).issueTurn 0 = some (0, begun s)
      ∧ CodeWord u u.thr.pc (.dev 0x10000) 0x06030000 ∧ CodeWord u (u.thr.pc + 4) (.dev 0x10004) 0
      ∧ decode 0x06030000 0 = .ok (.movi 0 6 0) ∧ isLong 0x06030000 = true := by
  refine ⟨rfl, rfl, rfl, issues_of (by decide +kernel), ⟨reaches_of (by decide +kernel), rfl, by decide +kernel⟩,
    ⟨reaches_of (by decide +kernel), rfl, by decide +kernel⟩, rfl, rfl⟩

theorem witness_StepRunsTheEvent : let s := { State.reset with agenda := [.event .rebase] }
    s.stuck = none ∧ s.agenda = .event .rebase :: [] ∧ s.rebaseDue = false
      ∧ ({ s with rebaseDue := true } : State).rebaseDue = true := ⟨rfl, rfl, rfl, rfl⟩

theorem witness_StepRunsTheDecodedInstruction_issue : (codeAt []).canIssue 0 = true ∧ ((codeAt []).thread 0).status ≠ .waiting
    ∧ ({ running { thr0 with status := .waiting } with agenda := [.thread 0] } : State).canIssue 0 = true := by decide +kernel

/-- A step that keeps the limit of R66 exists: that of an unlisted host write at reset. -/
theorem witness_StepRunsTheDecodedInstruction_limit : let s := { State.reset with agenda := [.clock 1] }
    s.stuck = none ∧ s.rebaseDue = false ∧ s.ltime ≤ topStamp
      ∧ (match step s with | .next t => decide (t.ltime ≤ topStamp) | _ => false) = true := by
  refine ⟨rfl, rfl, by decide, by decide +kernel⟩

/-! ### Witnesses: what stops an instruction -/

theorem witness_GuardOffMovesOn : controlGuard (.add 1 2 3 4) = some 1 ∧ (running thr0).thr.rstate (rp 1) = .full
    ∧ ((running thr0).thr.preg 1).getLsbD 0 = false := by decide +kernel

theorem witness_PendingOperandsPark_guard : controlGuard (.add 2 2 3 4) = some 2
    ∧ (running (thr0.setState (rp 2) (.pending 5))).thr.isPending (rp 2) = true := by decide +kernel

/-- An instruction executes under a full guard, and its registers are such as the hypotheses about them ask. -/
def Executes (s : State) (i : Instr) (regs : Uses → Bool) : Prop :=
  ∃ q, usesOf s.thr i = some q ∧ wellFormed i = true ∧ q.On i s ∧ q.Reads s q.reads ∧ regs q = true

def executes (s : State) (regs : Uses → Bool) (i : Instr) : Bool :=
  match usesOf s.thr i with
  | some q => wellFormed i && decide (s.thr.rstate (rp q.g) = .full) && (s.thr.preg q.g).getLsbD 0
      && activatesAll q.layout (s.thr.preg q.g) && regs q
  | none => false

theorem executes_of {s : State} {regs : Uses → Bool} {is : List Instr} (h : is.all (executes s regs) = true) :
    ∀ i ∈ is, Executes s i regs := by
  intro i hi
  have k := List.all_eq_true.mp h i hi
  unfold executes at k
  split at k
  · next q e =>
    simp only [Bool.and_eq_true, decide_eq_true_eq] at k
    obtain ⟨⟨⟨⟨w, f⟩, b⟩, a⟩, r⟩ := k
    exact ⟨q, e, w, ⟨f, .inr b⟩, ⟨fun _ => rfl, fun n => absurd ((full_iff _ _).mp a) n⟩, r⟩
  · cases k

/-- One instruction of each shape whose registers the statements name. -/
def shapes : List Instr := [.add 0 2 3 4, .vredAdd 0 2 3 .f32 .rne, .vld 0 2 3 .w32 0, .st 0 3 4 .w64 8, .phReg 0 3 4, .fmov 0 3 4 .s,
  .cpFill 0 2 3 4 6 false false false 0, .collArm 0 2 3, .atom 0 2 3 4 0 .add .i64 .plain .cl 0, .bfxu 0 2 3 0 8]

theorem witness_PendingOperandsPark_operands : ∀ i ∈ shapes,
    Executes (running ((thr0.setState 3 (.pending 5)).setState (rv 3) (.pending 6))) i fun q =>
      (q.reads ++ q.writes).any (running ((thr0.setState 3 (.pending 5)).setState (rv 3) (.pending 6))).thr.isPending :=
  executes_of (by decide +kernel)

theorem witness_PendingOperandsPark_guards : ∃ q, usesOf (running (thr0.setState (rp 2) (.pending 5))).thr (.vredAdd 2 2 3 .f32 .rne) = some q
    ∧ wellFormed (.vredAdd 2 2 3 .f32 .rne) = true ∧ (running (thr0.setState (rp 2) (.pending 5))).thr.isPending (rp q.g) = true :=
  ⟨_, rfl, by decide +kernel, by decide +kernel⟩

theorem witness_PoisonedOperandsTrap_guard : controlGuard (.add 2 2 3 4) = some 2
    ∧ (running (thr0.setState (rp 2) (.poisoned 0xFFFF0002))).thr.rstate (rp 2) = .poisoned 0xFFFF0002 := by decide +kernel

theorem witness_PoisonedOperandsTrap_operands : ∀ i ∈ [.add 0 2 3 4, .vredAdd 0 2 4 .f32 .rne, .stx 0 3 4 .w64 .cl .plain 0,
  .phReg 0 3 4],
    Executes (running ((thr0.setState 4 (.poisoned 0xFFFF0002)).setState (rv 4) (.poisoned 0xFFFF0002))) i fun q =>
      let t := (running ((thr0.setState 4 (.poisoned 0xFFFF0002)).setState (rv 4) (.poisoned 0xFFFF0002))).thr
      (q.reads ++ q.writes).all (fun k => !t.isPending k) && (q.reads.dropWhile fun k => decide (t.rstate k = .full)).head?.any fun j =>
        decide (t.rstate j = .poisoned 0xFFFF0002) :=
  executes_of (by decide +kernel)

theorem witness_PoisonedOperandsTrap_guards : let s := running (thr0.setState (rp 2) (.poisoned 0xFFFF0002))
    ∃ q, usesOf s.thr (.vredAdd 2 2 3 .f32 .rne) = some q ∧ wellFormed (.vredAdd 2 2 3 .f32 .rne) = true
      ∧ s.thr.rstate (rp q.g) = .poisoned 0xFFFF0002 := ⟨_, rfl, by decide +kernel, by decide +kernel⟩

/-- A thread with a ring of 16 records at 0x20000 and a handler at 0x400 (R349, R350). -/
def handled : State := { running { thr0 with utvec := 0x400, frbase := 0x20000 } with mem := [(0x20008, 4)] }

theorem witness_TrapsAreTaken_handler : Cause.priv ≠ .accessFault ∧ handled.replay = none
    ∧ handled.debugged handled.thr.pack = false ∧ handled.thr.utvec ≠ 0
    ∧ RecordRing handled (.dev 0x20000) (.dev 0x20040) 4 0 0 := by
  refine ⟨by decide +kernel, rfl, by decide +kernel, by decide +kernel, plain_of (by decide +kernel) (by decide +kernel),
    ⟨by decide +kernel, rfl, rfl, rfl⟩, by decide +kernel,
    reaches_of (by decide +kernel), by decide +kernel, ⟨spans_dev _ _, spans_dev _ _, ?_⟩, by decide +kernel,
      by unfold Holds; decide +kernel,
    by decide +kernel, reaches_of (by decide +kernel)⟩
  intro j _ k _
  have : Place.dev (0x20000 + j) ≠ Place.dev (0x20040 + k) := by intro e; injection e with e; omega
  exact beq_eq_false_iff_ne.mpr this

theorem witness_TrapsAreTaken_fatal : (running thr0).thr.utvec = 0
    ∧ (running thr0).debugged (running thr0).thr.pack = false ∧ (running thr0).replay = none := by decide +kernel

/-- The same ring with 16 records that nothing has taken. -/
def ringFull : State := { handled with mem := [(0x20000, 16), (0x20008, 4)] }
theorem witness_TrapsAreTaken_full_ring : FullRing ringFull (.dev 0x20000) 4 16 0 0 :=
  ⟨plain_of (by decide +kernel) (by decide +kernel), ⟨by decide +kernel, rfl, rfl, rfl⟩, by decide +kernel,
    reaches_of (by decide +kernel),
    by decide +kernel, spans_dev _ _, by decide +kernel, by unfold Holds; decide +kernel, by unfold Holds; decide +kernel,
      by decide +kernel⟩
theorem witness_TrapsAreTaken_no_ring : NoRing (running thr0) := .inl rfl
theorem witness_TrapsAreTaken_bad_header : BadHeader { handled with mem := [] } (.dev 0x20000) :=
  ⟨by decide +kernel, reaches_of (by decide +kernel), by decide +kernel, .inr (.inl (by decide +kernel))⟩
/-- A ring whose header ends with the first GiB, which alone is mapped. -/
def ringCut : State := { running { thr0 with frbase := 0x3FFFFFC0 } with mem := [(0x3FFFFFC8, 4)] }
theorem not_ok {x : Xlat} (h : (match x with | .ok p _ => !p.sc | _ => true) = true) : ∀ p e, x = .ok p e → p.sc = false := by
  intro p e k; subst k; simpa using h
theorem witness_TrapsAreTaken_no_slot : NoSlot ringCut (.dev 0x3FFFFFC0) :=
  ⟨rfl, by decide +kernel, reaches_of (by decide +kernel), by decide +kernel, by decide +kernel, by decide +kernel, 0, 0,
    by unfold Holds; decide +kernel, by unfold Holds; decide +kernel, by decide, by decide, by decide +kernel,
      not_ok (by decide +kernel)⟩
theorem witness_TrapsAreTaken_record_missing : ((running { thr0 with utvec := 0x400 }).recordOf 2 ⟨.priv, 0, 0, 0, 0⟩).2 = 0xFFFF := by
  decide +kernel

theorem witness_TrappingInstructions_runs : (running thr0).Runs 0 [] [] ∧ ¬writableCr 0x10 ∧ (running thr0).Runs 0 [rs 5] [] :=
  ⟨runs_of (by decide +kernel), by unfold writableCr; decide, runs_of (by decide +kernel)⟩

/-! ### Witnesses: scalar instructions -/

theorem witness_ScalarResults_arithmetic : ∃ e, arithmeticOf (running thr0).thr (.divs 0 2 3 4) = some e
    ∧ (running thr0).Runs e.g e.reads (e.outs.map (·.1)) := ⟨_, rfl, runs_of (by decide +kernel)⟩
theorem witness_ScalarResults_logic : ∃ e, logicOf (running thr0).thr (.sra 0 2 3 4) = some e
    ∧ (running thr0).Runs e.g e.reads (e.outs.map (·.1)) := ⟨_, rfl, runs_of (by decide +kernel)⟩
theorem witness_ScalarResults_bits : ∃ g reads d len, bitsForm (.bfi 0 2 3 60 3) = some (g, reads, d, len)
    ∧ wellFormed (.bfi 0 2 3 60 3) = true ∧ (running thr0).Runs g reads [rs d] := ⟨_, _, _, _, rfl, by decide +kernel,
      runs_of (by decide +kernel)⟩
theorem witness_ScalarResults_counts : ∃ g a d, countForm (.popc 0 2 3) = some (g, a, d) ∧ (running thr0).Runs g [rs a] [rs d] :=
  ⟨_, _, _, rfl, runs_of (by decide +kernel)⟩
theorem witness_ScalarResults_division : (running thr0).Runs 0 [rs 4, rs 5] [rs 2, rs 3] ∧ isConst (rs 2) = false
    ∧ isConst (rs 3) = false := ⟨runs_of (by decide +kernel), by decide +kernel, by decide +kernel⟩
theorem witness_PredicateResults_compare : ∃ e, compareOf (running thr0).thr (.cmp 0 .ltu 14 3 4) = some e
    ∧ wellFormed (.cmp 0 .ltu 14 3 4) = true ∧ (running thr0).Runs e.g e.reads (e.outs.map (·.1)) :=
  ⟨_, rfl, by decide +kernel, runs_of (by decide +kernel)⟩
theorem witness_PredicateResults_predicate : ∃ e, predicateOf (running thr0).thr (.pandn 0 15 3 4) = some e
    ∧ (running thr0).Runs e.g e.reads (e.outs.map (·.1)) := ⟨_, rfl, runs_of (by decide +kernel)⟩

/-- From 0x10000 a branch forward lands on an address that can be fetched from, one far back leaves the address space. -/
theorem witness_ControlTransfers_br : (running thr0).Runs 0 [] [] ∧ (running thr0).Runs 0 [] [63]
    ∧ fetchable ((running thr0).thr.pc + BitVec.ofInt 64 (4 * (3 : BitVec 21).toInt))
    ∧ ¬fetchable ((running thr0).thr.pc + BitVec.ofInt 64 (4 * (0x100000 : BitVec 21).toInt)) :=
  ⟨runs_of (by decide +kernel), runs_of (by decide +kernel), by unfold fetchable; decide, by unfold fetchable; decide⟩
theorem witness_ControlTransfers_jr : let s := running ((thr0.setS 5 0x20004).setS 6 0x20006)
    s.Runs 0 [rs 5] [] ∧ s.Runs 0 [rs 5] [rs 5] ∧ s.Runs 0 [rs 6] [rs 0] ∧ fetchable (s.thr.sreg 5) ∧ ¬fetchable (s.thr.sreg 6) :=
  ⟨runs_of (by decide +kernel), runs_of (by decide +kernel), runs_of (by decide +kernel), by unfold fetchable; decide,
    by unfold fetchable; decide⟩

theorem witness_ControlRegisters : (0x10 : BitVec 8) ≠ 0x31 ∧ wellFormed (.crr 0 2 0x10) = true ∧ (running thr0).Runs 0 [] [rs 2]
    ∧ (running thr0).thr.frbase = 0 ∧ writableCr 0x28 ∧ (running thr0).Runs 0 [rs 3] [] :=
  ⟨by decide +kernel, by decide +kernel, runs_of (by decide +kernel), by decide +kernel, by unfold writableCr; decide,
    runs_of (by decide +kernel)⟩

theorem witness_YieldAndExit : (running thr0).Runs 0 [] [] ∧ (running thr0).Quiet
    ∧ (∀ r ∈ (running thr0).thr.regs, (running thr0).locate ((running thr0).agentOf (running thr0).cur) r.va .rmw ≠ .held)
    ∧ (running thr0).thr.regs = [] := ⟨runs_of (by decide +kernel), quiet_of (by decide +kernel), by decide +kernel, by decide +kernel⟩
/-- A thread without a registration exits whatever its earlier accesses wait for; its s20 is pending. -/
theorem witness_YieldAndExit_detaches : let s := running { thr0.setState 20 (.pending 7) with stalled := true }
    s.Runs 0 [] [] ∧ s.thr.regs = [] ∧ s.thr.isPending 20 = true ∧ isConst 20 = false :=
  ⟨runs_of (by decide +kernel), by decide +kernel, by decide +kernel, by decide⟩

/-! ### Witnesses: vector instructions -/

theorem ready_of {s : State} {g : Guard} {reads writes : List Nat}
    (h : s.thr.rstate (rp g) = .full ∧ (∀ i ∈ reads, s.thr.rstate i = .full) ∧ ∀ i ∈ writes, s.thr.isPending i = false) :
    s.Ready g reads writes := ⟨h.1, h.2.1, h.2.2⟩

theorem full_p0 (w : Nat) (h : ∀ e < 2048 / w, (if w = 64 then 2 * e else w * e / 32) < 64) : Full w ((running thr0).thr.preg 0) := by
  intro e he
  have := h e he
  show ((running thr0).thr.preg 0).getLsbD _ = true
  rw [show (running thr0).thr.preg 0 = BitVec.allOnes 64 from by decide +kernel]
  rw [BitVec.getLsbD_allOnes]; exact decide_eq_true this

theorem witness_VectorLanes_lanes : ∃ r, lanesOf (running thr0).thr (.vshrI32 0 1 2 3) = some r ∧ r.ready (running thr0) :=
  ⟨_, rfl, ready_of (by decide +kernel), .inl (full_p0 _ (by decide +kernel))⟩
theorem witness_VectorLanes_widths : ∃ r, widthsOf (running thr0).thr (.vaddsu 2 1 2 3 .w8) = some r ∧ r.ready (running thr0) :=
  ⟨_, rfl, ready_of (by decide +kernel), .inr (by decide +kernel)⟩
theorem witness_VectorLanes_permutes : ∃ r, permuteOf (running thr0).thr (.vziphi 0 1 2 3) = some r ∧ r.ready (running thr0) :=
  ⟨_, rfl, ready_of (by decide +kernel), .inl (full_p0 _ (by decide +kernel))⟩
theorem witness_VectorLanes_signs : ∃ r, signOf (running thr0).thr (.vmin 0 1 2 3 .f16) = some r
    ∧ wellFormed (.vmin 0 1 2 3 .f16) = true ∧ r.ready (running thr0) :=
  ⟨_, rfl, by decide, ready_of (by decide +kernel), .inl (full_p0 _ (by decide +kernel))⟩
theorem witness_VectorLanes_selects : ∃ q, selectShape (.vsel 2 1 2 3 .w16) = some q ∧ q.ready (running thr0) :=
  ⟨_, rfl, ready_of (by decide +kernel), .inr (by decide +kernel)⟩
theorem witness_VectorRounding_arithmetic : ∃ rm r, fpOf .rtz (running thr0).thr (.vfma 0 1 2 3 4 .bf16 .rtz 0 0) = some (rm, r)
    ∧ modeOf rm (running thr0).thr.fprm = some .rtz ∧ wellFormed (.vfma 0 1 2 3 4 .bf16 .rtz 0 0) = true ∧ r.ready (running thr0) :=
  ⟨_, _, rfl, by decide, by decide, ready_of (by decide +kernel), .inl (full_p0 _ (by decide +kernel))⟩
/-- DYN takes its mode from FPRM, which is zero, RNE (R16). -/
theorem witness_VectorRounding_dynamic : ∃ rm r, fpOf .rne (running thr0).thr (.vaddF32 0 1 2 3 .dyn) = some (rm, r)
    ∧ modeOf rm (running thr0).thr.fprm = some .rne ∧ wellFormed (.vaddF32 0 1 2 3 .dyn) = true ∧ r.ready (running thr0) :=
  ⟨_, _, rfl, by decide, by decide, ready_of (by decide +kernel), .inl (full_p0 _ (by decide +kernel))⟩
theorem witness_VectorRounding_conversions :
    ∃ rm r, convertOf .sr (running thr0).thr (.vqsc 0 6 2 3 .f32 .e4m3 .sr 8 9) = some (rm, r)
    ∧ modeOf rm (running thr0).thr.fprm = some .sr ∧ wellFormed (.vqsc 0 6 2 3 .f32 .e4m3 .sr 8 9) = true
    ∧ r.ready (running thr0) :=
  ⟨_, _, rfl, by decide, by decide, ready_of (by decide +kernel), .inl (full_p0 _ (by decide +kernel))⟩
theorem witness_VectorCompares : ∃ q, vcompareShape (.vfcmp 0 .lt 2 1 2 .bf16) = some q
    ∧ wellFormed (.vfcmp 0 .lt 2 1 2 .bf16) = true ∧ q.ready (running thr0) :=
  ⟨_, rfl, by decide, ready_of (by decide +kernel), .inl (full_p0 _ (by decide +kernel))⟩
theorem witness_VectorReductions_trees : ∃ q rm, reduceShape (.vredAddF32 0 1 2) = some (q, rm)
    ∧ modeOf rm (running thr0).thr.fprm = some .rne ∧ wellFormed (.vredAddF32 0 1 2) = true ∧ q.ready (running thr0) :=
  ⟨_, _, rfl, by decide, by decide, ready_of (by decide +kernel), .inr (by decide +kernel)⟩
theorem witness_VectorReductions_gatherings : ∃ q rm, gatherShape (.vtopk 0 10 12 5 13 .f32) = some (q, rm)
    ∧ modeOf rm (running thr0).thr.fprm = some .rne ∧ wellFormed (.vtopk 0 10 12 5 13 .f32) = true ∧ q.ready (running thr0) :=
  ⟨_, _, rfl, by decide, by decide, ready_of (by decide +kernel), .inr (by decide +kernel)⟩
/-- FPRM holds SR, the code 5 (R16, R113). -/
theorem witness_TrappingInstructions_dynamic : let s := running { thr0 with fprm := 5 }
    (∃ r, fpOf .rne s.thr (.vaddF32 0 1 2 3 .dyn) = some (.dyn, r) ∧ r.ready s) ∧ modeOf .dyn s.thr.fprm = none
      ∧ wellFormed (.vaddF32 0 1 2 3 .dyn) = true :=
  ⟨⟨_, rfl, ready_of (by decide +kernel), .inr (by decide +kernel)⟩, by decide, by decide⟩
theorem witness_TrappingInstructions_reductions : let s := running { thr0 with fprm := 5 }
    (∃ q, reduceShape (.vredAdd 0 1 2 .bf16 .dyn) = some (q, .dyn) ∧ q.ready s)
      ∧ (∃ q, gatherShape (.vpack 0 20 2 .mxint8 .f32 .dyn 0 0) = some (q, .dyn) ∧ q.ready s)
      ∧ wellFormed (.vredAdd 0 1 2 .bf16 .dyn) = true ∧ wellFormed (.vpack 0 20 2 .mxint8 .f32 .dyn 0 0) = true :=
  ⟨⟨_, rfl, ready_of (by decide +kernel), .inr (by decide +kernel)⟩, ⟨_, rfl, ready_of (by decide +kernel), .inr (by decide +kernel)⟩,
    by decide, by decide⟩
/-- A signalling NaN as the addend; zero times infinity beside a quiet one. -/
theorem witness_RoundingKeepsValues_addends : (fp32.val 0x7FA00000).isSig = true ∧ (fp32.val 0x7FC00000).isNan = true
    ∧ (fp32.val 0x7FC00000).isSig = false ∧ zeroTimesInf (fp32.val 0) (fp32.val 0x7F800000) = true := by decide +kernel
theorem witness_RoundingKeepsValues : fp32 ∈ [fp32, bf16, fp16, fpE4m3, fpE5m2] ∧ 0x3F800000 < 2 ^ fp32.width
    ∧ (fp32.val 0x3F800000).isNan = false ∧ (fp32.val 0x7FA00000).isNan = true := by decide +kernel

/-! ### Witnesses: loads, stores, atomics -/

/-- Thread 0 with an address in s5, data in s6 and offsets in v6. -/
def loading : State := running ((thr0.setS 5 0x20078).setS 6 0x1122334455667788)

theorem loading_plain : loading.Plain := plain_of (by decide +kernel) (by decide +kernel)
theorem loading_wf : loading.wf := wf_nil (by decide +kernel)

theorem reaches_parts {s : State} {need : Need} (ps : List Part)
    (h : ∀ p ∈ ps, s.locate (s.agentOf s.cur) p.va need = .ok (.dev p.va.toNat) (some page0)) (m : s.tlb.contains page0 = true) :
    ∀ p ∈ ps, s.Reaches p.va need (.dev p.va.toNat) := fun p hp => reaches_of ⟨h p hp, m⟩

/-- A load of 64 bits at 0x2007C, which two lines share. -/
theorem witness_LoadsReadTheirBytes_scalar : ∃ l sz, scalarLoadOf loading.thr (.ldx 0 7 5 .x64 .sys .acq 4) = some (l, sz)
    ∧ l.Ready loading (fun p => .dev p.va.toNat) ∧ (loading.thr.preg l.g).getLsbD 0 = true ∧ l.parts.length = 2 :=
  ⟨_, _, rfl, ⟨ready_of (by decide +kernel), .inr (by decide +kernel), loading_plain, by decide +kernel,
    reaches_parts _ (by decide +kernel) (by decide +kernel)⟩, by decide +kernel, by decide +kernel⟩
theorem witness_LoadsReadTheirBytes_vector : ∃ l, vectorLoadOf loading.thr (.vld 0 7 5 .w32 0) = some l
    ∧ l.Ready loading (fun p => .dev p.va.toNat) :=
  ⟨_, rfl, ⟨ready_of (by decide +kernel), .inr (by decide +kernel), loading_plain, by decide +kernel,
    reaches_parts _ (by decide +kernel) (by decide +kernel)⟩⟩
theorem witness_LoadsReadTheirBytes_gather : ∃ l, vectorLoadOf loading.thr (.vgath 0 7 5 6 .w64) = some l
    ∧ l.Ready loading (fun p => .dev p.va.toNat) :=
  ⟨_, rfl, ⟨ready_of (by decide +kernel), .inr (by decide +kernel), loading_plain, by decide +kernel,
    reaches_parts _ (by decide +kernel) (by decide +kernel)⟩⟩
theorem witness_VectorPartsCoverActiveElements : (255 : Nat) < 256 ∧ 31 < 2048 / guardWidth (widthBits .w64)
    ∧ 7 < widthBits .w64 / 8 ∧ activates (guardWidth (widthBits .w64)) (BitVec.allOnes 64) 31 := by
  refine ⟨by decide, by decide, by decide, ?_⟩; unfold activates; decide +kernel
theorem witness_StoresWriteTheirBytes_scalar : ∃ m, scalarStoreOf loading.thr (.stx 0 6 5 .w64 .sys .rel 0) = some m
    ∧ loading.Runs m.g m.reads [] ∧ m.Ready loading (fun p => .dev p.va.toNat) :=
  ⟨_, rfl, runs_of (by decide +kernel), ⟨loading_wf, loading_plain, fun _ => by decide +kernel,
    fun p hp => ⟨reaches_parts _ (by decide +kernel) (by decide +kernel) p hp, spans_dev _ _⟩⟩⟩
theorem witness_StoresWriteTheirBytes_vector : ∃ m, vectorStoreOf loading.thr (.vscat 0 7 5 6 .w16) = some m
    ∧ loading.Ready m.g m.reads [] ∧ m.Ready loading (fun p => .dev p.va.toNat) :=
  ⟨_, rfl, ready_of (by decide +kernel), ⟨loading_wf, loading_plain, fun h => absurd h (by decide),
    fun p hp => ⟨reaches_parts _ (by decide +kernel) (by decide +kernel) p hp, spans_dev _ _⟩⟩⟩
theorem witness_StoresWriteTheirBytes_release : let s := running { thr0.setS 5 0x20000 with unacked := [.done] }
    ∃ m, scalarStoreOf s.thr (.stx 0 6 5 .w64 .sys .rel 0) = some m ∧ s.Runs m.g m.reads [] ∧ s.Plain
    ∧ (∀ p ∈ m.parts, s.Reaches p.va .store (.dev p.va.toNat)) ∧ s.thr.unacked ≠ [] :=
  ⟨_, rfl, runs_of (by decide +kernel), plain_of (by decide +kernel) (by decide +kernel),
    reaches_parts _ (by decide +kernel) (by decide +kernel), by decide +kernel⟩
theorem witness_FenceReports_domain : Scope.pkg ≠ .sys ∧ (running thr0).Runs 0 [] [rs 5] ∧ (running thr0).thr.unacked = []
    ∧ (running thr0).behind = false := ⟨by decide, runs_of (by decide +kernel), by decide +kernel, by decide +kernel⟩
theorem witness_FenceReports_waits : (running { thr0 with unacked := [.dead] }).thr.unacked ≠ []
    ∧ (running { thr0 with unacked := [.dead] }).Runs 0 [] [rs 5] := ⟨by decide +kernel, runs_of (by decide +kernel)⟩

/-- A load of thread 0 that waits on a held page. -/
def heldLoad : Held :=
  { tag := ⟨0, 0, 1, 1⟩, ctx := ⟨0, 1, 0x10000, 0, 0, 0, 2 ^ 24, 0, (4, 16)⟩, op := .load .x64, va := 0x30000, got := [], reserved := 0
    acq := false, hold := { since := 0, va := 0x30000, size := 12, again := false } }

theorem witness_FenceReports_held : let s := { running thr0 with held := [heldLoad] }
    (∃ h ∈ s.held, HeldAccess s h) ∧ s.Runs 0 [] [rs 5] :=
  ⟨⟨heldLoad, .head _, by decide +kernel, by decide +kernel, by decide +kernel⟩, runs_of (by decide +kernel)⟩

theorem issuable_of {s : State} {g : Guard} {reads : List Nat} {i : Nat}
    (h : s.thr.rstate (rp g) = .full ∧ (∀ i ∈ reads, s.thr.rstate i = .full) ∧ (∀ j ∈ [i], s.thr.isPending j = false)
      ∧ (s.thr.preg g).getLsbD 0 = true)
    (q : s.watches = [] ∧ s.trailOf s.thr.pack = none ∧ s.marks = [] ∧ s.thr.stalled = false
      ∧ s.behind = false) (e : s.mayBind s.cur = true) :
    s.Issuable g reads i := ⟨runs_of h, quiet_of q, e⟩

/-- A compare-and-swap of 32 bits at 0x20078, which holds zero. -/
theorem witness_Atomics_aligned : wellFormed (.atom 0 4 5 6 7 .cas .i32 .rel .sys 0) = true
    ∧ loading.Issuable 0 ([rs 5, rs 6] ++ [rs 7]) (rs 4) ∧ (loading.thr.sreg 5 + (0 : BitVec 16).signExtend 64).toNat % 4 = 0
    ∧ loading.Plain ∧ loading.wf ∧ loading.Reaches (loading.thr.sreg 5 + (0 : BitVec 16).signExtend 64) .rmw (.dev 0x20078)
    ∧ (Place.dev 0x20078).spans 4 ∧ loading.thr.unacked = [] ∧ isFpAdd .cas .i32 = false ∧ Holds loading (.dev 0x20078) 4 0 :=
  ⟨by decide, issuable_of (by decide +kernel) (by decide +kernel) (by decide +kernel), by decide +kernel, loading_plain,
    loading_wf, reaches_of (by decide +kernel), spans_dev _ _, by decide +kernel, by decide, by unfold Holds; decide +kernel⟩
theorem witness_Atomics_misaligned : (loading.thr.sreg 5 + (2 : BitVec 16).signExtend 64).toNat % atomBytes .i64 ≠ 0 := by
  decide +kernel
/-- The page has bit 59, memory-side (R57), and the launch is in class D1. -/
theorem witness_TrappingInstructions_determinism :
    let s := { running { thr0.setS 5 0x20000 with dclass := true } with tlb := [{ page0 with leaf := 0x80000000000007F }] }
    s.Runs 0 [rs 5, rs 6] [rs 4] ∧ isFpAdd .add .f32 = true ∧ s.thr.dclass = true
      ∧ (s.thr.sreg 5 + (0 : BitVec 16).signExtend 64).toNat % atomBytes .f32 = 0
      ∧ s.InStack (s.thr.sreg 5 + (0 : BitVec 16).signExtend 64) :=
  ⟨runs_of (by decide +kernel), by decide, by decide +kernel, by decide +kernel, by unfold State.InStack; decide +kernel⟩
/-- A page that is not memory-side: an FP add is executed at the line (R57). -/
theorem witness_Atomics_line : let s := running { thr0.setS 5 0x20000 with dclass := true }
    isFpAdd .add .f32 = true ∧ s.thr.dclass = true ∧ ¬s.InStack (s.thr.sreg 5) :=
  ⟨by decide, by decide +kernel, by unfold State.InStack; decide +kernel⟩

/-! ### Witnesses: the pending table, futures, completions -/

theorem witness_NewTagsAreNew : ∃ e < 512, ((running thr0).binds.any fun b =>
    (b.holder.isSome && b.entryCore == 0 && b.entry == e)
      || (b.tag.core == 0 && b.tag.slot == e && b.tag.epoch == ((running thr0).epoch 0 e + 1) % 256)) = false
    ∧ ((running thr0).flying.any fun f => f.tag.core == 0 && f.tag.slot == e
        && f.tag.epoch == ((running thr0).epoch 0 e + 1) % 256) = false := ⟨0, by decide, by decide +kernel⟩
/-- Thread 0 holds every entry of its core. -/
def everyEntry : List Bind := (List.range 512).map fun e => ⟨⟨0, 0, e, 1⟩, 0, e, .reg 0 1, 0⟩
def tableFull : State := { running thr0 with binds := everyEntry }
theorem witness_NewTagsAreNew_full : ∀ e < 512,
    (everyEntry.any fun b => b.holder.isSome && b.entryCore == 0 && b.entry == e) = true := by
  intro e h
  simp only [everyEntry, List.any_map, List.any_eq_true]
  exact ⟨e, List.mem_range.mpr h, by simp [Bind.holder]⟩
theorem witness_PendingOperandsPark_table : tableFull.Runs 0 [rs 4, rs 5] [rv 9] ∧ tableFull.mayBind tableFull.cur = false :=
  ⟨runs_of (by decide +kernel), by decide +kernel⟩
theorem witness_Futures_tests : let s := running (thr0.setState 20 (.pending 7))
    ∃ e, futureOf s.thr (.ftst 0 4 20 .s 2) = some e ∧ wellFormed (.ftst 0 4 20 .s 2) = true
      ∧ s.Runs e.g e.reads (e.outs.map (·.1)) := ⟨_, rfl, by decide, runs_of (by decide +kernel)⟩
theorem witness_FwaitIsAFirstUse : wellFormed (.fwait 0 3 .v) = true ∧ (running thr0).thr.rstate (rp 0) = .full
    ∧ ((running thr0).thr.preg 0).getLsbD 0 = true ∧ (running thr0).thr.rstate (registerOf .v 3) = .full
    ∧ (running (thr0.setState 67 (.pending 7))).thr.rstate (registerOf .v 3) = .pending 7
    ∧ (running (thr0.setState 67 (.poisoned 7))).thr.rstate (registerOf .v 3) = .poisoned 7 := by decide +kernel
theorem witness_Futures_moves : wellFormed (.fmov 0 20 12 .s) = true ∧ (20 : Reg6) ≠ 12
    ∧ (running thr0).Runs 0 [] [registerOf .s 20] ∧ isConst (registerOf .s 12) = false ∧ isConst (registerOf .s 20) = false
    ∧ (running thr0).Runs 0 [] [] ∧ isConst (registerOf .s 0) = true ∧ (running thr0).Runs 0 [] [registerOf .s 0]
    ∧ wellFormed (.fdrop 0 14 .s) = true ∧ wellFormed (.fpoison 0 20 .s 0x8000) = true :=
  ⟨by decide, by decide, runs_of (by decide +kernel), by decide, by decide, runs_of (by decide +kernel), by decide,
    runs_of (by decide +kernel), by decide, by decide⟩

def tag0 : ITag := ⟨0, 0, 0, 1⟩
def ctx0 : Ctx := ⟨0, 1, 0x10000, 0, 0, 0, 2 ^ 24, 0, (4, 16)⟩
/-- A completion on its way, and the binding that it names. -/
def arriving (loc : Loc) (r : Result) : State :=
  event (.completion 0) { running (thr0.setState 70 (.pending (tagBits 1 0 0))) with
    flying := [⟨tag0, ctx0, r⟩], binds := [⟨tag0, 0, 0, loc, BitVec.allOnes 256⟩] }

theorem witness_CompletionsArrive_full : let s := arriving (.reg 0 70) (.full 5)
    s.ev = some (.completion 0) ∧ s.flying[0]? = some ⟨tag0, ctx0, .full 5⟩
      ∧ (∃ b, (s.binds.find? fun b => b.tag == tag0) = some b ∧ b.loc = .reg 0 70) ∧ isConst 70 = false :=
  ⟨rfl, rfl, ⟨_, rfl, rfl⟩, by decide⟩
theorem witness_CompletionsArrive_poisoned : let s := arriving (.reg 0 70) (.recorded 0x10)
    s.ev = some (.completion 0) ∧ s.flying[0]? = some ⟨tag0, ctx0, .recorded 0x10⟩
      ∧ ∃ b, (s.binds.find? fun b => b.tag == tag0) = some b ∧ b.loc = .reg 0 70 := ⟨rfl, rfl, ⟨_, rfl, rfl⟩⟩
theorem witness_CompletionsArrive_marked : let s := { arriving (.reg 0 70) (.full 5) with marks := [.pending tag0] }
    s.flying[0]? = some ⟨tag0, ctx0, .full 5⟩ ∧ (∃ b, (s.binds.find? fun b => b.tag == tag0) = some b ∧ b.loc = .reg 0 70)
      ∧ Mark.pending tag0 ∈ s.marks ∧ Mark.pending tag0 ∉ (arriving (.reg 0 70) (.full 5)).marks :=
  ⟨rfl, ⟨_, rfl, rfl⟩, .head _, by decide +kernel⟩
theorem witness_CompletionsArrive_dropped : let s := arriving .dropped (.full 5)
    s.ev = some (.completion 0) ∧ s.flying[0]? = some ⟨tag0, ctx0, .full 5⟩
      ∧ ∃ b, (s.binds.find? fun b => b.tag == tag0) = some b ∧ b.loc = .dropped := ⟨rfl, rfl, ⟨_, rfl, rfl⟩⟩

/-! ### Witnesses: phasers, waits, marks, sequences -/

def region0 : Region :=
  { rcb := 0x1000, chain := [0x1000], prio := 0, dclass := false, poison := true, link := true, fdom := 0, frbase := 0, utvec := 0,
    cemask := 0xFF, limits := [], trail := 0, phwin := false, owner := 0x1000, trailBase := 0, trailU := 0, above := [] }

def launch1 : Launch :=
  { id := 1, src := .queue 0, parent := none, asid := 1, rcbVa := 0x1000, region := 0x1000, entry := 0x10000, arg := 7, packs := 1,
    clmask := 0xFF, tmask := 0, bus := false, bmask := 0, tpc := 1, cores := 1, pb1 := 8, pb2 := 16, start := none, sem0 := none,
    sem1 := none, crec := none, csig := none, endTag := none, timeOk := true, ready := true, since := 0, readyAt := 0, left := [],
    begun := [0], ended := 0, exited := 0, deadlink := 0, refused := 0, killed := false, faulted := false, semFail := false,
    holds := false, passed := [], stalled := false, hold := none }

def pack1 : Pack :=
  { key := 2 ^ 24, cluster := 0, cores := [0], tiles := [2], buses := [1], out := none, kennel := none, units := 0, gone := [],
    astray := [], unacked := [], saved := [], fixed := false, savedAt := 0, order := 0, saving := false, killing := false }

/-- Thread 0 in pack 0 of launch 1, which lies in a region. -/
def world (t : Thread) : State := { running t with launches := [launch1], packs := [pack1], regions := [region0] }

/-- A state with bytes in device memory. -/
def withBytes (s : State) (a : Nat) (bs : List Byte) : State := { s with mem := mwrite s.mem a bs }

theorem wf_withBytes {s : State} (w : s.wf) (a : Nat) (bs : List Byte) : (withBytes s a bs).wf :=
  ⟨Memory.wf_mwrite bs a w.1, w.2.1, w.2.2.1, w.2.2.2⟩

theorem witness_TrapsAreTaken_debugger : ({ world thr0 with attached := [0x1000] } : State).debugged thr0.pack = true
    ∧ ({ world thr0 with attached := [0x1000] } : State).threadsOf pack1 = [0] := by decide +kernel
theorem witness_TrapsAreTaken_kills : (world thr0).pack? (world thr0).thr.pack = some pack1 ∧ pack1.out = none ∧ pack1.killing = false
    ∧ (world thr0).threadsOf pack1 = [0] := by decide +kernel

theorem wf_running (t : Thread) : (running t).wf := wf_nil ⟨rfl, rfl, rfl, rfl⟩
theorem wf_world (t : Thread) : (world t).wf := wf_nil ⟨rfl, rfl, rfl, rfl⟩

theorem atPhaser_of {s : State} {g : Guard} {reads : List Nat} {va : Word} {pa : Nat}
    (h : s.thr.rstate (rp g) = .full ∧ (∀ i ∈ reads, s.thr.rstate i = .full) ∧ (∀ j ∈ ([] : List Nat), s.thr.isPending j = false)
      ∧ (s.thr.preg g).getLsbD 0 = true)
    (q : s.watches = [] ∧ s.trailOf s.thr.pack = none ∧ s.marks = [] ∧ s.thr.stalled = false ∧ s.behind = false) (w : s.wf)
    (a : va.toNat % 32 = 0) (r : s.locate (s.agentOf s.cur) va .rmw = .ok (.dev pa) (some page0) ∧ s.tlb.contains page0 = true) :
    s.AtPhaser g reads va (.dev pa) := ⟨runs_of h, quiet_of q, w, a, reaches_of r, rfl, spans_dev _ _⟩

def phaser0 : Ph :=
  { phase := 3, nsig := 2, nwait := 1, narr := 0, tolerant := false, broken := false, fault := false, lfault := false, inc := 0,
    expb := 0, arrb := 0 }

/-- The thread's registration, a signaller that has not arrived. -/
def signaller : Registration := { va := 0x20000, sig := true, wait := true, inc := 0, arrived := 2 }

/-- Thread 0 with the address of a phaser in s4 and SIG and WAIT in s5; `x` stands at the address. -/
def atPhaser (x : Ph) (regs : List Registration) : State :=
  withBytes (running { (thr0.setS 4 0x20000).setS 5 3 with regs := regs }) 0x20000 x.bytes

theorem wf_atPhaser (x : Ph) (regs : List Registration) : (atPhaser x regs).wf := wf_withBytes (wf_running _) _ _

theorem witness_PhaserForms_reg : let s := atPhaser phaser0 []
    s.AtPhaser 0 [rs 4, rs 5] (s.thr.sreg 4) (.dev 0x20000) ∧ (s.thr.sreg 5).getLsbD 0 = true
      ∧ (s.ph (.dev 0x20000)).broken = false ∧ s.thr.reg? (s.thr.sreg 4) = none ∧ s.thr.regs.length < 8
      ∧ ¬flipsNow { s.ph (.dev 0x20000) with nsig := 3, nwait := 2 } :=
  ⟨atPhaser_of (by decide +kernel) (by decide +kernel) (wf_atPhaser _ _) (by decide +kernel) (by decide +kernel), by decide +kernel,
    by decide +kernel, by decide +kernel, by decide +kernel, by unfold flipsNow; decide +kernel⟩

/-- The forms of a registered thread: ROLE, DEREG, and ARRIVE where another signaller has not arrived. -/
theorem witness_PhaserForms_registered : let s := atPhaser phaser0 [signaller]
    s.AtPhaser 0 [rs 4, rs 5] (s.thr.sreg 4) (.dev 0x20000) ∧ s.AtPhaser 0 [rs 4] (s.thr.sreg 4) (.dev 0x20000)
      ∧ Registered s.thr (s.thr.sreg 4) signaller ∧ signaller.inc = (s.ph (.dev 0x20000)).inc
      ∧ (s.ph (.dev 0x20000)).broken = false ∧ signaller.sig = true ∧ signaller.arrived ≠ (s.ph (.dev 0x20000)).phase
      ∧ ¬flipsNow (withRole (s.ph (.dev 0x20000)) signaller true true)
      ∧ ¬flipsNow (withRole (s.ph (.dev 0x20000)) signaller false false)
      ∧ ¬flipsNow { s.ph (.dev 0x20000) with narr := 1 } :=
  ⟨atPhaser_of (by decide +kernel) (by decide +kernel) (wf_atPhaser _ _) (by decide +kernel) (by decide +kernel),
    atPhaser_of (by decide +kernel) (by decide +kernel) (wf_atPhaser _ _) (by decide +kernel) (by decide +kernel),
    by unfold Registered; decide +kernel, by decide +kernel, by decide +kernel, by decide, by decide +kernel,
    by unfold flipsNow; decide +kernel, by unfold flipsNow; decide +kernel, by unfold flipsNow; decide +kernel⟩

theorem witness_PhaserForms_init : let s := atPhaser { phaser0 with nsig := 0, nwait := 0 } []
    s.AtPhaser 0 [rs 4, rs 5] (s.thr.sreg 4) (.dev 0x20000) ∧ (s.ph (.dev 0x20000)).nsig = 0 ∧ (s.ph (.dev 0x20000)).nwait = 0 :=
  ⟨atPhaser_of (by decide +kernel) (by decide +kernel) (wf_atPhaser _ _) (by decide +kernel) (by decide +kernel), by decide +kernel,
    by decide +kernel⟩
theorem witness_PhaserForms_breaks : let s := atPhaser phaser0 []
    s.AtPhaser 0 [rs 4, rs 5] (s.thr.sreg 4) (.dev 0x20000) ∧ (s.ph (.dev 0x20000)).broken = false
      ∧ 0 < (s.ph (.dev 0x20000)).nsig.toNat + (s.ph (.dev 0x20000)).nwait.toNat :=
  ⟨atPhaser_of (by decide +kernel) (by decide +kernel) (wf_atPhaser _ _) (by decide +kernel) (by decide +kernel), by decide +kernel,
    by decide +kernel⟩
theorem witness_PhaserForms_twice : let s := atPhaser phaser0 [{ signaller with arrived := 3 }]
    s.AtPhaser 0 [rs 4] (s.thr.sreg 4) (.dev 0x20000) ∧ Registered s.thr (s.thr.sreg 4) { signaller with arrived := 3 }
      ∧ (s.ph (.dev 0x20000)).phase = 3 :=
  ⟨atPhaser_of (by decide +kernel) (by decide +kernel) (wf_atPhaser _ _) (by decide +kernel) (by decide +kernel),
    by unfold Registered; decide +kernel, by decide +kernel⟩
theorem witness_PhaserForms_flip : let s := atPhaser { phaser0 with narr := 1 } [signaller]
    s.AtPhaser 0 [rs 4] (s.thr.sreg 4) (.dev 0x20000) ∧ Registered s.thr (s.thr.sreg 4) signaller
      ∧ flipsNow { s.ph (.dev 0x20000) with narr := 2 } ∧ (s.ph (.dev 0x20000)).fault = false
      ∧ ∀ o ∈ s.phOwners, s.trailOf o.2 = none :=
  ⟨atPhaser_of (by decide +kernel) (by decide +kernel) (wf_atPhaser _ _) (by decide +kernel) (by decide +kernel),
    by unfold Registered; decide +kernel, by unfold flipsNow; decide +kernel, by decide +kernel, by decide +kernel⟩

/-- Forms without an effect: PH.REG without a role, and ROLE, DEREG and ARRIVE of a thread that is not registered. -/
theorem witness_PhaserForms_none : let s := withBytes (running (thr0.setS 4 0x20000)) 0x20000 phaser0.bytes
    s.AtPhaser 0 [rs 4, rs 5] (s.thr.sreg 4) (.dev 0x20000) ∧ (s.thr.sreg 5).toNat % 4 = 0 ∧ s.thr.reg? (s.thr.sreg 4) = none :=
  ⟨atPhaser_of (by decide +kernel) (by decide +kernel) (wf_withBytes (wf_running _) _ _) (by decide +kernel) (by decide +kernel),
    by decide +kernel, by decide +kernel⟩
/-- Eight registrations with other phasers. -/
theorem witness_PhaserForms_ninth :
    let s := atPhaser phaser0 ((List.range 8).map fun k => { signaller with va := BitVec.ofNat 64 (32 * k) })
    s.AtPhaser 0 [rs 4, rs 5] (s.thr.sreg 4) (.dev 0x20000) ∧ (s.thr.sreg 5).toNat % 4 ≠ 0
      ∧ s.thr.reg? (s.thr.sreg 4) = none ∧ 8 ≤ s.thr.regs.length :=
  ⟨atPhaser_of (by decide +kernel) (by decide +kernel) (wf_atPhaser _ _) (by decide +kernel) (by decide +kernel), by decide +kernel,
    by decide +kernel, by decide +kernel⟩

theorem phWait_ready (x : Ph) (regs : List Registration)
    (h : let s := atPhaser x regs
      s.thr.rstate (rp 0) = .full ∧ (∀ i ∈ [rs 4, rs 6], s.thr.rstate i = .full) ∧ (∀ j ∈ [rs 7], s.thr.isPending j = false)
      ∧ (s.thr.preg 0).getLsbD 0 = true)
    (q : let s := atPhaser x regs
      s.watches = [] ∧ s.trailOf s.thr.pack = none ∧ s.marks = [] ∧ s.thr.stalled = false ∧ s.behind = false)
    (e : (atPhaser x regs).mayBind (atPhaser x regs).cur = true)
    (r : (atPhaser x regs).locate ((atPhaser x regs).agentOf 0) 0x20000 .load = .ok (.dev 0x20000) (some page0)
      ∧ (atPhaser x regs).tlb.contains page0 = true) :
    (atPhaser x regs).Issuable 0 [rs 4, rs 6] (rs 7) ∧ (atPhaser x regs).Reaches 0x20000 .load (.dev 0x20000) :=
  ⟨issuable_of h q e, reaches_of r⟩

/-- The five outcomes of PH.WAIT: the phase is the token's, has passed, has passed with a fault, the phaser is broken, and the
thread does not wait on it. -/
theorem witness_PhaserAndSemaphoreWaits_phaser :
    ((atPhaser phaser0 [signaller]).Issuable 0 [rs 4, rs 6] (rs 7)
      ∧ (atPhaser phaser0 [signaller]).Reaches 0x20000 .load (.dev 0x20000))
    ∧ (∀ r, (atPhaser phaser0 [signaller]).thr.reg? 0x20000 = some r → r.inc = ((atPhaser phaser0 [signaller]).ph (.dev 0x20000)).inc)
    ∧ ((atPhaser phaser0 [signaller]).thr.reg? 0x20000).any (·.wait) = true
    ∧ ((atPhaser phaser0 [signaller]).ph (.dev 0x20000)).phase.toNat = 3
    ∧ ((atPhaser { phaser0 with lfault := true } [signaller]).ph (.dev 0x20000)).lfault = true
    ∧ ((atPhaser { phaser0 with broken := true } []).ph (.dev 0x20000)).broken = true
    ∧ ((atPhaser phaser0 []).thr.reg? 0x20000).any (·.wait) = false :=
  ⟨phWait_ready _ _ (by decide +kernel) (by decide +kernel) (by decide +kernel) (by decide +kernel),
    by intro r h
       have : (atPhaser phaser0 [signaller]).thr.reg? 0x20000 = some signaller := by decide +kernel
       rw [this] at h; cases h; decide +kernel,
    by decide +kernel, by decide +kernel, by decide +kernel, by decide +kernel, by decide +kernel⟩

theorem witness_PhaserAndSemaphoreWaits_semaphore : let s := running ((thr0.setS 5 0x20000).setS 7 1)
    s.Issuable 0 [rs 5, rs 7] (rs 10) ∧ s.Reaches (s.thr.sreg 5) .load (.dev 0x20000) ∧ Holds s (.dev 0x20000) 8 0
      ∧ semHolds .ltu 0 (s.thr.sreg 7) ∧ ¬semHolds .geu 0 (s.thr.sreg 7) :=
  ⟨issuable_of (by decide +kernel) (by decide +kernel) (by decide +kernel), reaches_of (by decide +kernel),
    by unfold Holds; decide +kernel, by unfold semHolds; decide +kernel, by unfold semHolds; decide +kernel⟩

theorem witness_TrailMarks_parks : let s := running (thr0.setState 20 (.pending 7))
    s.Runs 0 [] [] ∧ ∃ i < 144, s.thr.isPending i = true := ⟨runs_of (by decide +kernel), 20, by decide, by decide +kernel⟩
theorem witness_TrailMarks_disabled : (running thr0).Runs 0 [] [] ∧ (∀ i < 144, (running thr0).thr.isPending i = false)
    ∧ (running thr0).trailOf (running thr0).thr.pack = none := ⟨runs_of (by decide +kernel), by decide +kernel, by decide +kernel⟩

/-- The region has a trail of 2 MiB from 0x100000 (R367). -/
def trailing : Region := { region0 with trail := 1, trailBase := 0x100000, trailU := 1 }
def trailed (t : Thread) : State :=
  { world t with
    regions := [trailing]
    trails := [⟨0x1000, 1, 2 ^ 21 - 4096, [(0, 0x100000, 0x200000)], false, false, none⟩] }

theorem locate_low {s : State} {ag : Agent} {va : Word} {rest : List TlbEntry} (h : s.tlb = page0 :: rest) (a : ag.asid = 1)
    (b : ag.tlb = .shared) (k : va.toNat < 2 ^ 30) : s.locate ag va .store = .ok (.dev va.toNat) (some page0) := by
  have h1 : ¬ 2 ^ 52 ≤ va.toNat := by omega
  have h2 : nbits va.toNat 51 40 ≠ 0xFFF := by unfold nbits; omega
  have c : page0.covers 1 va.toNat = true := by
    unfold TlbEntry.covers; simp [page0]; omega
  have l : lacks page0.leaf Need.store = false := by decide
  have m : page0.marked Need.store.w = true := by decide
  have d : s.tlbHit ag va.toNat .store = some page0 := by
    unfold State.tlbHit
    rw [h, List.find?_cons_of_pos (by rw [a, b, c]; rfl)]
    simp only [Option.filter, l, m, Bool.not_false, Bool.true_or, Bool.and_self, if_true]
  have e : bits page0.leaf 62 60 = 0 := by decide
  have f : bits page0.leaf 47 8 * 256 / 2 ^ page0.size * 2 ^ page0.size = 0 := by decide
  have g : va.toNat % 2 ^ page0.size = va.toNat := Nat.mod_eq_of_lt k
  have n : ¬ Config.deviceBytes ≤ va.toNat := by
    have : 2 ^ 30 ≤ Config.deviceBytes := by decide
    omega
  unfold State.locate
  simp only [h1, h2, if_false, d]
  unfold State.leafPlace
  simp only [e, f, g, Nat.zero_add, n, if_false]

theorem trailRoom_of {s : State} {r : Region} {n : Nat} {rest : List TlbEntry} (h : s.tlb = page0 :: rest)
    (a : 0 < r.area ∧ s.trailFits r n = true ∧ (s.trailUse r.owner).hold = none ∧ (s.trailUse r.owner).asid = 1
      ∧ r.trailBase.toNat + (4096 + r.area) ≤ 2 ^ 30) : s.TrailRoom r n := by
  refine ⟨a.1, a.2.1, fun off hoff => ?_, a.2.2.1⟩
  have k : (r.trailBase + BitVec.ofNat 64 off).toNat < 2 ^ 30 := by
    rw [BitVec.toNat_add, BitVec.toNat_ofNat]; omega
  rw [locate_low (ag := s.trailAgent r) h a.2.2.2.1 rfl k]
  exact fun e => nomatch e

theorem witness_TrailMarks_enabled : let s := trailed thr0
    s.Runs 0 [] [] ∧ (∀ i < 144, s.thr.isPending i = false) ∧ s.trailOf s.thr.pack = some trailing ∧ s.behind = false
      ∧ s.watches = [] ∧ s.TrailRoom trailing 17952 :=
  ⟨runs_of (by decide +kernel), by decide +kernel, by decide +kernel, by decide +kernel, by decide +kernel,
    trailRoom_of rfl (by decide +kernel)⟩

/-- SEQDESC names a table of two dimensions at 0x20000; s4 holds an index and s5 dimension 1. -/
def drawing (mode : Word) : State :=
  running { (thr0.setS 4 9).setS 5 1 with seqdesc := 0x20000, seqmode := mode ||| 0x100000000 }
theorem witness_Sequences_points : let s := drawing 2
    s.Issuable 0 [rs 4, rs 5] (rv 7) ∧ s.thr.seqmode.extractLsb' 0 2 ≠ 3 ∧ (∀ k < 64, (s.thr.sreg 4).toNat + k < 2 ^ 32)
      ∧ (s.thr.sreg 5).toNat ≤ (s.thr.seqmode.extractLsb' 32 16).toNat
      ∧ s.Reaches (dimAddr s.thr 1) .load (.dev 0x20080) ∧ (drawing 3).thr.seqmode.extractLsb' 0 2 = 3 :=
  ⟨issuable_of (by decide +kernel) (by decide +kernel) (by decide +kernel), by decide +kernel, by decide +kernel, by decide +kernel,
    reaches_of (by decide +kernel), by decide +kernel⟩
theorem witness_Sequences_out_of_range : (∃ k < 64, 2 ^ 32 ≤ ((running (thr0.setS 4 0xFFFFFFC1)).thr.sreg 4).toNat + k)
    ∧ ((drawing 0).thr.seqmode.extractLsb' 32 16).toNat < 2 := ⟨⟨63, by decide, by decide +kernel⟩, by decide +kernel⟩
/-- QTBL of one dimension, the first. -/
theorem witness_Sequences_table : let s := running { thr0.setS 5 1 with seqdesc := 0x20000 }
    s.Issuable 0 [rs 4, rs 5] (rs 11) ∧ s.thr.seqmode.extractLsb' 0 2 ≠ 3 ∧ 1 ≤ (s.thr.sreg 5).toNat ∧ (s.thr.sreg 5).toNat ≤ 64
      ∧ (s.thr.sreg 4).toNat + 1 - 1 ≤ (s.thr.seqmode.extractLsb' 32 16).toNat
      ∧ ∀ q ∈ partsOf (dimAddr s.thr 0) 128, s.Reaches q.va .load (.dev q.va.toNat) ∧ (Place.dev q.va.toNat).sc = true :=
  ⟨issuable_of (by decide +kernel) (by decide +kernel) (by decide +kernel), by decide +kernel, by decide +kernel, by decide +kernel,
    by decide +kernel, fun q h => ⟨reaches_parts _ (by decide +kernel) (by decide +kernel) q h, rfl⟩⟩
theorem witness_Sequences_bits : (running thr0).Issuable 0 [rs 4, rs 5] (rv 9) :=
  issuable_of (by decide +kernel) (by decide +kernel) (by decide +kernel)

/-- Page tables that map the first GiB of address space 1 on itself, with every permission, A and D set (R330, R331). -/
def mapped (s : State) : State :=
  { s with mem := mwrite (mwrite (mwrite s.mem 8 (natLe 8 0x10001)) 0x10000 (natLe 8 0x20001)) 0x20000 (natLe 8 0x7F) }
def leaf0 : TlbEntry := { page0 with leafPa := 0x20000 }

/-- The three outcomes of PROBE: an empty range, one that is too long, and one page that passes. -/
theorem witness_Probes :
    ((mapped (running thr0)).Issuable 0 [rs 4, rs 5] (rs 6) ∧ (thr0.sreg 5).toNat = 0)
    ∧ 2 ^ 32 < ((running (thr0.setS 5 0x100000001)).thr.sreg 5).toNat
    ∧ ((mapped (running (thr0.setS 5 8))).thr.sreg 5).toNat = 8
    ∧ PagesPass (mapped (running (thr0.setS 5 8))) 1 .load 8 0 1 :=
  ⟨⟨issuable_of (by decide +kernel) (by decide +kernel) (by decide +kernel), by decide +kernel⟩, by decide +kernel,
    by decide +kernel, .page leaf0 (by decide) (by decide +kernel) (by decide +kernel) (.done (by decide))⟩

/-! ### Witnesses: copies and rings -/

/-- CP.COPY of 256 bytes from 0x30000 to 0x20000. -/
def copy0 : Copy :=
  { id := 0, tag := tag0, ctx := ctx0, engine := 2, op := .copy, ord := true, bar := false, hist := false, ring := none,
    q := 0, dst := 0x20000, src := 0x30000, rowBytes := 256, rows := 1, dpitch := 256, spitch := 256, phaser := 0x40000, haddr := 0,
    barAt := none, hbase := 0, hty := .f32, dty := .f32, sty := .f32, rm := .rne, key := 0, ctr := 0, stage := .order,
    refused := false, done := 0, err := none, fenced := false, flags := 0, bins := [], reserved := 0, hold := none, stale := false }

/-- Registers for CP.COPY s10, s4, s5, s6: 256 bytes from s5 to s4. -/
def copying : State := world (((thr0.setS 4 0x20000).setS 5 0x30000).setS 6 256)

theorem copying_issuable : copying.Issuable 0 (copyReads ⟨.copy, 4, 5, 6, true, false, false, false, .f32, .f32, .f32, .rne,
  2⟩) (rs 10) :=
  issuable_of (by decide +kernel) (by decide +kernel) (by decide +kernel)

theorem witness_CopyCommands_accepted :
    (∃ x, copyOf (.cpCopy 0 10 4 5 6 true false false false .f32 2) = some (0, 10, x) ∧ modeOf x.rm copying.thr.fprm = some .rne
      ∧ copying.Issuable 0 (copyReads x) (rs 10)
      ∧ ¬CopyRefused copying { copy0 with rowBytes := 256 } x)
    ∧ wellFormed (.cpCopy 0 10 4 5 6 true false false false .f32 2) = true := by
  refine ⟨⟨_, rfl, by decide +kernel, copying_issuable, ?_⟩, by decide⟩
  rintro (h | h | h | h | h | h | h | h)
  · exact absurd (h region0 (by decide +kernel)) (by decide +kernel)
  · exact absurd h (by decide)
  · exact absurd h.1 (by decide)
  · exact absurd h.1 (by decide)
  · exact absurd h.1 (by decide)
  · exact absurd h.1 (by decide)
  · exact absurd h.1 (by decide)
  · exact absurd h.1 (by decide)

/-- An engine that the region's CEMASK leaves out refuses. -/
theorem witness_CopyCommands_refused : let s := { copying with regions := [{ region0 with cemask := 0xFB }] }
    ∃ x, copyOf (.cpCopy 0 10 4 5 6 false false false false .f32 2) = some (0, 10, x) ∧ CopyRefused s copy0 x
      ∧ x.ord = false ∧ ¬(x.bar = true ∧ PhaserAllowed s copy0.phaser) := by
  refine ⟨_, rfl, .inl fun r h => ?_, rfl, fun h => absurd h.1 (by decide)⟩
  have : some { region0 with cemask := 0xFB } = some r := h
  cases this; decide +kernel

/-- The same of an ORD command, which waits for its place. -/
theorem witness_CopyCommands_refused_ord : let s := { copying with regions := [{ region0 with cemask := 0xFB }] }
    ∃ x, copyOf (.cpCopy 0 10 4 5 6 true false false false .f32 2) = some (0, 10, x) ∧ CopyRefused s copy0 x ∧ x.ord = true := by
  refine ⟨_, rfl, .inl fun r h => ?_, rfl⟩
  have : some { region0 with cemask := 0xFB } = some r := h
  cases this; decide +kernel

/-- CP.CVT in mode DYN while FPRM holds SR, the code 5. -/
theorem witness_CopyCommands_dynamic : let s := running { thr0 with fprm := 5 }
    (∃ x, copyOf (.cpCvt 0 10 4 5 6 false false false false .bf16 .f32 .dyn 2) = some (0, 10, x) ∧ modeOf x.rm s.thr.fprm = none
      ∧ s.Runs 0 (copyReads x) [rs 10])
    ∧ wellFormed (.cpCvt 0 10 4 5 6 false false false false .bf16 .f32 .dyn 2) = true :=
  ⟨⟨_, rfl, by decide, runs_of (by decide +kernel)⟩, by decide⟩

/-- The engine's turn on one command. -/
def chunking (c : Copy) : State := { event (.chunk 0) (world thr0) with copies := [c] }

theorem chunking_alone (c : Copy) : ∀ k x, (chunking c).copies[k]? = some x → x.id = c.id → k = 0 := fun k x h _ => by
  cases k with
  | zero => rfl
  | succ k => exact absurd h (by simp [chunking])

theorem chunking_turn (c : Copy) (f : c.hold = none ∧ c.ring = none)
    (p : c.needsPack = false ∨ (chunking c).packOut c.ctx.pack = false) : CopyTurn (chunking c) 0 c :=
  ⟨rfl, rfl, chunking_alone c, f, p⟩

theorem chunking_plain (c : Copy) : (chunking c).PlainFor (2 ^ 24) :=
  plainFor_of ⟨show (world thr0).trailOf (2 ^ 24) = none by decide +kernel, rfl, rfl, rfl⟩ (wf_nil ⟨rfl, rfl, rfl, rfl⟩)

/-- The last bytes of the row: 128 to the next multiple of 4,096. -/
theorem witness_CopiesMoveBytes_bytes : let c := { copy0 with stage := .chunks, dst := 0x20F00, rowBytes := 512, done := 128 }
    CopyTurn (chunking c) 0 c ∧ c.done < c.rowBytes * c.rows ∧ (chunking c).PlainFor c.ctx.pack ∧ c.nextBytes = 128
      ∧ (chunking c).ReachesFor c.agent c.nextDest .store (.dev 0x20F80) ∧ (Place.dev 0x20F80).spans c.nextBytes
      ∧ c.nextSource.toNat % 4096 + c.nextBytes ≤ 4096
      ∧ (chunking c).ReachesFor c.agent c.nextSource .load (.dev 0x30080) :=
  ⟨chunking_turn _ ⟨rfl, rfl⟩ (.inr (by decide +kernel)), by decide, chunking_plain _, by decide +kernel,
    reaches_by (.copy 2) (by decide +kernel), spans_dev _ _, by decide +kernel, reaches_by (.copy 2) (by decide +kernel)⟩

/-- A command that runs, and one that is refused. -/
theorem witness_CopiesMoveBytes_order (b : Bool) : let c := { copy0 with refused := b }
    CopyTurn (chunking c) 0 c ∧ c.stage = .order ∧ (c.ord = true → ∀ k < 0, ∀ x, (chunking c).copies[k]? = some x → x.ord = true →
      x.engine % 8 = c.engine % 8 → x.ctx.pack = c.ctx.pack → x.ctx.rank ≠ c.ctx.rank) :=
  ⟨chunking_turn _ ⟨rfl, rfl⟩ (by cases b <;> exact .inr (by decide +kernel)), rfl, fun _ k h => absurd h (Nat.not_lt_zero k)⟩
theorem witness_CopiesMoveBytes_end : let c := { copy0 with stage := .chunks, done := 256 }
    CopyTurn (chunking c) 0 c ∧ c.stage = .chunks ∧ c.rowBytes * c.rows ≤ c.done :=
  ⟨chunking_turn _ ⟨rfl, rfl⟩ (.inr (by decide +kernel)), rfl, by decide⟩
theorem witness_CopiesMoveBytes_bins : let c := { copy0 with stage := .bins, done := 256 }
    CopyTurn (chunking c) 0 c ∧ c.stage = .bins ∧ c.hist = false :=
  ⟨chunking_turn _ ⟨rfl, rfl⟩ (.inr (by decide +kernel)), rfl, rfl⟩

theorem witness_CopiesMoveBytes_completes : let c := { copy0 with stage := .bar, done := 256 }
    let s := { chunking c with binds := [{ tag := tag0, entryCore := 0, entry := 0, mask := BitVec.allOnes 256, loc := .reg 0 10 }] }
    CopyTurn s 0 c ∧ c.stage = .bar ∧ c.bar = false ∧ (∃ b, (s.binds.find? fun b => b.tag == c.tag) = some b ∧ b.loc = .reg 0 10)
      ∧ isConst 10 = false ∧ Mark.pending c.tag ∉ s.marks :=
  ⟨⟨rfl, rfl, chunking_alone _, ⟨rfl, rfl⟩, .inr (by decide +kernel)⟩, rfl, rfl,
    ⟨_, rfl, rfl⟩, by decide, by decide +kernel⟩

theorem witness_CopiesMoveBytes_phaser : let c := { copy0 with stage := .bar, bar := true, done := 256 }
    CopyTurn (chunking c) 0 c ∧ c.stage = .bar ∧ c.bar = true ∧ (chunking c).PlainFor c.ctx.pack
      ∧ (chunking c).PhaserAt c.agent c.barAt c.phaser (.dev 0x40000) ∧ (Place.dev 0x40000).spans 32
      ∧ ((chunking c).ph (.dev 0x40000)).broken = false ∧ (chunking c).awayPhaser c.barAt = false
      ∧ (chunking c).flipWaits (.dev 0x40000) = false
      ∧ (chunking c).Recorded ∧ (chunking c).binds = [] ∧ ¬flipsNow { (chunking c).ph (.dev 0x40000) with arrb := 256 } :=
  ⟨chunking_turn _ ⟨rfl, rfl⟩ (.inr (by decide +kernel)), rfl, rfl, chunking_plain _,
    .inr ⟨rfl, reaches_by (.copy 2) (by decide +kernel)⟩,
    spans_dev _ _, by decide +kernel, by decide +kernel, by decide +kernel, (fun f h => nomatch (h : f ∈ ([] : List Flight))),
      rfl, by unfold flipsNow; decide +kernel⟩

/-- CP.CVT of 64 BF16 elements at 0x30000 to FP32 with HIST: they lie in one page. -/
theorem witness_CopiesMoveBytes_cvt :
    let c := { copy0 with op := .cvt, sty := .bf16, hty := .bf16, hist := true, bins := List.replicate 64 0, stage := .chunks }
    CopyTurn (chunking c) 0 c ∧ c.done < c.rowBytes * c.rows ∧ (chunking c).PlainFor c.ctx.pack ∧ c.nextBytes = 256
      ∧ (chunking c).ReachesFor c.agent c.nextDest .store (.dev 0x20000) ∧ (Place.dev 0x20000).spans c.nextBytes
      ∧ c.src.toNat % 4096 + c.nextBytes / 4 * 2 ≤ 4096 ∧ (chunking c).ReachesFor c.agent c.src .load (.dev 0x30000)
      ∧ c.bins.length = 64 :=
  ⟨chunking_turn _ ⟨rfl, rfl⟩ (.inr (by decide +kernel)), by decide, chunking_plain _, by decide +kernel,
    reaches_by (.copy 2) (by decide +kernel), spans_dev _ _, by decide +kernel, reaches_by (.copy 2) (by decide +kernel), rfl⟩

/-- CP.COPY with HIST counts, and adds its bins at 0x50000. -/
theorem witness_CopiesMoveBytes_histogram : let c := { copy0 with hist := true, bins := List.replicate 64 0, stage := .chunks }
    CopyTurn (chunking c) 0 c ∧ c.done < c.rowBytes * c.rows ∧ (chunking c).PlainFor c.ctx.pack
      ∧ (chunking c).ReachesFor c.agent c.nextDest .store (.dev 0x20000) ∧ (Place.dev 0x20000).spans c.nextBytes
      ∧ c.nextSource.toNat % 4096 + c.nextBytes ≤ 4096 ∧ (chunking c).ReachesFor c.agent c.nextSource .load (.dev 0x30000) :=
  ⟨chunking_turn _ ⟨rfl, rfl⟩ (.inr (by decide +kernel)), by decide, chunking_plain _, reaches_by (.copy 2) (by decide +kernel),
    spans_dev _ _, by decide +kernel, reaches_by (.copy 2) (by decide +kernel)⟩
theorem witness_CopiesMoveBytes_counts :
    let c := { copy0 with hist := true, haddr := 0x50000, bins := List.replicate 64 1, done := 256, stage := .bins }
    CopyTurn (chunking c) 0 c ∧ 0 < c.done ∧ c.bins.length = 64 ∧ (chunking c).PlainFor c.ctx.pack
      ∧ (chunking c).ReachesFor c.agent c.haddr .rmw (.dev 0x50000) ∧ (Place.dev 0x50000).spans 256
      ∧ Holds (chunking c) ((Place.dev 0x50000).add (4 * 63)) 4 0 :=
  ⟨chunking_turn _ ⟨rfl, rfl⟩ (.inr (by decide +kernel)), by decide, rfl, chunking_plain _, reaches_by (.copy 2) (by decide +kernel),
    spans_dev _ _, by unfold Holds; decide +kernel⟩

/-- Ring 3 of core 0, of 4 entries of 256 bytes: two are held, and the second is filled. -/
def ring3 : Ring :=
  { base := 0x80000, asid := 1, log2n := 2, eb := 256, fill := 1, free := 0, marks := [(0, 1)], reset := true }
def ringing : State := { running ((thr0.setS 4 3).setS 5 1) with rings := [(3, ring3)] }

/-- A RING command on that ring, with its sequence number. -/
def ringCopy (q : Nat) (stage : CpStage) : Copy := { copy0 with ord := false, ring := some 3, q := q, stage := stage }
def ringTurn (q : Nat) (stage : CpStage) : State := { chunking (ringCopy q stage) with rings := [(3, ring3)] }

theorem ringTurn_turn (q : Nat) (stage : CpStage) : RingTurn (ringTurn q stage) 0 (ringCopy q stage) 3 :=
  ⟨rfl, rfl, chunking_alone _, ⟨rfl, rfl, rfl⟩,
    ⟨show (world thr0).packOut (2 ^ 24) = false by decide +kernel, show (world thr0).ringAway 3 = false by decide +kernel⟩,
    fun _ h => nomatch (h : _ ∈ ([] : List Mark))⟩

/-- Command 3 has entry 3 free for it; command 4 waits until entry 0 is freed. -/
theorem witness_CopiesMoveBytes_ring (q : Nat) (stage : CpStage) : RingTurn (ringTurn q stage) 0 (ringCopy q stage) 3
    ∧ ((ringTurn q stage).ring 3).reset = true ∧ (ringCopy q stage).refused = false
    ∧ (BitVec.ofNat 32 3 - ring3.free).toNat < 2 ^ ring3.log2n ∧ 2 ^ ring3.log2n ≤ (BitVec.ofNat 32 4 - ring3.free).toNat :=
  ⟨ringTurn_turn q stage, rfl, rfl, by decide, by decide⟩

theorem witness_CopiesMoveBytes_filled :
    let s := { ringTurn 1 .bar with
      binds := [{ tag := tag0, entryCore := 0, entry := 0, mask := BitVec.allOnes 256, loc := .reg 0 10 }] }
    RingTurn s 0 (ringCopy 1 .bar) 3 ∧ RingIdle s 3 ∧ (s.binds.find? fun b => b.tag == (ringCopy 1 .bar).tag).map (·.loc) = some (.reg 0 10)
      ∧ Mark.pending (ringCopy 1 .bar).tag ∉ s.marks :=
  ⟨⟨rfl, rfl, chunking_alone _, ⟨rfl, rfl, rfl⟩, (ringTurn_turn 1 .bar).present, (ringTurn_turn 1 .bar).clean⟩,
    ⟨by decide +kernel, by decide +kernel, by decide +kernel, by decide +kernel⟩, by decide +kernel, by decide +kernel⟩

theorem ringing_named : RingNamed ringing (ringing.thr.sreg 4) 3 := ⟨by decide +kernel, by decide +kernel, by decide +kernel⟩

theorem witness_RingForms_advance : ringing.Issuable 0 [rs 4, rs 5] (rs 10) ∧ RingNamed ringing (ringing.thr.sreg 4) 3
    ∧ RingIdle ringing 3 :=
  ⟨issuable_of (by decide +kernel) (by decide +kernel) (by decide +kernel), ringing_named,
    ⟨by decide +kernel, by decide +kernel, by decide +kernel, by decide +kernel⟩⟩

/-- FILL has reached 1 and FREE has not; entry 0 is poisoned in the second state. -/
theorem witness_RingForms_wait : (ringing.ring 3).reset = true
    ∧ ((ringing.ring 3).fill - 1).toNat < 2 ^ 31 ∧ ¬((ringing.ring 3).free - 1).toNat < 2 ^ 31
    ∧ (∀ j < 1, (ringing.ring 3).mark j ≠ 2)
    ∧ (({ ringing with rings := [(3, { ring3 with marks := [(0, 2)] })] } : State).ring 3).mark 0 = 2 := by decide +kernel

theorem witness_RingForms_unnamed : let s := { ringing with rings := [] }
    s.Issuable 0 [rs 4, rs 5] (rs 10) ∧ ∀ key, RingNamed s (s.thr.sreg 4) key → (s.ring key).reset = false := by
  refine ⟨issuable_of (by decide +kernel) (by decide +kernel) (by decide +kernel), fun key h => ?_⟩
  have : key = 3 := h.number.trans (by decide +kernel)
  subst this; decide +kernel

/-- RING.RESET of ring 3 to 2^4 entries of 512 bytes at 0x80000; 13 bits of entries are too many. -/
theorem witness_RingForms_reset : let s := running (((thr0.setS 4 3).setS 5 0x80000).setS 6 0x400000004)
    s.Issuable 0 [rs 4, rs 5, rs 6] (rs 10) ∧ RingNamed s (s.thr.sreg 4) 3 ∧ (s.thr.sreg 5).toNat % 4096 = 0
      ∧ s.liesSc s.ctx.agent (s.thr.sreg 5) = true ∧ (s.thr.sreg 6).toNat % 2 ^ 16 = 4 ∧ (s.thr.sreg 6).toNat / 2 ^ 32 = 4
      ∧ ¬(0x40000000D % 2 ^ 16 ≤ 12) :=
  ⟨issuable_of (by decide +kernel) (by decide +kernel) (by decide +kernel), ⟨by decide +kernel, by decide +kernel, by decide +kernel⟩,
    by decide +kernel, by decide +kernel, by decide +kernel, by decide +kernel, by decide⟩

theorem witness_RingForms_takes_effect :
    let s := { event (.completion 0) (running thr0) with flying := [⟨tag0, ctx0, .reset 3 0x80000 4 512⟩] }
    s.ev = some (.completion 0) ∧ s.flying[0]? = some ⟨tag0, ctx0, .reset 3 0x80000 4 512⟩
      ∧ (s.core (3 / 16)).pack.map (· / 2 ^ 24) = some (ctx0.pack / 2 ^ 24) := ⟨rfl, rfl, by decide +kernel⟩

/-! ### Witnesses: collectives -/

/-- A collective record (R234): GROUP 7, GEN 1, one level of bound 2, transfers of 256 bytes from 0x30000, one peer, whose base
address stands at 0x50200. -/
def recordBytes : List Byte :=
  [7, 0, 1, 1, 0, 0, 1, 0, 0, 1, 0, 0, 0, 0, 0, 0] ++ [0, 0, 3, 0, 0, 0, 0, 0, 0, 2, 5, 0, 0, 0, 0, 0] ++ List.replicate 32 0
    ++ [2, 0, 0, 0, 0, 0, 0, 0, 0, 1, 0, 0, 0, 1, 0, 0] ++ List.replicate 176 0
def record0 : CollRec :=
  { group := 7, gen := 1, op := 0, ty := 0, p := 1, xfer := 256, rearm := false, bar := false, sbase := 0x30000, peertab := 0x50200,
    phaser := 0, restride := 0, doff := 0,
    levels := [{ bound := 2, pa := 0, pb := 0, sstride := 256, dstride := 256 }], runs := 0 }
theorem test_collRec : recordBytes.length = 256 ∧ collRec recordBytes = some record0 := by decide +kernel

def commanding : State := withBytes (running (thr0.setS 4 0x50000)) 0x50000 recordBytes

theorem commanding_record : RecordAtArm commanding (commanding.thr.sreg 4) 0x50000 recordBytes :=
  ⟨by decide +kernel, reaches_by (.walker 0) (by decide +kernel), test_collRec.1, by unfold BytesAt; decide +kernel⟩

theorem witness_CollectiveCommands_arm : let s := commanding
    s.Issuable 0 [rs 4] (rs 10) ∧ RecordAtArm s (s.thr.sreg 4) 0x50000 recordBytes ∧ RecordAllowed s record0 ∧ s.quarantine = []
      ∧ s.coll? (handleKey s 0) = none ∧ s.colls = [] :=
  ⟨issuable_of (by decide +kernel) (by decide +kernel) (by decide +kernel), commanding_record,
    ⟨by decide +kernel, fun h => absurd h (by decide)⟩, rfl, by decide +kernel, rfl⟩
/-- A GROUP in quarantine; and one that is armed. -/
theorem witness_CollectiveCommands_quarantine : ∃ q ∈ ({ commanding with quarantine := [(7, 100)] } : State).quarantine,
    q.1 = record0.group ∧ commanding.now.toNat < q.2 := ⟨(7, 100), .head _, rfl, by decide +kernel⟩
/-- A record that is all zeros; one with SBASE on a page of the host; one with BAR and a phaser that is not aligned. -/
theorem witness_CollectiveCommands_bad : collRec (List.replicate 256 0) = none
    ∧ (({ commanding with tlb := [{ page0 with leaf := 0x100000000000007F, holder := .walker 0 }] } : State).beyond
        commanding.ctx.walker record0.sbase).outside = true
    ∧ { record0 with bar := true, phaser := 8 }.phaser.toNat % 32 ≠ 0 := by decide +kernel

def armed0 : Armed :=
  { cr := record0, addr := 0x50000, ctx := ctx0, order := 0, resume := [0, 0, 0, 0], barAt := none, latest := none, run := none }
def run0 : CollRun :=
  { tag := tag0, ctx := ctx0, stage := .sending, number := 0, idx := some [1, 0, 0, 0], xfers := 1, waiting := none, writes := [],
    aborted := false, hold := none }
def walking (r : Option CollRun) (s : State) : State := { s with colls := [(0, { armed0 with run := r })] }

theorem witness_CollectiveCommands_grouped : GroupArmed (walking none (running thr0)) record0.group :=
  ⟨(0, armed0), .head _, by decide +kernel, rfl⟩
/-- Handle 0 is armed and has no run; handle 1 is not armed. -/
theorem witness_CollectiveCommands_armed : let s := walking none (running (thr0.setS 5 1))
    s.Issuable 0 [rs 4] (rs 10) ∧ (s.thr.sreg 4).toNat = 0 ∧ s.coll? (handleKey s 0) = some armed0 ∧ armed0.run = none
      ∧ s.disarming = [] ∧ s.phasers = [] ∧ (s.thr.sreg 5).toNat = 1 ∧ s.coll? (handleKey s 1) = none :=
  ⟨issuable_of (by decide +kernel) (by decide +kernel) (by decide +kernel), by decide +kernel, by decide +kernel, rfl, rfl, rfl,
    by decide +kernel, by decide +kernel⟩

/-- The walker of die 0 sends the second transfer to the peer, whose base is 0x60000. -/
def notice0 : NoticePkt := { group := 7, gen := 1, run := 0, module := 0, die := 0, asked := 0, sent := 0, via := none }
def sending : State :=
  { withBytes (walking (some run0) (event (.transfer 0 0) (world thr0))) 0x50200 (natLe 8 0x60000) with notices := [notice0] }
theorem sending_wf : sending.wf :=
  wf_withBytes (s := walking (some run0) (event (.transfer 0 0) (world thr0))) (wf_nil ⟨rfl, rfl, rfl, rfl⟩) 0x50200 (natLe 8 0x60000)
theorem witness_Transfers_send : let s := sending
    s.ev = some (.transfer 0 0) ∧ s.coll? 0 = some { armed0 with run := some run0 } ∧ s.PlainFor run0.ctx.pack
      ∧ s.ReachesFor run0.ctx.walker 0x50200 .load (.dev 0x50200) ∧ Holds s (.dev 0x50200) 8 0x60000
      ∧ s.ReachesFor run0.ctx.walker 0x30100 .load (.dev 0x30100) ∧ s.ReachesFor run0.ctx.walker 0x60100 .store (.dev 0x60100)
      ∧ (∃ n ∈ s.notices, n.group = record0.group ∧ n.gen = record0.gen ∧ n.module = s.module ∧ n.die = 0x60100 / Config.dieBytes
        ∧ run0.number ≤ n.run) :=
  ⟨rfl, by decide +kernel, plainFor_of (by decide +kernel) sending_wf, reaches_by (.walker 0) (by decide +kernel),
    by unfold Holds; decide +kernel, reaches_by (.walker 0) (by decide +kernel), reaches_by (.walker 0) (by decide +kernel),
    ⟨notice0, by decide +kernel, by decide +kernel⟩⟩

def sent0 : Sent := { key := 0, run := 0, idx := [1, 0, 0, 0], die := 2, own := false, answer := none, since := 0 }
/-- The answer comes in at port 5, whose beacon has been checked in this slot; one that comes in at port 6 is not delivered. -/
theorem witness_Transfers_acknowledged :
    let s := { event (.transferAck 0 false (some 5)) (world thr0) with sent := [sent0], portSeen := [(5, 0)] }
    s.sent[0]? = some sent0 ∧ sent0.own = false ∧ s.checkedIn s.slotNow 5 = true ∧ s.checkedIn s.slotNow 6 = false := by decide +kernel
theorem witness_Transfers_refused :
    let s := { walking (some run0) (event (.transferAck 0 true (some 5)) (world thr0)) with sent := [sent0], portSeen := [(5, 0)] }
    s.sent[0]? = some sent0 ∧ sent0.own = false ∧ s.checkedIn s.slotNow 5 = true ∧ RunOpen s sent0.key :=
  ⟨rfl, rfl, by decide +kernel, run0, by decide +kernel, by decide⟩
theorem witness_Transfers_own : let s := { event (.transferAck 0 false none) (world thr0) with sent := [{ sent0 with own := true, answer := some false }] }
    s.sent[0]? = some { sent0 with own := true, answer := some false } := rfl

def pkt0 : XferPkt :=
  { group := 7, gen := 1, module := 3, die := 2, run := 4, idx := [0, 0, 0, 0], dst := [(0x60000, 4)], op := 0, ty := 0,
    data := [1, 2, 3, 4], sent := 0, via := some 5, after := none }
/-- The beacon of port 5 has been checked in this slot (R394). -/
def receiving (p : XferPkt) : State := { walking none (event (.transferReceive p) (world thr0)) with portSeen := [(5, 0)] }
theorem witness_Transfers_receive : let s := receiving pkt0
    pkt0.module ≠ s.module ∧ s.arrives pkt0.module pkt0.via = true ∧ s.inSequence pkt0 = true ∧ s.early = []
      ∧ ¬tooOld s pkt0.sent ∧ s.groupOn (0x60000 / Config.dieBytes) 7 = some (0, armed0) ∧ s.applied = []
      ∧ s.trails = [] ∧ s.phasers = [] ∧ s.wf :=
  ⟨by decide +kernel, by decide +kernel, by decide +kernel, rfl, by unfold tooOld; decide +kernel, by decide +kernel, rfl, rfl, rfl,
    wf_nil ⟨rfl, rfl, rfl, rfl⟩⟩
/-- One that has overtaken the transfer of run 3 before it, and one at a port whose beacon is not checked. -/
theorem witness_Transfers_overtakes : let p := { pkt0 with after := some (3, [0, 0, 0, 0]) }
    (receiving p).arrives p.module p.via = true ∧ (receiving p).inSequence p = false
      ∧ (receiving p).groupOn 0 7 = some (0, armed0) ∧ armed0.cr.gen = p.gen ∧ (receiving p).arrives p.module (some 6) = false := by
  decide +kernel
/-- Another GEN; and a packet that was sent 50 µs before. -/
theorem witness_Transfers_turned_away : (receiving { pkt0 with gen := 2 }).groupOn 0 7 = some (0, armed0) ∧ armed0.cr.gen ≠ 2
    ∧ tooOld { receiving pkt0 with now := 50000 * 0x10000 } pkt0.sent := ⟨by decide +kernel, by decide,
      by unfold tooOld; decide +kernel⟩
theorem witness_Transfers_again : let s := { receiving pkt0 with applied := [⟨0, 7, 1, 3, 2, 4, [0, 0, 0, 0]⟩] }
    s.groupOn 0 pkt0.group = some (0, armed0) ∧ s.inSequence pkt0 = true ∧ s.early = [] ∧ ¬tooOld s pkt0.sent
      ∧ idxAfter pkt0.idx [0, 0, 0, 0] = false :=
  ⟨by decide +kernel, by decide +kernel, rfl, by unfold tooOld; decide +kernel, by decide⟩

theorem witness_NoticesAndTimeouts_kept :
    let n := { notice0 with module := 3, via := some 5 }
    let s := { walking none (event (.releaseNotice n) (world thr0)) with portSeen := [(5, 0)] }
    (3 : Nat) ≠ s.module ∧ s.arrives n.module n.via = true ∧ ¬tooOld s 0 ∧ ∃ x ∈ s.colls, x.2.cr.group = 7 ∧ x.2.cr.gen = 1 :=
  ⟨by decide +kernel, by decide +kernel, by unfold tooOld; decide +kernel, ⟨(0, armed0), .head _, by decide⟩⟩
theorem witness_NoticesAndTimeouts_answers :
    let s := { event (.noticeRequest notice0) (world thr0) with
      colls := [(0, { armed0 with latest := some 2 })], ownRequests := [notice0] }
    notice0.module = s.module ∧ notice0 ∈ s.ownRequests ∧ s.groupOn 0 7 = some (0, { armed0 with latest := some 2 }) :=
  ⟨by decide +kernel, by decide +kernel, by decide +kernel⟩
theorem witness_NoticesAndTimeouts_elsewhere : { notice0 with module := 3 }.module ≠ (event (.noticeRequest notice0)).module := by
  decide +kernel
/-- A transfer that waits since NOW 0, 20 ms later. -/
def wait0 : NoticeWait := { since := 0, last := 0, module := 3, die := 1 }
def waiting0 (e : Event) : State := { walking (some { run0 with waiting := some wait0 }) (event e (world thr0)) with now := 0x1312D000000, sent := [sent0] }
theorem witness_NoticesAndTimeouts_late : let s := waiting0 (.noticeWaitTimeout 0 0)
    s.runOn 0 = some { run0 with waiting := some wait0 } ∧ 10000000 * Config.ns ≤ s.now.toNat ∧ RunOpen s 0 ∧ sent0 ∈ s.sent
      ∧ sent0.key = 16 * 0 + 0 :=
  ⟨by decide +kernel, by decide +kernel, ⟨{ run0 with waiting := some wait0 }, by decide +kernel, by decide⟩, by decide +kernel, rfl⟩
def arming0 : Arming := { tag := tag0, ctx := ctx0, addr := 0x50000, cr := some record0, hold := none }
theorem witness_NoticesAndTimeouts_quarantine :
    let s := { event (.quarantineEnd 0) (world thr0) with arming := [arming0], quarantine := [(7, 100)], now := 100 }
    s.arming[0]? = some arming0 ∧ (∀ q ∈ s.quarantine, q.1 = 7 → q.2 ≤ s.now.toNat) ∧ s.coll? 0 = none ∧ s.colls = [] :=
  ⟨rfl, by decide +kernel, by decide +kernel, rfl⟩

/-! ### Witnesses: streams -/

/-- STRM.GO of tile 2 and of bus 1, which the pack holds, with the program's address in s4; a thread of class D1 needs REF. -/
def starting (t : Thread) : State := world (t.setS 4 0x60000)
theorem witness_StreamCommands_go : let s := starting thr0
    s.Issuable 0 [rs 4, rs 5] (rs 10) ∧ s.thr.dclass = false ∧ s.hasTile 2 ∧ s.hasBus 1 ∧ ¬s.hasTile 3 ∧ ProgramAllowed s (s.thr.sreg 4)
      ∧ (starting { thr0 with dclass := true }).thr.dclass = true :=
  ⟨issuable_of (by decide +kernel) (by decide +kernel) (by decide +kernel), by decide +kernel, ⟨pack1, by decide +kernel, by decide⟩,
    ⟨pack1, by decide +kernel, by decide⟩,
    fun ⟨p, h, m⟩ => by
      have : (starting thr0).pack? (starting thr0).thr.pack = some pack1 := by decide +kernel
      rw [this] at h; cases h; exact absurd m (by decide),
    ⟨by decide +kernel, by decide +kernel, _, _, (by decide +kernel : (starting thr0).beyond (starting thr0).ctx.agent 0x60000 = .ok (.dev 0x60000) (some page0))⟩, by decide +kernel⟩

/-- STRM.REG of tile 2 to bus 1, to a bus whose laser is lost, and to an import port that is not up. -/
theorem witness_StreamCommands_reg : let s := world ((thr0.setS 4 1).setS 5 6)
    s.Issuable 0 [rs 4] (rs 10) ∧ s.hasTile 2 ∧ ((s.seqr 2).sel = none ∧ (s.seqr 2).join = none ∧ (s.seqr 2).cmd = none)
      ∧ (s.thr.sreg 4).toNat % 8 = 1 ∧ SessionOpen s 1 ∧ (s.thr.sreg 5).toNat % 8 = 6 ∧ ¬SessionOpen s 6
      ∧ (({ s with buses := [(1, { idleBus 1 with lost := true })] } : State).bus 1).lost = true :=
  ⟨issuable_of (by decide +kernel) (by decide +kernel) (by decide +kernel), ⟨pack1, by decide +kernel, by decide⟩, by decide +kernel,
    by decide +kernel, ⟨by decide +kernel, by decide +kernel, pack1, by decide +kernel, by decide +kernel⟩, by decide +kernel,
    by unfold SessionOpen; decide +kernel, by decide +kernel⟩

/-- STRM.DEREG of a tile that is registered; thread 0 of a pack without tiles has none. -/
theorem witness_StreamCommands_dereg : let s := { world thr0 with seqrs := [(2, { idleSeqr with sel := some 1 })] }
    s.Issuable 0 [] (rs 10) ∧ s.hasTile 2 ∧ (s.seqr 2).sel ≠ none ∧ ((world thr0).seqr 2).sel = none :=
  ⟨issuable_of (by decide +kernel) (by decide +kernel) (by decide +kernel), ⟨pack1, by decide +kernel, by decide⟩, by decide +kernel,
    by decide +kernel⟩

/-- A port that is configured and up, with a delay of 3,180 symbols (R397); one that is not up; one with too long a delay. -/
def aligning (bits : Nat) (delay : Nat) : State :=
  { (world thr0).setCreg 0x90A0 (BitVec.ofNat 64 (bits * 2 ^ 62)) with arrivals := [(0, delay)] }
theorem witness_StreamCommands_align : let s := aligning 3 3180
    s.Issuable 0 [rs 4] (rs 10) ∧ (s.thr.sreg 4).toNat % 4 = 0 ∧ (∃ r, s.regionOf s.thr.pack = some r ∧ r.link = true)
      ∧ s.cfield 0x90A0 63 63 = 1 ∧ s.cfield 0x90A0 62 62 = 1 ∧ tget 0 s.arrivals 0 = 3180 ∧ (aligning 2 0).cfield 0x90A0 62 62 = 0
      ∧ 4095 < tget 0 (aligning 3 4096).arrivals 0 ∧ (aligning 1 0).cfield 0x90A0 63 63 = 0 :=
  ⟨issuable_of (by decide +kernel) (by decide +kernel) (by decide +kernel), by decide +kernel, ⟨region0, by decide +kernel, rfl⟩,
    by decide +kernel, by decide +kernel, by decide +kernel, by decide +kernel, by decide +kernel, by decide +kernel⟩
/-- R397: a delay of 3,180 leaves a slack of 915. -/
theorem test_slack : min 3180 (4095 - 3180) = 915 := by decide

/-! The sequencers: q runs the program of cmd0. -/

def cmd0 : SCmd := { tag := tag0, ctx := ctx0, prog := 0x60000, arg := 0, ref := false, started := true, number := 0 }
def seq0 : Seqr := { idleSeqr with cmd := some cmd0 }
def sequencing (q : Nat) (x : Seqr) : State := { world thr0 with curq := q, seqrs := [(q, x)] }

/-- SETLC, SCL with a constant scale of 255, WNOW and a word without an opcode, on tile 2. -/
theorem witness_StreamConfiguration_words : Running (sequencing 2 seq0) 2 seq0 cmd0
    ∧ (∃ y, confAfter seq0.conf cmd0.ref (.sSetlc 1 5) = some y) ∧ confAfter seq0.conf cmd0.ref (.sScl 1 0xFF) = none
    ∧ mayRefuse (.sScl 1 0xFF) = true := ⟨⟨rfl, rfl, rfl⟩, ⟨_, rfl⟩, by decide +kernel, rfl⟩
theorem witness_StreamConfiguration_end : Running (sequencing 2 seq0) 2 seq0 cmd0 ∧ seq0.Accumulated ∧ seq0.sdone.firstDeg = none :=
  ⟨⟨rfl, rfl, rfl⟩, ⟨rfl, rfl⟩, rfl⟩
theorem witness_StreamConfiguration_degraded : let x := { seq0 with sdone := { seq0.sdone with firstDeg := some 3 } }
    Running (sequencing 2 x) 2 x cmd0 ∧ x.Accumulated ∧ x.sdone.firstDeg = some 3
      ∧ (sequencing 2 x).regionOf cmd0.ctx.pack = some region0 ∧ region0.poison = true :=
  ⟨⟨rfl, rfl, rfl⟩, ⟨rfl, rfl⟩, rfl, by decide +kernel, rfl⟩

/-- The window of a RUN in REFMODE at gain 8 with WD 2, E2M1 and a constant scale of 2^0. -/
def window0 : Window :=
  { conf := { startConf [0, 0, 0, 0] true with wd := 2, g := 8, fmt := 2, scm := 1, scx := 127, mode := true }, optr := 0,
    keep := false,
    bus := 1, ring := 3, q := 0, entry := [], frame := none, lost := 0, margin := 64, alarm := false, rerun := false, missed := false,
    key := 0, cal := false }
theorem witness_StreamBindings_waits : let x := { seq0 with busy := some window0 }
    Running (sequencing 2 x) 2 x cmd0 ∧ waitsForWindows (.sRing 0 0 3) = true ∧ ¬x.Accumulated :=
  ⟨⟨rfl, rfl, rfl⟩, rfl, fun h => nomatch h.1⟩
/-- RUN.K of program 0 has been sent, and a listener has still to finish its window; a frame of another program does not count. -/
theorem witness_StreamBindings_unheard : let x := { seq0 with unfreed := [⟨0, 3, true⟩] }
    Running (sequencing 33 x) 33 x cmd0 ∧ x.unheard = true ∧ { seq0 with unfreed := [⟨2 ^ 32, 3, false⟩] }.unheard = false :=
  ⟨⟨rfl, rfl, rfl⟩, by decide, by decide⟩
theorem witness_StreamBindings_ring : let s := { sequencing 2 seq0 with rings := [(3, ring3)] }
    Running s 2 seq0 cmd0 ∧ seq0.Accumulated ∧ seq0.unheard = false ∧ RingBindable s cmd0 0 3 3 ∧ (∀ n, Mark.ring 3 n ∉ s.marks)
      ∧ Mark.ring 3 0 ∈ ({ s with marks := [.ring 3 0] } : State).marks :=
  ⟨⟨rfl, rfl, rfl⟩, ⟨rfl, rfl⟩, rfl, ⟨by decide, by decide +kernel, by decide +kernel⟩,
    (fun _ h => nomatch (h : _ ∈ ([] : List Mark))), .head _⟩
theorem witness_StreamBindings_refused : Running (sequencing 34 seq0) 34 seq0 cmd0 ∧ ((1 : BitVec 2) = 1 ∧ 32 ≤ 34) :=
  ⟨⟨rfl, rfl, rfl⟩, by decide⟩
theorem witness_StreamBindings_selects : let s := sequencing 2 seq0
    Running s 2 seq0 cmd0 ∧ seq0.join = none ∧ seq0.leaving = false ∧ s.selectable 1 (cmd0.ctx.pack / 2 ^ 24) = none
      ∧ (({ s with buses := [(0, { idleBus 0 with lost := true })] } : State).bus 0).lost = true :=
  ⟨⟨rfl, rfl, rfl⟩, rfl, rfl, by decide +kernel, by decide +kernel⟩
/-- A transmitter whose ring holds entries of 4,096 bytes runs; a tile without a session but with a ring of 256 does not. -/
def sender0 : Seqr := { seq0 with inr := some 3, conf := window0.conf }
theorem witness_StreamBindings_run : let s := { sequencing 33 sender0 with rings := [(3, { ring3 with eb := 4096, marks := [] })] }
    Running s 33 sender0 cmd0 ∧ RunAllowed s 33 sender0 3 :=
  ⟨⟨rfl, rfl, rfl⟩, rfl, by decide +kernel, fun h => absurd h (by decide), fun b h => by
    rcases h with h | h
    · have : b = 1 := by omega
      subst this; decide +kernel
    · exact absurd h.1 (by decide), rfl, (fun _ h => nomatch (h : _ ∈ ([] : List Mark))), .inl (by decide +kernel)⟩
/-- The entry is filled, and lies on one page. -/
theorem witness_StreamBindings_run_filled : let s := { sequencing 33 sender0 with rings := [(3, { ring3 with eb := 4096 })] }
    (s.ring 3).mark sender0.cursor.toNat = 1 ∧ entryNeeds true sender0.conf = 4096
      ∧ s.paged (sender0.agent 33) .load ((s.ring 3).entry sender0.cursor.toNat) 4096 = .ok := by decide +kernel
theorem witness_StreamBindings_short : let s := { sequencing 33 sender0 with rings := [(3, ring3)] }
    Running s 33 sender0 cmd0 ∧ ∀ key, sender0.inr = some key → (s.ring key).eb < entryNeeds (decide (32 ≤ 33)) sender0.conf :=
  ⟨⟨rfl, rfl, rfl⟩, fun key h => by cases h; decide +kernel⟩

/-- DRAIN of set 1 of tile 2 to 0x60000, in rows of 512 bytes. -/
def drainer (row : Nat) : Seqr :=
  { seq0 with optr := 0x60000, row := row, par := { seq0.par with opitch := 512, ostep := 0x8000, phaser := 0x40000 } }
theorem draining_wf (x : Seqr) : (sequencing 2 x).wf := wf_nil ⟨rfl, rfl, rfl, rfl⟩
theorem draining_plain (x : Seqr) : (sequencing 2 x).PlainFor cmd0.ctx.pack :=
  plainFor_of ⟨show (world thr0).trailOf (2 ^ 24) = none by decide +kernel, rfl, rfl, rfl⟩ (draining_wf x)
theorem witness_StreamDrains_row : let s := sequencing 2 (drainer 0)
    DrainRow s 2 (drainer 0) cmd0 1 0 0 ∧ (drainer 0).row < 64 ∧ 0x60000 % 4096 + 512 ≤ 4096
      ∧ s.ReachesFor ((drainer 0).agent 2) 0x60000 .store (.dev 0x60000) ∧ (Place.dev 0x60000).spans 512 :=
  ⟨⟨⟨rfl, rfl, rfl⟩, by decide, by decide, ⟨rfl, rfl⟩, rfl, draining_plain _, fun _ => ⟨by decide +kernel, fun _ => by decide +kernel⟩⟩,
    by decide, by decide, reaches_by (.seqr 2) (by decide +kernel), spans_dev _ _⟩
theorem witness_StreamDrains_last : DrainRow (sequencing 2 (drainer 64)) 2 (drainer 64) cmd0 1 0 0 :=
  ⟨⟨rfl, rfl, rfl⟩, by decide, by decide, ⟨rfl, rfl⟩, rfl, draining_plain _, fun h => absurd h (by decide)⟩
theorem witness_StreamDrains_phaser : let s := sequencing 2 (drainer 65)
    DrainRow s 2 (drainer 65) cmd0 1 0 0
      ∧ s.PhaserAt ((drainer 65).agent 2) (drainer 65).barAt (drainer 65).par.phaser (.dev 0x40000)
      ∧ s.awayPhaser (drainer 65).barAt = false ∧ s.flipWaits (.dev 0x40000) = false ∧ (s.ph (.dev 0x40000)).broken = false
      ∧ ¬flipsNow { s.ph (.dev 0x40000) with arrb := 32768 } :=
  ⟨⟨⟨rfl, rfl, rfl⟩, by decide, by decide, ⟨rfl, rfl⟩, rfl, draining_plain _, fun h => absurd h (by decide)⟩,
    .inr ⟨rfl, reaches_by (.seqr 2) (by decide +kernel)⟩, by decide +kernel, by decide +kernel, by decide +kernel,
    by unfold flipsNow; decide +kernel⟩
theorem witness_StreamDrains_refused : Running (sequencing 2 seq0) 2 seq0 cmd0 ∧ seq0.Accumulated ∧ 3 ≤ (3 : BitVec 3).toNat :=
  ⟨⟨rfl, rfl, rfl⟩, ⟨rfl, rfl⟩, by decide⟩

/-! ### Witnesses: frames -/

/-- A boundary of bus 1 while the optics run (R251). -/
def boundary (seqrs : Table Seqr) (flight : Option Frame) : State :=
  { (event (.frameBoundary 1 0 0 []) (world thr0)).setCfield 0x20 0 0 1 with
    seqrs := seqrs, buses := [(1, { idleBus 1 with flight := flight })],
      rings := [(3, { ring3 with base := 0x90000, eb := 4096, marks := [(0, 1)] })] }

theorem seqr_else {s : State} {l : List (Nat × Seqr)} (h : s.seqrs = l) (j : ∀ x ∈ l, x.2.join = none) (q : Nat) :
    (s.seqr q).join = none := by
  have e : s.seqr q = tget idleSeqr l q := by show tget idleSeqr s.seqrs q = _; rw [h]
  rw [e]
  clear e h
  induction l with
  | nil => rfl
  | cons a l ih =>
    obtain ⟨i, w⟩ := a
    show (if q = i then w else if q < i then idleSeqr else tget idleSeqr l q).join = none
    split
    · exact j (i, w) (List.mem_cons_self ..)
    · split
      · rfl
      · exact ih fun x hx => j x (List.mem_cons_of_mem _ hx)

theorem witness_FrameBoundaries_admits : let x := { sender0 with run := some window0 }
    let s := boundary [(33, x)] none
    QuietBoundary s 1 ∧ s.members 1 = [33] ∧ s.seqr 33 = x ∧ x.goes = true ∧ x.closed = [] ∧ x.wnow ≤ s.now.toNat
      ∧ (s.ring 3).mark x.inq.toNat = 1
      ∧ 2 ^ 31 ≤ (x.inq - (s.ring 3).fill).toNat ∧ (s.bus 1).flight = none ∧ s.fellowOut 1 = false ∧ s.marks = []
        ∧ entryNeeds true window0.conf = 4096
      ∧ s.ReachesFor (x.agent 33) 0x90000 .load (.dev 0x90000) :=
  ⟨⟨rfl, by decide, by decide +kernel, by decide +kernel, seqr_else rfl (by decide), by decide +kernel⟩, by decide +kernel,
    by decide +kernel, rfl, rfl, by decide +kernel, by decide +kernel, by decide +kernel, by decide +kernel, by decide +kernel,
    by decide +kernel, by decide +kernel,
    reaches_by (.seqr 33) (by decide +kernel)⟩

/-- Tile 2 listens, and waits on entry 0 of the same ring for a frame of WD 1; where its last window is under way it is not
ready. -/
def window1 : Window := { window0 with conf := { window0.conf with wd := 1 } }
def listener (b : Option Window) : Seqr :=
  { seq0 with sel := some 1, inr := some 3, conf := window1.conf, run := some window1, busy := b }
def heard (b : Option Window) : State := boundary [(2, listener b),
  (33, { sender0 with run := some window1, conf := window1.conf })] none
theorem heard_joins (b : Option Window) (q : Nat) : ((heard b).seqr q).join = none :=
  seqr_else (l := [(2, listener b), (33, { sender0 with run := some window1, conf := window1.conf })]) rfl
    (List.forall_mem_cons.2 ⟨rfl, List.forall_mem_cons.2 ⟨rfl, fun _ h => nomatch h⟩⟩) q
theorem witness_FrameBoundaries_heard : let s := heard none
    QuietBoundary s 1 ∧ s.members 1 = [33, 2] ∧ s.fellowOut 1 = false ∧ (s.bus 1).flight = none
      ∧ TileWaits s 2 (listener none) window1 3 (.dev 0x90000) ∧ s.ReachesFor ((s.seqr 33).agent 33) 0x90000 .load (.dev 0x90000) :=
  ⟨⟨rfl, by decide, by decide +kernel, by decide +kernel, heard_joins none, by decide +kernel⟩, by decide +kernel, by decide +kernel,
    by decide +kernel, ⟨by decide +kernel, by decide +kernel, by decide +kernel, by decide +kernel,
      reaches_by (.seqr 2) (by decide +kernel)⟩,
    reaches_by (.seqr 33) (by decide +kernel)⟩
theorem witness_FrameBoundaries_unready : let s := heard (some window1)
    QuietBoundary s 1 ∧ s.members 1 = [33, 2] ∧ (s.bus 1).flight = none ∧ (s.seqr 2).leaving = false ∧ s.tileReady 2 = false
      ∧ (s.seqr 33).again = false :=
  ⟨⟨rfl, by decide, by decide +kernel, by decide +kernel, heard_joins _, by decide +kernel⟩, by decide +kernel, by decide +kernel,
    by decide +kernel, by decide +kernel, by decide +kernel⟩
/-- Lines 0 to 7 of comb 1 are found low; and a bus that is off. -/
theorem witness_FrameBoundaries_low : let s := { boundary [] none with ev := some (.frameBoundary 1 0xFF 0 []) }
    (s.bus 1).comb = 1 ∧ (s.bus 1).off = false ∧ s.cfield 0x8908 0 0 = 0
      ∧ ((List.range 64).filter fun i => (0xFF ||| s.deadMask 1).getLsbD i).length = 8
        ∧ (∀ k < 4, (s.bus k).comb = 1 → (s.bus k).off = false)
      ∧ (({ s with buses := [(1, { idleBus 1 with off := true })] } : State).bus 1).off = true := by decide +kernel

def frame0 : Frame := { number := 5, run := 0, wd := 2, fmt := 2, scm := 1, scx := 127, bytes := [], bad := false }
def hearing : Window := { window0 with frame := some frame0 }
theorem witness_FrameBoundaries_ends : let x := { sender0 with run := some hearing }
    let y := { seq0 with sel := some 1, busy := some hearing }
    let s := boundary [(2, y), (33, x)] (some frame0)
    QuietBoundary s 1 ∧ s.members 1 = [33, 2] ∧ s.windowsOf 1 = [2] ∧ s.seqr 33 = x ∧ s.seqr 2 = y ∧ hearing.conf.mode = true
      ∧ (s.bus 1).flight = some frame0 ∧ frame0.bad = false ∧ y.leaving = false ∧ x.stop = false ∧ y.stop = false :=
  ⟨⟨rfl, by decide, by decide +kernel, by decide +kernel, seqr_else rfl (by decide), by decide +kernel⟩, by decide +kernel,
    by decide +kernel, by decide +kernel, by decide +kernel, rfl, by decide +kernel, rfl, rfl, rfl, rfl⟩

theorem witness_WindowsAccumulate : let x := { seq0 with sel := some 1, closed := [hearing] }
    let s := { event (.accumulation 2) (world thr0) with seqrs := [(2, x)] }
    s.seqr 2 = x ∧ x.closed = hearing :: [] ∧ x.ending = none ∧ hearing.missed = false ∧ hearing.conf.mode = true
      ∧ hearing.conf.acc < 4 ∧ hearing.frame = some frame0 ∧ x.str = none ∧ x.hold = none ∧ s.ringWaits = [] :=
  ⟨by decide +kernel, rfl, rfl, rfl, rfl, by decide, rfl, rfl, rfl, rfl⟩

/-- A frame at import port 0, whose configuration names module 3 and bus 1 and whose last alignment found a delay of 100. -/
def import0 (delay : Nat) : ImportPkt :=
  { port := 0, module := 3, bus := 1, frame := 9, wd := 2, fmt := 2, entry := [], lost := 0, delay := delay }
def importer : Seqr := { sender0 with sel := some 4, run := some window0 }
def importing (delay : Nat) : State :=
  { (event (.importFrame (import0 delay)) (world thr0)).setCreg 0x90A0
      (BitVec.ofNat 64 (3 * 2 ^ 62 + 1 * 2 ^ 48 + 3 * 2 ^ 32 + 100 * 2 ^ 16 + 100)) with
    seqrs := [(2, importer)], rings := [(3, { ring3 with base := 0x90000, eb := 8192, marks := [(0, 1)] })] }
theorem witness_ImportsAndCombs_frame : let s := importing 150
    s.cfield 0x90A0 63 62 = 3 ∧ s.cfield 0x90A0 49 48 = 1 ∧ s.cfield 0x90A0 47 32 = 3 ∧ (s.bus 4).flight = none
      ∧ s.windowsOf 4 = [] ∧ s.listeners 4 = [2] ∧ s.seqr 2 = importer ∧ window0.missed = false
      ∧ (150 ≤ s.cfield 0x90A0 27 16 + s.cfield 0x90A0 11 0 ∧ s.cfield 0x90A0 27 16 ≤ 150 + s.cfield 0x90A0 11 0)
      ∧ s.importReady 2 = true ∧ window0.conf.wd = 2 ∧ window0.conf.fmta = 3
      ∧ (∀ key va n, s.entryAtInq 2 = some (key, va, n) → ∃ s' bs, s.engineRead (importer.agent 2) va n = .data s' bs)
      ∧ ¬(201 ≤ s.cfield 0x90A0 27 16 + s.cfield 0x90A0 11 0) := by
  refine ⟨by decide +kernel, by decide +kernel, by decide +kernel, by decide +kernel, by decide +kernel, by decide +kernel,
    by decide +kernel, rfl, by decide +kernel, by decide +kernel, rfl, rfl, fun key va n h => ?_, by decide +kernel⟩
  have e : (importing 150).entryAtInq 2 = some (3, 0x90000, 8192) := by decide +kernel
  rw [e] at h; cases h
  have r : (match (importing 150).engineRead (importer.agent 2) 0x90000 8192 with | .data _ _ => true | _ => false) = true := by
    decide +kernel
  split at r
  · next s' bs q => exact ⟨s', bs, q⟩
  · exact absurd r (by decide)
theorem witness_ImportsAndCombs_light : let s := event (.importLight 0 3 1 100 true) (importing 0)
    s.cfield 0x8908 0 0 = 0 ∧ (true = true ∧ s.cfield 0x90A0 63 63 = 1 ∧ s.cfield 0x90A0 49 48 = 1 ∧ s.cfield 0x90A0 47 32 = 3) := by
  decide +kernel
theorem witness_ImportsAndCombs_comb : let s := event (.combLoss 1)
    (s.bus 1).comb = 1 ∧ (s.bus 1).off = false ∧ (∀ k < 4, (s.bus k).comb = 1 → k = 1) ∧ s.cfield 0x88B0 1 0 ≠ 2
      ∧ s.cfield 0x8908 0 0 = 0 ∧ s.colls = []
      ∧ s.cfield 0x88C8 1 0 ≠ 2 ∧ s.cfield 0x9050 63 61 = 0 ∧ (s.setCfield 0x88C8 1 0 2).cfield 0x88C8 1 0 = 2 := by decide +kernel

/-! ### Witnesses: queues and launches -/

/-- A packet that R322 accepts: one pack of one core with one thread, boundaries 4 and 8, the RCB at 0x1000, entry 0x10000. -/
def packet0 : List Byte :=
  [1, 0, 1, 1, 4, 0, 8, 0] ++ natLe 8 0x1000 ++ natLe 8 0x10000 ++ natLe 8 7 ++ [1, 0, 0, 0, 1, 0, 0, 0] ++ List.replicate 88 0
theorem packet0_good : PacketGood packet0 := by
  refine ⟨?_, ?_, ?_, ?_, ?_, ?_, ?_, ?_, ?_⟩ <;> decide +kernel
theorem zeros_bad : ¬PacketGood (List.replicate 128 0) := fun h => absurd h.kind (by decide +kernel)

/-- Queue 3 after boot: 16 slots from 0x200000, address space 1, the QRCB at 0x1000; n packets are visible. -/
def queueing (e : Event) (n : BitVec 32) (bs : List Byte) : State :=
  let o := 0x1000 + 0x40 * 3
  { ((((event e (world thr0)).setCfield 0x10 7 0 6).setCreg o 0x200000).setCreg (o + 8) 0x0001000000000041).setCreg (o + 0x10) 0x1000 with
    queues := [(3, { visible := n, hold := none })], mem := mwrite [] 0x200000 bs }

theorem witness_QueuesTakePackets_qctl : (queueing (.qctl 3 0x41) 0 []).cfield 0x10C8 0 0 = 1
    ∧ (event (.qctl 3 0x41)).cfield 0x10C8 0 0 = 0
    ∧ ((0x41 : BitVec 64).getLsbD 0 = true ∧ 4 ≤ (0x41 : BitVec 64).toNat / 2 ^ 4 % 16 ∧ (0x41 : BitVec 64).toNat / 2 ^ 4 % 16 ≤ 12)
    ∧ ¬((0x31 : BitVec 64).getLsbD 0 = true ∧ 4 ≤ (0x31 : BitVec 64).toNat / 2 ^ 4 % 16) := by decide +kernel
theorem witness_QueuesTakePackets_doorbell : let s := queueing (.doorbell 3 16) 0 []
    (s.cfield 0x10 7 0 = 6 ∧ s.cfield 0x10C8 0 0 = 1 ∧ s.cfield 0x10E8 7 0 = 0) ∧ s.cfield 0x10C8 7 4 = 4 ∧ s.cfield 0x10D8 31 0 = 0
      ∧ (2 ^ 4 : Nat) < (17 : BitVec 32).toNat ∧ (16 : BitVec 32).toNat ≤ 2 ^ 4 ∧ ¬(event (.doorbell 3 16)).cfield 0x10 7 0 = 6 := by
  decide +kernel
theorem witness_QueuesTakePackets_beyond : let s := (queueing (.acceptance 3) 1 []).setCreg 0x10C0 0x165A0BC0000
    s.queueWaits 3 = true ∧ (s.queue 3).hold = none ∧ Config.deviceBytes < s.slotAt 3 + 128 := by decide +kernel

theorem queueing_next (bs : List Byte) (h : bs.length = 128)
    (e : (queueing (.acceptance 3) 1 bs).locate ((queueing (.acceptance 3) 1 bs).queueAgent 3)
      (BitVec.ofNat 64 ((queueing (.acceptance 3) 1 bs).cfield 0x10D0 51 8 * 256)) .load = .ok (.dev 0x1000) (some page0))
    (b : BytesAt (queueing (.acceptance 3) 1 bs) (.dev 0x200000) bs) :
    PacketNext (queueing (.acceptance 3) 1 bs) 3 bs :=
  ⟨rfl, ⟨show (queueing (.acceptance 3) 1 []).queueWaits 3 = true by decide +kernel, rfl⟩,
    ⟨show (queueing (.acceptance 3) 1 []).slotAt 3 + 128 ≤ Config.deviceBytes by decide +kernel, rfl, h, by
      rw [show (queueing (.acceptance 3) 1 bs).slotAt 3 = 0x200000 from
        show (queueing (.acceptance 3) 1 []).slotAt 3 = 0x200000 by decide +kernel]
      exact b⟩, by
      rw [e]; nofun⟩

theorem witness_QueuesTakePackets_refused : PacketNext (queueing (.acceptance 3) 1 (List.replicate 128 0)) 3 (List.replicate 128 0)
    ∧ ¬PacketGood (List.replicate 128 0) ∧ packetFlag (List.replicate 128 0) 3 = false ∧ packetFlag (List.replicate 128 0) 4 = false :=
  ⟨queueing_next _ (by decide +kernel) (by decide +kernel) (by unfold BytesAt; decide +kernel), zeros_bad, by decide +kernel,
    by decide +kernel⟩

theorem packet0_acceptable {s : State} {ag : Agent} (l : s.locate ag 0x1000 .load = .ok (.dev 0x1000) (some page0))
    (r : s.region? 0x1000 = some region0) : Acceptable s ag 0x1000 packet0 region0 :=
  ⟨packet0_good, ⟨0x1000, some page0, l, r⟩, by decide, rfl, by decide +kernel, by decide +kernel, by decide +kernel,
    fun m h => absurd h (List.not_mem_nil), ⟨.inl (by decide +kernel), fun h => absurd h (by decide +kernel)⟩,
    fun k h f => by rcases h with h | h <;> subst h <;> exact absurd f (by decide +kernel)⟩

theorem witness_QueuesTakePackets_accepted : let s := { queueing (.acceptance 3) 1 packet0 with nextLaunch := 2 }
    (PacketNext (queueing (.acceptance 3) 1 packet0) 3 packet0 ∧ Acceptable s (s.queueAgent 3) 0x1000 packet0 region0)
      ∧ (∃ e, s.locate (s.queueAgent 3) (BitVec.ofNat 64 (s.cfield 0x10D0 51 8 * 256)) .load = .ok (.dev 0x1000) e)
      ∧ s.nextLaunch < 2 ^ 32 ∧ ∀ l ∈ s.launches, l.id ≠ s.nextLaunch :=
  ⟨⟨queueing_next _ (by decide +kernel) (by decide +kernel) (by unfold BytesAt; decide +kernel),
    packet0_acceptable (by decide +kernel) (by decide +kernel)⟩,
    ⟨some page0, by decide +kernel⟩, by decide, by decide⟩

theorem witness_LaunchMakesAChild_traps : let s := world { thr0 with dclass := true }
    s.Runs 0 [rs 4] [rs 10] ∧ s.thr.dclass = true := ⟨runs_of (by decide +kernel), by decide +kernel⟩
theorem witness_LaunchMakesAChild_refused : let s := world ({ thr0 with nlaunch := 0x40000000 }.setS 4 0x20010)
    s.Issuable 0 [rs 4] (rs 10) ∧ s.thr.dclass = false ∧ 2 ^ 30 ≤ s.thr.nlaunch.toNat ∧ (s.thr.sreg 4).toNat % 64 ≠ 0 :=
  ⟨issuable_of (by decide +kernel) (by decide +kernel) (by decide +kernel), by decide +kernel, by decide +kernel, by decide +kernel⟩
theorem witness_LaunchMakesAChild_accepted : let s := { withBytes (world (thr0.setS 4 0x20000)) 0x20000 packet0 with nextLaunch := 2 }
    s.Issuable 0 [rs 4] (rs 10) ∧ s.thr.nlaunch.toNat < 2 ^ 30 ∧ s.thr.sreg 4 = 0x20000 ∧ s.Reaches 0x20000 .load (.dev 0x20000)
      ∧ s.Reaches 0x20040 .load (.dev 0x20040) ∧ BytesAt s (.dev 0x20000) (packet0.take 64) ∧ BytesAt s (.dev 0x20040) (packet0.drop 64)
      ∧ s.launch? (s.thr.pack / 2 ^ 24) = some launch1
      ∧ Acceptable s { s.ctx.agent with pack := none } launch1.region (packet0.take 64 ++ packet0.drop 64) region0
      ∧ ∀ x ∈ s.launches, x.id ≠ s.nextLaunch :=
  ⟨issuable_of (by decide +kernel) (by decide +kernel) (by decide +kernel), by decide +kernel, by decide +kernel,
    reaches_of (by decide +kernel), reaches_of (by decide +kernel), by unfold BytesAt; decide +kernel,
      by unfold BytesAt; decide +kernel,
    by decide +kernel, by rw [List.take_append_drop]; exact packet0_acceptable (by decide +kernel) (by decide +kernel),
      by decide +kernel⟩

/-- Launch 2 beside launch 1, ready, with a pack to place. -/
def launch2 : Launch := { launch1 with id := 2, clmask := 1, left := [0], begun := [] }
def serving (e : Event) (l : Launch) : State := { event e (world thr0) with launches := [launch1, l] }

theorem launchIn_of {s : State} {l : Launch} (f : s.launch? l.id = some l) (a : ∀ x ∈ s.launches, x.id = l.id → x = l) :
    LaunchIn s l := ⟨f, a⟩

/-- A semaphore at 0x20000, which holds 0: the first condition holds, the second does not; its page in the third state is not
mapped. -/
def waiter (c : SCond) (ok : Bool) : Launch :=
  { launch2 with sem0 := some { addr := 0x20000, cond := c, val := 0, ok := ok }, ready := false }
theorem witness_ShepherdServesLaunches_semaphore : let l := waiter .eq false
    let s := serving (.semaphoreRead 2 0) l
    LaunchIn s l ∧ l.sem0 = some { addr := 0x20000, cond := .eq, val := 0, ok := false }
      ∧ (l.ready = false ∧ l.semFail = false ∧ l.killed = false)
      ∧ s.ReachesFor l.agent 0x20000 .load (.dev 0x20000) ∧ s.marks = [] ∧ Holds s (.dev 0x20000) 8 (0 : Word).toNat
      ∧ semHolds .eq 0 0 ∧ ¬semHolds .ne 0 0 :=
  ⟨launchIn_of (by decide +kernel) (by decide +kernel), rfl, ⟨rfl, rfl, rfl⟩, reaches_of (by decide +kernel), rfl,
    by unfold Holds; decide +kernel, by unfold semHolds; decide +kernel, by unfold semHolds; decide +kernel⟩
theorem witness_ShepherdServesLaunches_semaphore_fails : let l := waiter .eq false
    let s := { serving (.semaphoreRead 2 0) l with tlb := [] }
    LaunchIn s l ∧ (l.ready = false ∧ l.semFail = false ∧ l.killed = false) ∧ s.locate l.agent 0x20000 .load = .fail 0x10 2
      ∧ (∀ p ∈ s.packs, p.key / 2 ^ 24 ≠ l.id) ∧ l.hold = none
      ∧ l.crec = none ∧ l.csig = none ∧ l.endTag = none :=
  ⟨launchIn_of (by decide +kernel) (by decide +kernel), ⟨rfl, rfl, rfl⟩, by decide +kernel, by decide +kernel, rfl, rfl, rfl, rfl⟩
theorem witness_ShepherdServesLaunches_start : let l := { launch2 with timeOk := false, start := some 5, ready := false }
    let s := { serving (.start 2) l with now := 5 }
    LaunchIn s l ∧ l.timeOk = false ∧ l.start = some 5 ∧ 5 ≤ s.now.toNat :=
  ⟨launchIn_of (by decide +kernel) (by decide +kernel), rfl, rfl, by decide⟩
theorem witness_ShepherdServesLaunches_dispatch : let s := serving (.dispatch 2 0) launch2
    s.nextServed = some launch2 ∧ LaunchIn s launch2 ∧ launch2.left = 0 :: [] ∧ s.pack? (2 * 2 ^ 24 + 0) = none
      ∧ (∀ x ∈ s.revived, x.key ≠ 2 * 2 ^ 24 + 0) ∧ s.region? launch2.region = some region0 ∧ region0.trail = 0
        ∧ launch2.tpc ≤ 8 ∧ launch2.pb2 ≤ 368
      ∧ s.placesOn s.resident launch2 0 = some ([1], [], [])
      ∧ ∀ q : Nat, (q ∈ ([] : List Nat) ∨ ∃ b ∈ ([] : List Nat), q = 32 + b) → (s.seqr q).cmd = none :=
  ⟨by decide +kernel, launchIn_of (by decide +kernel) (by decide +kernel), rfl, by decide +kernel, nofun, by decide +kernel,
    rfl, by decide,
    by decide, by decide +kernel,
    fun q h => by rcases h with h | ⟨b, h, _⟩ <;> exact absurd h (List.not_mem_nil)⟩
/-- Priority 0 reaches 15 after 1.5 ms; 20 ms have passed. -/
theorem witness_ShepherdServesLaunches_hold : let s := { serving (.holdClusters 2) launch2 with now := 0x1312D000000 }
    LaunchIn s launch2 ∧ launch2.ready = true ∧ launch2.holds = false ∧ launch2.left ≠ []
      ∧ launch2.since + (15 - s.prioOf launch2) * agingUnit + 1000000 * Config.ns ≤ s.now.toNat :=
  ⟨launchIn_of (by decide +kernel) (by decide +kernel), rfl, rfl, by decide, by decide +kernel⟩

/-- The threads of pack 0 of launch 1 have ended; a second pack is to come in the first state, and a record is to be written in
the second. -/
def ended (l : Launch) : State := { event (.packEnd (2 ^ 24)) (world { thr0 with status := .exited }) with launches := [l] }
theorem ended_packEnds (l : Launch) (h : LaunchIn (ended l) l ∧ l.id = 1 ∧ l.killed = false ∧ l.semFail = false) :
    PackEnds (ended l) pack1 l :=
  ⟨rfl, ⟨rfl, rfl, rfl, rfl⟩, ⟨h.1, h.2.1, h.2.2⟩,
    show ∀ c ∈ pack1.cores, ∀ i < 8, ((ended launch1).thread (c * 8 + i)).pack = pack1.key →
      ((ended launch1).thread (c * 8 + i)).status ≠ .idle →
      ((ended launch1).thread (c * 8 + i)).status = .exited ∧ ((ended launch1).thread (c * 8 + i)).unacked = [] by decide +kernel,
    fun h m => absurd m (List.not_mem_nil)⟩
theorem witness_ShepherdServesLaunches_pack_ends : let l := { launch1 with packs := 2, left := [1] }
    PackEnds (ended l) pack1 l ∧ ¬LastPack (ended l) pack1 l ∧ l.hold = none :=
  ⟨ended_packEnds _ ⟨launchIn_of (by decide +kernel) (by decide +kernel), rfl, rfl, rfl⟩,
    fun h => absurd (h.1 1 (by decide)) (by decide), rfl⟩
theorem witness_ShepherdServesLaunches_launch_ends : let l := { launch1 with crec := some 0x20000 }
    PackEnds (ended l) pack1 l ∧ LastPack (ended l) pack1 l ∧ l.csig = none ∧ l.crec = some 0x20000
      ∧ (ended l).ReachesFor l.agent 0x20000 .store (.dev 0x20000) ∧ (ended l).PlainFor pack1.key :=
  ⟨ended_packEnds _ ⟨launchIn_of (by decide +kernel) (by decide +kernel), rfl, rfl, rfl⟩,
    ⟨by decide, by decide +kernel, rfl⟩, rfl, rfl, reaches_of (by decide +kernel),
    plainFor_of (by decide +kernel) (wf_nil ⟨rfl, rfl, rfl, rfl⟩)⟩
theorem witness_ShepherdServesLaunches_kill :
    let s := { event (.regionKill 1 0x1000) (world thr0) with packs := [], launches := [launch2] }
    s.packs = [] ∧ s.kills = [] ∧ (∃ e, s.locate { core := 0, lid := 0, pack := none, asid := 1 } 0x1000 .load = .ok (.dev 0x1000) e)
      ∧ (∃ r, s.region? launch2.region = some r ∧ 0x1000 ∈ r.chain)
      ∧ ∀ l ∈ s.launches, LaunchIn s l ∧ l.crec = none ∧ l.csig = none ∧ l.endTag = none ∧ l.hold = none := by
  refine ⟨rfl, rfl, ⟨some page0, by decide +kernel⟩, ⟨region0, by decide +kernel, by decide⟩, fun l h => ?_⟩
  have : l = launch2 := List.mem_singleton.mp h
  subst this
  exact ⟨launchIn_of (by decide +kernel) (by decide +kernel), rfl, rfl, rfl, rfl⟩

/-! ### Witnesses: the kennel -/

/-- Launch 2, of priority 5, wants tile 2, which pack 0 of launch 1 holds; the arena has 8 units from 0x400000. -/
def urgent : Launch := { launch2 with region := 0x2000, tmask := 4 }
def preempting : State :=
  { ((event (.preEmption 2 0) (world thr0)).setCreg 0x3000 0x400000).setCreg 0x3008 8 with
    launches := [launch1, urgent], regions := [region0, { region0 with rcb := 0x2000, chain := [0x2000], prio := 5 }] }
theorem witness_PacksLeaveAndReturn_preempts : preempting.launch? 2 = some urgent ∧ preempting.mayPreempt urgent 0 = true
    ∧ ∃ p, preempting.pack? (2 ^ 24) = some p ∧ ∃ x ∈ (preempting.victimsOn urgent 0).taken, x.1 = 2 ^ 24 :=
  ⟨by decide +kernel, by decide +kernel, pack1, by decide +kernel, by decide +kernel⟩

theorem witness_PacksLeaveAndReturn_saves : let p := { pack1 with saving := true, kennel := some 0, units := 1 }
    let s := { event (.save (2 ^ 24)) (world thr0) with packs := [p] }
    s.pack? (2 ^ 24) = some p ∧ LaunchIn s launch1 ∧ p.killing = false ∧ s.saveReady p = true ∧ s.flying = [] :=
  ⟨by decide +kernel, launchIn_of (by decide +kernel) (by decide +kernel), rfl, by decide +kernel, rfl⟩
theorem witness_PacksLeaveAndReturn_blocks : (thr0.setS 7 9).regs = [] ∧ (thr0.setS 7 9).rstate 7 = .full
    ∧ (thr0.setState 20 (.poisoned 0xFFFF0002)).rstate 20 = .poisoned 0xFFFF0002 := by decide +kernel

theorem firstMark_nil {s : State} (h : s.marks = []) (n : Nat) : ∀ (p : Place) (lo : Nat), s.firstMark p lo n = none := by
  induction n with
  | zero => intros; rfl
  | succ n ih =>
    intro p lo
    have : s.marked p = false := by cases p <;> simp [State.marked, h]
    show (if s.marked p then some lo else s.firstMark (p.add 1) (lo + 1) n) = none
    rw [this]; exact ih ..

theorem mget_above {m : List Host.Cell} {a : Nat} (h : ∀ c ∈ m, c.1 < a) : mget m a = 0 := by
  induction m with
  | nil => rfl
  | cons c r ih =>
    obtain ⟨j, w⟩ := c
    have := h (j, w) (List.mem_cons_self ..)
    show (if a < j then 0 else if a = j then w else mget r a) = 0
    rw [if_neg (by dsimp at this; omega), if_neg (by dsimp at this; omega)]
    exact ih fun x hx => h x (List.mem_cons_of_mem _ hx)

theorem peekN_above {s : State} (n : Nat) : ∀ {a : Nat}, (∀ c ∈ s.mem, c.1 < a) → ∀ b ∈ s.peekN (.dev a) n, b = 0 := by
  induction n with
  | zero => intro a _ b hb; exact absurd hb (List.not_mem_nil)
  | succ n ih =>
    intro a h b hb
    rcases List.mem_cons.mp hb with rfl | hb
    · exact mget_above h
    · exact ih (a := a + 1) (fun c hc => Nat.lt_succ_of_lt (h c hc)) b hb

theorem leNat_zeros {bs : List Byte} (h : ∀ b ∈ bs, b = 0) : leNat bs = 0 := by
  induction bs with
  | nil => rfl
  | cons b r ih =>
    show b.toNat + 256 * leNat r = 0
    rw [h b (List.mem_cons_self ..), ih fun x hx => h x (List.mem_cons_of_mem _ hx)]; rfl

theorem slice_zeros {bs : List Byte} (h : ∀ b ∈ bs, b = 0) (k n : Nat) : ∀ b ∈ slice bs k n, b = 0 := by
  intro b hb
  rcases List.mem_append.mp (List.mem_of_mem_take hb) with hb | hb
  · exact h b (List.mem_of_mem_drop hb)
  · exact (List.mem_replicate.mp hb).2

theorem fieldAt_zeros {bs : List Byte} (h : ∀ b ∈ bs, b = 0) (k n : Nat) : fieldAt bs k n = 0 := leNat_zeros (slice_zeros h k n)

theorem threadCorrupt_zeros {bs : List Byte} (h : ∀ b ∈ bs, b = 0) : threadCorrupt bs = false := by
  simp [threadCorrupt, fieldAt_zeros h, nbits]

theorem ringOfBytes_zeros {bs : List Byte} (h : ∀ b ∈ bs, b = 0) (asid : BitVec 16) : (ringOfBytes bs asid).isNone = false := by
  have m : marksOf (slice bs 0x40 1024) = [] := by
    unfold marksOf
    rw [List.filterMap_eq_nil_iff]
    intro q _
    simp [fieldAt_zeros (slice_zeros h 0x40 1024), nbits]
  simp [ringOfBytes, m, fieldAt_zeros h]

/-- Pack 0 of launch 1 is out, in the kennel at 0x400000; its launch has no other pack to place. -/
def away1 : Pack := { pack1 with tiles := [], buses := [], out := some 0, kennel := some 0, units := 1 }
def shelved : Launch := { launch1 with left := [0] }
def restoring (mem : List Host.Cell) : State :=
  { (event (.restore (2 ^ 24) 0) (world thr0)).setCreg 0x3000 0x400000 with
    packs := [away1], launches := [shelved], mem := mem, threads := [], cores := [] }
theorem witness_PacksLeaveAndReturn_restores : let s := restoring []
    s.pack? (2 ^ 24) = some away1 ∧ s.launch? 1 = some shelved ∧ s.nextServed = some shelved ∧ shelved.left.head? = some 0
      ∧ s.placesOn s.resident { shelved with left := [0] } 0 = some ([0], [], []) :=
  ⟨by decide +kernel, by decide +kernel, by decide +kernel, rfl, by decide +kernel⟩

/-- A kennel that holds its header and zeros is whole; one of zeros is not. -/
theorem witness_PacksLeaveAndReturn_whole : let s := restoring (mwrite [] 0x400000 ((packHeader away1 shelved 0).take 96))
    s.kennelCorrupt away1 shelved (s.kennelPa 0) = none ∧ s.copies = [] := by
  refine ⟨?_, rfl⟩
  let s := restoring (mwrite [] 0x400000 ((packHeader away1 shelved 0).take 96))
  have cells : ∀ c ∈ s.mem, c.1 < 0x401000 := by decide +kernel
  have base : s.kennelPa 0 = 0x400000 := by decide +kernel
  have header : headerCorrupt away1 shelved (s.peekN (.dev 0x400000) 4096) = false := by decide +kernel
  have above : ∀ a n, 0x401000 ≤ a → ∀ b ∈ s.peekN (.dev a) n, b = 0 := fun a n h =>
    peekN_above n fun c hc => Nat.lt_of_lt_of_le (cells c hc) h
  show s.kennelCorrupt away1 shelved (s.kennelPa 0) = none
  rw [base]
  unfold State.kennelCorrupt
  have rings : ∀ i r, (ringOfBytes (s.peekN (.dev (coreBlockAt 0x400000 shelved i + 0x100 + 1152 * r)) 1152) shelved.asid).isNone
      = false := fun i r => ringOfBytes_zeros (above _ _ (by unfold coreBlockAt; omega)) _
  have threads : ∀ i j, threadCorrupt (s.peekN (.dev (threadBlockAt 0x400000 shelved i j)) 0xF000) = false := fun i j =>
    threadCorrupt_zeros (above _ _ (by unfold threadBlockAt coreBlockAt; omega))
  simp only [firstMark_nil (s := s) rfl, header, rings, threads, show away1.tiles = [] from rfl, show away1.buses = [] from rfl]
  simp

theorem witness_PacksLeaveAndReturn_corrupt : let s := restoring []
    s.kennelCorrupt away1 shelved (s.kennelPa 0) = some 0 := by
  intro s
  have base : s.kennelPa 0 = 0x400000 := by decide +kernel
  have header : headerCorrupt away1 shelved (s.peekN (.dev 0x400000) 4096) = true := by decide +kernel
  rw [base]
  unfold State.kennelCorrupt
  simp [firstMark_nil (s := s) rfl, header]

/-! ### Witnesses: translation -/

theorem witness_TranslationUpkeep_rebase : let s := { event .rebase with ltime := 0xFFFF00000000, rebaseDue := true }
    s.rebaseDue = true ∧ s.regions = [] ∧ s.cfield 0x8908 0 0 = 0 := by decide +kernel

/-- A load of 0x20000, whose page is held (bit 7 of its leaf), since NOW 0; TIMEOUT is 1 µs, and 20 ms have passed. -/
def part0 : Part := { va := 0x20000, len := 4, pos := 0 }
def held0 : Held :=
  { tag := tag0, ctx := ctx0, op := .load .z32, va := 0x20000, got := [(part0, none)], reserved := 0,
    acq := false, hold := { since := 0, va := 0x20000, size := 12, again := false } }
theorem witness_TranslationUpkeep_hold :
    let s := { (withBytes (mapped (event (.holdTimeout 0) (world thr0))) 0x20000 [0xFF]).setCfield 0x2010 63 32 1 with
      held := [held0], now := 0x1312D000000, tlb := [] }
    s.held[0]? = some held0 ∧ held0.hold.va = part0.va ∧ s.locate held0.ctx.agent part0.va .load = .held
      ∧ s.outlasted held0.hold.since = true :=
  ⟨rfl, rfl, by decide +kernel, by decide +kernel⟩

theorem witness_TranslationUpkeep_invalidations : (event .invAll).invs.length < 16
    ∧ 16 ≤ ({ event .invAll with invs := List.replicate 16 ⟨none, 0, 2 ^ 52⟩ } : State).invs.length
    ∧ (event (.invRange 1 3)).ev = some (.invRange 1 3) ∧ (3 : BitVec 32) ≠ 0 := by decide +kernel
theorem witness_TranslationUpkeep_completes :
    let s := { (event .invalidationComplete (world thr0)).setCreg 0x2050 0x70001 with invs := [⟨some 1, 0, 65536⟩] }
    s.invs = ⟨some 1, 0, 65536⟩ :: [] ∧ s.cfield 0x2050 0 0 = 1 ∧ s.cfield 0x2050 47 3 * 8 + 8 ≤ Config.deviceBytes ∧ s.wf
      ∧ s.phasers = [] ∧ s.transfersUnder ⟨some 1, 0, 65536⟩ = false :=
  ⟨rfl, by decide +kernel, by decide +kernel, wf_nil ⟨rfl, rfl, rfl, rfl⟩, rfl, by decide +kernel⟩

/-- Request 9 for the page at 0, which one PROBE of 8 bytes has asked for; TIMEOUT is 1 µs, and 20 ms have passed. -/
def request0 : Request := { id := 9, asid := 1, page := 0, write := false, reason := 1, tries := 0, posted := true, since := 0 }
def probe0 : Probe :=
  { tag := tag0, ctx := ctx0, write := false, lo := 0, hi := 8, pages := 0, serviced := 0, asked := true, tries := 0, hold := none }
def asking (e : Event) : State :=
  { (mapped (event e (world thr0))).setCfield 0x2010 63 32 1 with requests := [request0], probes := [probe0], now := 0x1312D000000 }
theorem witness_TranslationUpkeep_unknown : ∀ r ∈ (asking (.invalid 4)).requests, r.id ≠ (4 : BitVec 32).toNat := by decide +kernel
theorem witness_TranslationUpkeep_invalid : (asking (.invalid 9)).requests.find? (·.id == (9 : BitVec 32).toNat) = some request0
    ∧ (asking (.residencyTimeout 9)).outlasted request0.since = true := by decide +kernel
theorem witness_TranslationUpkeep_resolved : let s := asking (.resolved 9)
    s.requests.find? (·.id == (9 : BitVec 32).toNat) = some request0 ∧ s.askers request0 = [probe0] ∧ probe0.serviced + 1 ≤ 0xFFFF
      ∧ PagesPass s 1 .load 8 0 1 :=
  ⟨by decide +kernel, by decide +kernel, by decide, .page leaf0 (by decide) (by decide +kernel) (by decide +kernel) (.done (by decide))⟩
theorem witness_TranslationUpkeep_acknowledged : ((event (.acknowledgement 0) (running { thr0 with unacked := [.dead] })).thread 0).unacked
    = Fate.dead :: [] := by decide +kernel

/-! ### Witnesses: boot and the host -/

/-- The package with boot at a stage, and the firmware of slot 0 running. -/
def booting (e : Event) (stage : Nat) : State := { (event e).setCfield 0x10 7 0 stage with fwRun := some 0 }
theorem witness_BootGoesThroughItsStages_reset : (event .powerOn).ev = some .powerOn ∧ (event .powerOn).cfield 0x10 15 8 ≠ 0x10
    ∧ ((event (.tripRecovery 1119)).setCfield 0x10 15 8 0x10).cfield 0x10 15 8 = 0x10 ∧ (1119 : BitVec 16).toInt < 70 * 16 := by
  decide +kernel
/-- 105 °C trips; 104.9 °C does not (R403: 1/16 °C). -/
theorem witness_BootGoesThroughItsStages_trips : 105 * 16 ≤ (1680 : BitVec 16).toInt ∧ (1679 : BitVec 16).toInt < 105 * 16
    ∧ (event (.trip 2 1680)).ev = some (.trip 2 1680) ∧ BootedTo (booting (.optic true 1680) 4) 4
    ∧ (event (.trackerService 2 4 7 10 1680)).ev = some (.trackerService 2 4 7 10 1680) := by unfold BootedTo; decide +kernel
theorem witness_BootGoesThroughItsStages_booted : BootedTo (booting (.config true defaultConfig) 1) 1
    ∧ BootedTo (booting (.ident true) 2) 2 ∧ BootedTo (booting (.memup true) 3) 3 ∧ BootedTo (booting (.optic true 400) 4) 4
    ∧ (booting .ready 5).cfield 0x10 7 0 = 5 ∧ (booting .ready 5).fwRun ≠ none := by unfold BootedTo; decide +kernel

theorem witness_HostReachesThePackage_memory :
    let s := booting (.cxlMemAccess true 0x30 [1, 2]) 4
    s.linkUp = true ∧ (0x30 / 64 * 64 + 64 ≤ Config.deviceBytes ∧ 0x30 % 64 + 2 ≤ 64) ∧ (4 ≤ s.cfield 0x10 7 0 ∧ s.cfield 0x10 15 8 ≠ 4)
      ∧ s.marks = [] ∧ s.phasers = [] ∧ ¬(4 ≤ (booting (.cxlMemAccess true 0x30 [1, 2]) 3).cfield 0x10 7 0) := by decide +kernel
theorem witness_HostReachesThePackage_marked : Mark.hbm 1 ∈ ({ booting (.cxlMemAccess false 0x30 []) 4 with marks := [.hbm 1] } : State).marks
    ∧ 32 * 1 / 64 = 0x30 / 64 := by decide +kernel
/-- Module 9 reaches this one through port 3, whose beacon of the slot has been checked; through port 4 nothing has come. -/
theorem witness_HostReachesThePackage_remote :
    let s := { booting (.remoteAccess (.atomic .add .i32) 3 9 0x40 [1, 0, 0, 0]) 6 with portSeen := [(3, 0)] }
    s.arrives 9 (some 3) = true ∧ s.arrives 9 (some 4) = false ∧ 0x40 + 4 ≤ Config.deviceBytes ∧ 0x40 % 128 + 4 ≤ 128
      ∧ 0x40 % atomBytes .i32 = 0 ∧ s.marks = [] ∧ s.wf ∧ s.phasers = []
      ∧ Holds s (.dev 0x40) (atomBytes .i32) 0 :=
  ⟨by decide +kernel, by decide +kernel, by decide, by decide, by decide, rfl, wf_nil ⟨rfl, rfl, rfl, rfl⟩, rfl,
    by unfold Holds; decide +kernel⟩
theorem witness_HostReachesThePackage_register : (event (.registerWrite 0x2000 none 5)).linkUp = true
    ∧ (∃ fs, ctlFields 0x2000 = some fs) ∧ (0x2004 % 8 ≠ 0 ∨ ctlFields 0x2004 = none) ∧ 0x10E0 = 0x1000 + 0x40 * 3 + 0x20 :=
  ⟨rfl, ⟨_, rfl⟩, .inl (by decide), rfl⟩
theorem witness_HostReachesThePackage_readback : let v : BitVec 64 := 0x0100000000000000
    (v.toNat / 2 ^ 56 = 1 ∧ v.toNat / 2 ^ 48 % 256 = 0 ∧ v.toNat % 2 ^ 16 < 8192)
      ∧ ((event (.rbsel v) (running thr0)).thread 0).status ≠ .idle
      ∧ (event (.rbsel v)).captured 0x0C 0 0 = none := by decide +kernel
theorem witness_MailboxAndAttestationAnswer_open : (event (.challenge 0 5)).spdmShut = false
    ∧ ({ event (.challenge 0 5) with spdmShut := true } : State).spdmShut = true := ⟨rfl, rfl⟩

/-! ### Witnesses: the fabric and the optics -/

/-- START has been reached: one slot of 200 ns, and spare A is committed for port 3. -/
def swapping : State :=
  { (((event .bankSwap).setCreg 0x9008 0x00C80001).setCreg 0x9040 0x8000000000100003) with ttDue := true, now := 0x1312D000000 }
theorem witness_FabricKeepsItsTimetable_swap : (swapping.creg 0x9010).toNat ≤ swapping.now.toNat ∧ swapping.cfield 0x9008 6 0 = 1
    ∧ swapping.cfield 0x9008 31 16 = 200 ∧ swapping.cfield 0x9040 63 63 = 1 ∧ swapping.cfield 0x9048 63 63 = 0
    ∧ (swapping.setCreg 0x9008 0x00C70001).cfield 0x9008 31 16 < 200
    ∧ (let s := swapping.setCreg 0x9050 0x8000000000000001
       s.cfield 0x9050 63 63 = 1 ∧ (s.bus 1).comb = s.cfield 0x9050 7 0 ∧ ∀ k < 1, (s.bus k).comb ≠ s.cfield 0x9050 7 0) := by
  decide +kernel

/-- In the slot under way, port 0 leads to port 2 of module 3. -/
def cycling (e : Event) : State :=
  { (event e).setCreg 0xA000 0x80020003 with tt := { epoch := 4, slotNs := 200, nslot := 1, start := 0 } }
theorem witness_FabricKeepsItsTimetable_beacon : let s := cycling (.beacon 0 3 2 4 0 true)
    0 < s.tt.nslot ∧ 0 < s.tt.slotNs ∧ s.cfield 0x8908 0 0 = 0
      ∧ ((s.ttEntry s.slotNow (s.serves 0)).testBit 31 = true ∧ s.ttEntry s.slotNow (s.serves 0) % 2 ^ 16 = 3
        ∧ s.ttEntry s.slotNow (s.serves 0) / 2 ^ 16 % 2 ^ 5 = 2 ∧ 4 = s.tt.epoch)
      ∧ (5 : Nat) ≠ s.tt.epoch ∧ (0, 0) ∉ s.portQuar ∧ (0, 0) ∈ ({ s with portQuar := [(0, 0)] } : State).portQuar := by decide +kernel
/-- The clock follows its peers' beacons; in the second state a PTP message has disciplined it. -/
theorem witness_FabricKeepsItsTimetable_follows : let s := (cycling (.beacon 0 3 2 4 0 true)).setCfield 0x9028 8 8 1
    (true = true ∧ s.cfield 0x9028 8 8 = 1 ∧ s.cfield 0x9020 63 62 ≠ 1) ∧ (0 : BitVec 32).toInt = ((s.now.toNat : Int) - 0) / Config.ns
      ∧ (s.setCfield 0x9020 63 62 1).cfield 0x9020 63 62 = 1 := by decide +kernel
theorem witness_FabricKeepsItsTimetable_sends : let s := cycling .bankSwap
    0 < s.tt.nslot ∧ s.tt.start ≤ s.now.toNat ∧ s.beacons = [] := by decide +kernel
theorem witness_FabricKeepsItsTimetable_forward : let s := { cycling (.forward 1 3 0) with portSeen := [(0, 0)] }
    0 < s.tt.nslot ∧ (s.ttEntry 0 (s.serves 0)).testBit 31 = true ∧ s.ttEntry 0 (s.serves 0) % 2 ^ 16 = 3 ∧ (0, 0) ∈ s.portSeen
      ∧ (0, 0) ∉ s.portQuar := by
  decide +kernel
theorem witness_FabricKeepsItsTimetable_spares : (event (.resv 0 7)).cfield 0x9040 61 61 = 0
    ∧ ((event (.resv 0 7)).setCfield 0x9040 61 61 1).cfield 0x9040 61 61 = 1 := by decide +kernel
theorem witness_FabricKeepsItsTimetable_comb : let s := event (.failover true 4)
    4 ≤ 4 ∧ s.cfield 0x8908 0 0 = 0 ∧ s.colls = [] ∧ ∀ b < 4, (s.bus b).comb = 4 → (s.bus b).off = false := by decide +kernel
theorem witness_FabricKeepsItsTimetable_failover : let s := (event (.failover false 3)).setCfield 0x9040 23 16 16
    3 ∉ s.lostPorts ∧ s.cfield 0x9040 62 61 = 0 ∧ s.cfield 0x9040 23 16 ≠ 3 ∧ s.cfield 0x9040 23 16 ∉ s.lostPorts
      ∧ 3 ∈ ({ s with lostPorts := [3] } : State).lostPorts
      ∧ (let u := (s.setCfield 0x9040 61 61 1).setCfield 0x9048 61 61 1
         u.cfield 0x9040 61 61 = 1 ∧ u.cfield 0x9048 61 61 = 1 ∧ u.colls = [] ∧ u.cfield 0x8908 0 0 = 0) := by decide +kernel
theorem witness_FabricKeepsItsTimetable_time : let s := event (.ptpMessage 0 5)
    s.cfield 0x8908 0 0 = 0 ∧ s.cfield 0x9028 7 0 = 0 ∧ (3 : Nat) ≠ s.cfield 0x9028 7 0 ∧ s.cfield 0x10 7 0 ≠ 6
      ∧ (booting (.ptpMessage 0 5) 6).cfield 0x10 7 0 = 6 ∧ 1000000 < (0xFFF00000 : BitVec 32).toInt.natAbs
      ∧ ((event (.holdover 5)).setCfield 0x9020 63 62 1).cfield 0x9020 63 62 = 1 := by decide +kernel

/-- Line 5 of comb 1 has been low for 20 ms; in the second state comb 4 is lost. -/
def lowLine : State := { event (.lineLowTimeout 1 5) with lowLines := [(1, 5, 0)], now := 0x1312D000000 }
theorem witness_OpticsAreKeptInTrim_line : (1, 5, 0) ∈ lowLine.lowLines ∧ 1000000 * Config.ns ≤ lowLine.now.toNat
  ∧ (1, 5) ∉ lowLine.deadLines
    ∧ lowLine.cfield 0x88B0 1 0 ≠ 2 ∧ (∀ b < 4, (lowLine.bus b).comb = 1 → (lowLine.bus b).off = false)
      ∧ lowLine.cfield 0x8908 0 0 = 0 ∧ lowLine.colls = []
    ∧ (lowLine.cfield 0x88C8 1 0 ≠ 2 ∧ lowLine.cfield 0x9050 61 61 = 0
      ∧ ¬(lowLine.cfield 0x9050 62 62 = 1 ∧ lowLine.cfield 0x9050 63 63 = 1))
    ∧ (lowLine.setCfield 0x88C8 1 0 2).cfield 0x88C8 1 0 = 2 := by decide +kernel
theorem witness_OpticsAreKeptInTrim_shadow : let s := { event (.shadowCheck 2) with shadows := [(2, window0)] }
    s.shadows.find? (·.1 == 2) = some (2, window0) := rfl

/-- Ring 7 of column 4 of tile 2 drops channel 7; its free offset is 1,000 units, and a drift of 10 asks for 990. -/
def warm (e : Event) : State :=
  { (((event e).setCfield 0x20 0 0 1).setCfield 0x8080 0 0 1) with
    warmed := true, config := { defaultConfig with fr := [(heaterKey 2 4 7, 1000), (heaterKey 2 4 64, 1200)] } }
theorem witness_OpticsAreKeptInTrim_tracker : let s := warm (.trackerService 2 4 7 10 400)
    (s.heater 2 4 7).drop = true ∧ s.cfield 0x8080 0 0 = 1 ∧ s.cfield 0x20 0 0 = 1
      ∧ (∃ b < 4, (s.bus b).off = false) ∧ (400 : BitVec 16).toInt < 105 * 16
      ∧ s.freeOffset 2 4 7 + 512 * (((s.heater 2 4 7).chan : Int) - 7) - 10 = 990 ∧ s.skewSince = none := by decide +kernel
/-- The tracker stands still at a tile whose optics are off, and at a spare ring that drops nothing. -/
theorem witness_OpticsAreKeptInTrim_still : (event (.trackerService 2 4 7 10 400)).cfield 0x8080 0 0 = 0
    ∧ ((warm (.trackerService 2 4 65 10 400)).heater 2 4 65).drop = false := by decide +kernel
def move0 : Move := { tile := 2, col := 4, old := 7, new := 64, chan := 7, hs := 1, since := 0, retire := true }
theorem witness_OpticsAreKeptInTrim_settle : let s := { warm (.moveSettle 0) with moves := [move0], now := 0x1312D000000 }
    s.moves[0]? = some move0 ∧ move0.since + 50000 * Config.ns ≤ s.now.toNat ∧ s.atBoundary 2 = true ∧ s.cfield 0x8908 0 0 = 0 := by
  decide +kernel
/-- RETIRE of ring 7 of column 4, and of the spare ring 65; the tile is 2. -/
theorem witness_OpticsAreKeptInTrim_retire : let s := (warm (.retire 0x01000407)).setCreg 0x8800 2
    s.cfield 0x8800 4 0 = 2 ∧ (0x01000407 : BitVec 64).toNat / 2 ^ 8 % 2 ^ 7 = 4 ∧ (0x01000407 : BitVec 64).toNat % 2 ^ 7 = 7
      ∧ (0x01000407 : BitVec 64).toNat / 2 ^ 24 % 2 ^ 8 = 1 ∧ s.cfield 0x8810 0 0 = 0 ∧ (s.heater 2 4 7).drop = true
      ∧ s.isMoving 2 4 7 = false ∧ (s.heater 2 4 65).drop = false ∧ (0x02000407 : BitVec 64).toNat / 2 ^ 24 % 2 ^ 8 ≠ 1
      ∧ (s.setCfield 0x8810 0 0 1).cfield 0x8810 0 0 = 1 := by decide +kernel
/-- Ring 7 is moving to the spare ring 64. -/
theorem witness_OpticsAreKeptInTrim_moving :
    let s := { (warm (.retire 0x01000407)).setCreg 0x8800 2 with moves := [{ move0 with retire := false }] }
    s.cfield 0x8810 0 0 = 0 ∧ (s.heater 2 4 7).drop = true ∧ s.isMoving 2 4 7 = true := by decide +kernel
theorem witness_OpticsAreKeptInTrim_targets : let s := (warm (.retire 0x01000407)).setCreg 0x8800 2
    s.moveTargets 2 4 7 ≠ []
      ∧ ({ s with
          moves := (List.range 4).map fun k => { move0 with old := 60 + k, new := 64 + k } } : State).moveTargets 2 4 7 = [] := by
  decide +kernel
theorem witness_OpticsAreKeptInTrim_scrub : let s := event (.patrolScrub .acc 5 false)
    s.cfield 0x8908 0 0 = 0 ∧ ScrubMarks s 5 (.acc 0 5) .acc ∧ Mark.acc 0 5 ∉ s.marks
      ∧ Mark.acc 0 5 ∈ ({ s with marks := [.acc 0 5] } : State).marks := ⟨by decide +kernel, rfl, by decide +kernel, by decide +kernel⟩
/-- The entry of core 0 that a binding holds, entry 0, and one that is free. -/
theorem witness_OpticsAreKeptInTrim_pending :
    let s := { event (.patrolScrub .pending 0 false) with
      binds := [{ tag := tag0, entryCore := 0, entry := 0, mask := BitVec.allOnes 256, loc := .reg 0 10 }] }
    ScrubMarks s 0 (.pending tag0) .pending ∧ ∀ b ∈ s.binds, b.holder.isSome = true → (b.entryCore, b.entry) ≠ (1 / 512, 1 % 512) :=
  ⟨⟨_, .head _, by decide, by decide, by decide, by decide, by decide⟩, by decide⟩
theorem witness_OpticsAreKeptInTrim_register : let s := running (thr0.setS 7 9)
    (s.thread 0).status ≠ .idle ∧ isConst 7 = false ∧ (s.thread 0).rstate 7 = .full ∧ (s.thread 9).status = .idle := by decide +kernel
/-- OPTREQ is 0 in boot stage READY, and tile 2 listens to bus 1. -/
theorem witness_OpticsAreKeptInTrim_boundary :
    let s := { (booting (.frameBoundary 1 0 0 []) 6).setCfield 0x20 0 0 0 with seqrs := [(2, { idleSeqr with sel := some 1 })] }
    s.ev = some (.frameBoundary 1 0 0 []) ∧ (s.bus 1).off = false ∧ s.cfield 0x20 0 0 = 0 ∧ s.cfield 0x10 7 0 = 6
      ∧ (s.seqr 2).sel = some 1
      ∧ (s.seqr 2).leaving = false := by decide +kernel
theorem witness_OpticsAreKeptInTrim_others : (event .optreqSet).cfield 0x20 0 0 = 1
  ∧ ((event .optreqSet).setCfield 0x20 0 0 0).cfield 0x20 0 0 = 0
    ∧ (event .optreqSet).cfield 0x10 7 0 ≠ 6 ∧ (booting .optreqSet 6).cfield 0x10 7 0 = 6 := by decide +kernel

/-! ### Witnesses: the debug mailbox -/

def cmdOn (arg0 arg1 : BitVec 64) : DbgCmd := { rcb := 0x1000, asid := 1, arg0 := arg0, arg1 := arg1, force := false }
theorem commands_of {s : State} {c : DbgCmd} {pa : Nat} {r : Region} (i : s.cfield 0x5020 0 0 = 0)
    (l : s.locate (dbgAgent c) (dbgVa c) .load = .ok (.dev pa) (some page0)) (k : s.region? pa = some r) : Commands s c pa :=
  ⟨i, ⟨some page0, l⟩, fun va h => by
    simp only [State.packetRegion, l, k] at h
    exact absurd h nofun⟩

/-- A command runs, or is turned away where one is under way or where its region does not translate, or waits for a page that is
held (bit 7 of its leaf). -/
theorem witness_DebugCommandsAct_commands : Commands (event (.attach (cmdOn 0 0)) (world thr0)) (cmdOn 0 0) 0x1000
    ∧ ((event (.attach (cmdOn 0 0)) (world thr0)).setCfield 0x5020 0 0 1).cfield 0x5020 0 0 = 1
    ∧ (event (.attach (cmdOn 0 0))).locate (dbgAgent (cmdOn 0 0)) (dbgVa (cmdOn 0 0)) .load = .fail 0x10 2
    ∧ (let s := { withBytes (mapped (event (.attach (cmdOn 0 0)) (world thr0))) 0x20000 [0xFF] with tlb := [] }
       s.cfield 0x5020 0 0 = 0 ∧ s.locate (dbgAgent (cmdOn 0 0)) (dbgVa (cmdOn 0 0)) .load = .held ∧ s.dbgWait = none) :=
  ⟨commands_of (r := region0) (by decide +kernel) (by decide +kernel) (by decide +kernel), by decide +kernel, by decide +kernel,
    by decide +kernel⟩
theorem witness_DebugCommandsAct_watch : Commands (event (.watch (cmdOn 0x20000 0x300000100)) (world thr0)) (cmdOn 0x20000 0x300000100) 0x1000
    ∧ (cmdOn 0x20000 0x300000100).arg0.toNat / 2 ^ 52 = 0 ∧ (cmdOn 0x20000 0x300000100).arg1.toNat / 2 ^ 36 = 0
    ∧ (cmdOn 0x20000 0x1000000000).arg1.toNat / 2 ^ 36 ≠ 0 :=
  ⟨commands_of (r := region0) (by decide +kernel) (by decide +kernel) (by decide +kernel), by decide, by decide, by decide⟩
/-- The region is one of a tenant that is attached and watched: a clear of its slot hides the tenant's. -/
def tenant : State :=
  { world thr0 with
    regions := [{ region0 with chain := [0x1000, 0x2000] }], attached := [0x2000], named := [(0x1000, [0x1000, 0x2000])]
    watches := [{ rcb := 0x2000, slot := 1, addr := 0x20000, len := 64, read := true, write := false }] }
theorem witness_DebugCommandsAct_hides : let s := { tenant with ev := some (.detach (cmdOn 0 0)) }
    Commands s (cmdOn 0 0) 0x1000 ∧ 0x2000 ∈ s.above 0x1000 ∧ 0x2000 ∈ s.attached ∧ s.isUnder 0x1000 0x2000 = false
      ∧ (∃ w, Hides s (s.above 0x1000) 0x1000 1 w) ∧ (cmdOn 0 0x400000000).arg1.toNat / 2 ^ 34 % 4 = 1
      ∧ (cmdOn 0 0x400000000).arg1.toNat / 2 ^ 32 % 4 = 0 :=
  ⟨commands_of (r := { region0 with chain := [0x1000, 0x2000] }) (by decide +kernel) (by decide +kernel) (by decide +kernel),
    by decide +kernel, by decide +kernel,
    by decide +kernel, ⟨_, ⟨{ rcb := 0x2000, slot := 1, addr := 0x20000, len := 64, read := true, write := false },
      by decide +kernel, .inl rfl⟩, rfl⟩,
    by decide, by decide⟩
theorem witness_DebugCommandsAct_halt : let s := event (.halt (cmdOn 0 0)) (world thr0)
    Commands s (cmdOn 0 0) 0x1000 ∧ pack1 ∈ s.packs ∧ s.inRegions pack1.key [0x1000] = true ∧ s.threadsOf pack1 = [0] :=
  ⟨commands_of (r := region0) (by decide +kernel) (by decide +kernel) (by decide +kernel), by decide +kernel,
    by decide +kernel, by decide +kernel⟩
theorem seqr_idle (t : Thread) (q : Nat) : ((event .haltComplete (world t)).seqr q).cmd = none := rfl
theorem witness_DebugCommandsAct_halt_complete : let s := { event .haltComplete (world thr0) with halting := some 0x1000 }
    s.halting = some 0x1000 ∧ s.copies = [] ∧ s.childReqs = [] ∧ s.arming = [] ∧ s.disarming = [] ∧ s.collBars = []
      ∧ (∀ l ∈ s.launches, l.endTag = none) ∧ s.colls = [] ∧ ∀ q, (s.seqr q).cmd = none :=
  ⟨rfl, rfl, rfl, rfl, rfl, rfl, by decide +kernel, rfl, fun q => seqr_idle thr0 q⟩
/-- A region that is halted, with its thread positioned and, in the second state, not. -/
def haltedWorld (t : Thread) (e : Event) : State := { event e (world { t with halted := true }) with halted := [0x1000] }
theorem witness_DebugCommandsAct_resume : let s := haltedWorld { thr0 with positioned := true } (.resume (cmdOn 0 0))
    Commands s (cmdOn 0 0) 0x1000 ∧ s.hasAstray 0x1000 = false ∧ (∀ h ∈ s.halted, h = 0x1000)
      ∧ (haltedWorld { thr0 with positioned := false } (.resume (cmdOn 0 0))).hasAstray 0x1000 = true :=
  ⟨commands_of (r := region0) (by decide +kernel) (by decide +kernel) (by decide +kernel), by decide +kernel,
    by decide +kernel, by decide +kernel⟩

/-- The trail of the region: windows 0 and 1, opened by launch 1 at timestamps 5 and 9, in its buffer at 0x100000. -/
def launched (n ts : Nat) : List Byte := natLe 8 (2 ^ 32 + n) ++ natLe 6 ts ++ List.replicate 14 0 ++ [0x10, 0, 0,
  0] ++ List.replicate 32 0
def headerBytes (tail next : Nat) : List Byte :=
  natLe 4 0x54520004 ++ natLe 4 0 ++ natLe 8 0 ++ natLe 8 tail ++ natLe 4 next ++ natLe 4 0 ++ List.replicate 32 0
def windowsBase (e : Event) (t : Thread) : State :=
  { trailed { t with halted := true, positioned := true } with ev := some e, halted := [0x1000] }
/-- The entries of the trail, 64 bytes each. -/
def windows (e : Event) (t : Thread) (es : List Byte) (next : Nat) : State :=
  withBytes (withBytes (windowsBase e t) 0x100000 (headerBytes es.length next)) 0x101000 es
def two : List Byte := launched 0 5 ++ launched 1 9
def entry1 : Entry :=
  { addr := 2 ^ 32 + 1, ts := 9, prev0 := 0, prev1 := 0, gtid := 0, kind := 0x10, size := 0, body := List.replicate 32 0 }
theorem trailOpen (s : State) (u : ∃ x ∈ s.trails, x.owner = trailing.owner)
    (p : s.trailPages (s.trailAgent trailing) 0x100000 0 0x200000 32 = .ok [(0, 0x100000, 0x200000)]) : s.TrailOpen trailing :=
  ⟨u, fun va h => by
    rw [show s.trailPages (s.trailAgent trailing) trailing.trailBase 0 (trailing.trailU * 2 ^ 21) (32 * trailing.trailU)
      = .ok [(0, 0x100000, 0x200000)] from p] at h
    exact absurd h nofun⟩
theorem windows_wf (e : Event) (t : Thread) (es : List Byte) (n : Nat) : (windows e t es n).wf :=
  wf_withBytes (wf_withBytes (wf_nil ⟨rfl, rfl, rfl, rfl⟩) _ _) _ _

theorem witness_DebugCommandsAct_no_trail : let s := event (.trim (cmdOn 1 0)) (world thr0)
    Commands s (cmdOn 1 0) 0x1000 ∧ KeptRegion s 0x1000 region0 ∧ region0.trail = 0 :=
  ⟨commands_of (r := region0) (by decide +kernel) (by decide +kernel) (by decide +kernel), by unfold KeptRegion; decide +kernel, rfl⟩
theorem witness_DebugCommandsAct_trim : let s := windows (.trim (cmdOn 1 0)) thr0 two 2
    Commands s (cmdOn 1 0) 0x1000 ∧ KeptRegion s 0x1000 trailing ∧ (trailing.trail ≠ 0 ∧ s.TrailOpen trailing)
      ∧ s.windowEntry trailing 1 = some (64, entry1) ∧ s.trailOld trailing < 1 ∧ 1 < s.trailNext trailing
      ∧ s.trailFailed trailing = false ∧ TrailAt s trailing 0x100000 ∧ s.windowEntry trailing 5 = none :=
  ⟨commands_of (r := trailing) (by decide +kernel) (by decide +kernel) (by decide +kernel),
    by unfold KeptRegion; decide +kernel, ⟨by decide, trailOpen _ (by decide +kernel) (by decide +kernel)⟩,
    by decide +kernel, by decide +kernel, by decide +kernel, by decide +kernel,
    ⟨by decide +kernel, by decide +kernel, by decide +kernel, windows_wf _ _ _ _⟩, by decide +kernel⟩

/-- Back to window 1 with nothing later; back to window 0 over a later fence. -/
def fenced : List Byte := launched 0 5 ++ (natLe 8 0 ++ natLe 6 9 ++ List.replicate 14 0 ++ [8, 0, 0, 0] ++ List.replicate 32 0)
theorem witness_DebugCommandsAct_rewind : let s := windows (.rewind (cmdOn 1 0)) thr0 two 2
    Commands s (cmdOn 1 0) 0x1000 ∧ KeptRegion s 0x1000 trailing ∧ s.TrailOpen trailing ∧ s.regionHalted trailing = true
      ∧ 1 < s.trailNext trailing
      ∧ s.undoHeld trailing (s.entries trailing) entry1.ts = none
      ∧ s.trailOld trailing ≤ 1 ∧ s.trailFailed trailing = false ∧ s.windowEntry trailing 1 = some (64, entry1)
      ∧ (∃ undos, s.scanBack trailing (s.entries trailing) entry1.ts false [] (s.entries trailing).reverse = .ok undos)
      ∧ s.packsUnder 0x1000 = [pack1] ∧ s.launch? (pack1.key / 2 ^ 24) = some launch1 ∧ entry1.addr / 2 ^ 32 = launch1.id := by
  refine ⟨commands_of (r := trailing) (by decide +kernel) (by decide +kernel) (by decide +kernel), by unfold KeptRegion; decide +kernel,
    trailOpen _ (by decide +kernel) (by decide +kernel), by decide +kernel, by decide +kernel, by decide +kernel,
    by decide +kernel, by decide +kernel, by decide +kernel, ?_, by decide +kernel, by decide +kernel, by decide⟩
  have r : (match (windows (.rewind (cmdOn 1 0)) thr0 two 2).scanBack trailing ((windows (.rewind (cmdOn 1 0)) thr0 two 2).entries trailing)
      entry1.ts false [] ((windows (.rewind (cmdOn 1 0)) thr0 two 2).entries trailing).reverse with
      | .ok _ => true | .error _ => false) = true := by decide +kernel
  split at r
  · next u q => exact ⟨u, q⟩
  · exact absurd r (by decide)
theorem witness_DebugCommandsAct_fence : let s := windows (.rewind (cmdOn 0 0)) thr0 fenced 1
    s.TrailOpen trailing ∧ s.regionHalted trailing = true ∧ (∃ k e, s.windowEntry trailing 0 = some (k, e) ∧ e.ts = 5)
      ∧ s.undoHeld trailing (s.entries trailing) 5 = none
      ∧ ∃ code j x, s.scanBack trailing (s.entries trailing) 5 false [] (s.entries trailing).reverse = .error (code, j, x) := by
  refine ⟨trailOpen _ (by decide +kernel) (by decide +kernel), by decide +kernel,
    ⟨0, { entry1 with addr := 2 ^ 32, ts := 5 }, by decide +kernel, rfl⟩, by decide +kernel, ?_⟩
  have r : (match (windows (.rewind (cmdOn 0 0)) thr0 fenced 1).scanBack trailing ((windows (.rewind (cmdOn 0 0)) thr0 fenced 1).entries trailing)
      5 false [] ((windows (.rewind (cmdOn 0 0)) thr0 fenced 1).entries trailing).reverse with
      | .ok _ => false | .error _ => true) = true := by decide +kernel
  split at r
  · exact absurd r (by decide)
  · next u q => exact ⟨u.1, u.2.1, u.2.2, q⟩
/-- Window 3 has not been opened; without a halt the command is refused; a trail that has lost windows has its horizon. -/
theorem witness_DebugCommandsAct_rewind_refused : (windows (.rewind (cmdOn 3 0)) thr0 two 2).trailNext trailing ≤ 3
    ∧ ({ windows (.rewind (cmdOn 1 0)) thr0 two 2 with halted := [] } : State).regionHalted trailing = false
    ∧ 0 < ((windows (.rewind (cmdOn 0 0)) thr0 two 2).setTrailHdr trailing 0x1C 4 1).trailOld trailing := by decide +kernel

theorem witness_DebugCommandsAct_replay : let s := windows (.replay (cmdOn 0 1)) thr0 two 2
    Commands s (cmdOn 0 1) 0x1000 ∧ KeptRegion s 0x1000 trailing ∧ (cmdOn 0 1).arg1.toNat % 2 ^ 16 = 1 ∧ s.regionHalted trailing = true
      ∧ (cmdOn 0 1).arg0.toNat / 2 ^ 63 = 0
      ∧ ((s.thread 0).status ≠ .idle ∧ (s.thread 0).status ≠ .exited ∧ (s.thread 0).positioned = true
        ∧ s.inRegions (s.thread 0).pack [0x1000] = true) ∧ (s.thread 1).status = .idle :=
  ⟨commands_of (r := trailing) (by decide +kernel) (by decide +kernel) (by decide +kernel),
    by unfold KeptRegion; decide +kernel, by decide, by decide +kernel, by decide,
    by decide +kernel, by decide +kernel⟩
def replay0 : Replay :=
  { rcb := 0x1000, gtid := some 0, pack := 2 ^ 24, rank := 0, left := 1, since := 0, issued := true, trapped := false }
theorem witness_DebugCommandsAct_parked : let s := { event .replayParked with replay := some replay0, now := 0x1312D000000 }
    s.replay = some replay0 ∧ replay0.issued = true ∧ replay0.since + 1000000 * Config.ns < s.now.toNat := by decide +kernel

/-! ### Every step -/

theorem witness_MemoriesStayCanonical : State.reset.wf ∧ ∃ t, step { State.reset with agenda := [.clock 1] } = .next t :=
  ⟨wf_nil ⟨rfl, rfl, rfl, rfl⟩, _, rfl⟩

/-! ### One step, with results worked out in spec/ -/

/-- Thread 0 after an instruction. -/
def after (i : Instr) (t : Thread) : Thread :=
  match exec i (running t) with
  | .next s => s.thr
  | _ => t

/-- R138: a sum wraps. -/
theorem test_add_wraps : (after (.add 0 7 5 6) ((thr0.setS 5 0xFFFFFFFFFFFFFFFF).setS 6 3)).sreg 7 = 2 := by decide +kernel
/-- R139: −2^63 by −1. -/
theorem test_divs_overflow : (after (.divs 0 7 5 6) ((thr0.setS 5 0x8000000000000000).setS 6 0xFFFFFFFFFFFFFFFF)).sreg 7
    = 0x8000000000000000 := by decide +kernel
theorem test_remu_zero : (after (.remu 0 7 5 6) (thr0.setS 5 9)).sreg 7 = 9 := by decide +kernel
/-- The loop of spec/06: bfxu s3, s2, 0, 10 of 0x2_0000_1A5B; shadd s7, s1, s3, 3; the branch back from 0x2C to 0x20. -/
theorem test_bfxu : (after (.bfxu 0 3 2 0 9) (thr0.setS 2 0x200001A5B)).sreg 3 = 0x25B := by decide +kernel
theorem test_shadd : (after (.shadd 0 7 1 3 3) ((thr0.setS 1 0x4000000000).setS 3 0x25B)).sreg 7 = 0x40000012D8 := by decide +kernel
theorem test_br : (after (.br 0 0x1FFFFD) { thr0 with pc := 0x2C }).pc = 0x20 := by decide +kernel
/-- R142: ORHI keeps the lower half. -/
theorem test_orhi : (after (.orhi 0 7 5 0x12) (thr0.setS 5 0xFFFFFFFF00000034)).sreg 7 = 0x1200000034 := by decide +kernel
/-- R144: 3 < 2 is false, and the complement is all ones. -/
theorem test_cmp : let t := after (.cmp 0 .lt 2 4 6) ((thr0.setS 4 3).setS 6 2)
    t.preg 2 = 0 ∧ t.preg 3 = BitVec.allOnes 64 := by decide +kernel
/-- R177: the lane of bytes (−128, 127, 3, −1) and (−128, −128, 2, 5). -/
theorem test_vdot : elem 32 ((after (.vdotS8 0 7 8 9) ((thr0.setV 8 0xFF037F80).setV 9 0x05028080)).vreg 7) 0 = 129 := by decide +kernel
/-- R179: BF16 elements 256, 1, 1, 1 give 258. -/
theorem test_vred : elem 16 ((after (.vredAdd 2 7 8 .bf16 .rne) ((thr0.setV 8 0x3F803F803F804380).setP 2 3)).vreg 7) 0 = 0x4381 := by
  decide +kernel

/-- The register of the VPACK example of spec/07, and what the instruction leaves. -/
def packed : Thread := after (.vpack 0 20 2 .mxint8 .f32 .rne 0 0) (thr0.setV 2 ((0x7F800000#2048 <<< 1024) ||| 0x3A800000BFC000003DCCCCCD407F8000))
/-- R175: q is 127, 3, −48 and 0, the scales are 0x80 and 0xFF; invalid and inexact are raised. -/
theorem test_vpack : packed.vreg 20 = (0xFF80#2048 <<< 1984) ||| 0xD0037F ∧ packed.fpflags = 0x11 := by decide +kernel
/-- R176: element 0 reads 3.96875. -/
theorem test_vunpk : elem 32 ((after (.vunpk 0 30 20 .mxint8 .f32 .rne 0 0) packed).vreg 30) 0 = 0x407E0000 := by decide +kernel
/-- R180: the counts of the VHIST example. -/
theorem test_vhist : let v := (after (.vhistMx 0 30 20 4 .mxint8) (packed.setS 4 0xFFFFFFFFFFFFFFF8)).vreg 30
    elem 32 v 11 = 1 ∧ elem 32 v 6 = 1 ∧ elem 32 v 10 = 1 ∧ elem 32 v 63 = 32 ∧ elem 32 v 0 = 93 := by decide +kernel


end Sys2Proof.Tests
end

section
/-! SUPPORT. FWAIT as a first use (R36, R37, R45): what a control instruction does with one operand that is pending,
poisoned or full. -/

namespace Sys2Proof.Machine

theorem classReg_eq_registerOf (cl : RClass) (r : Reg6) : classReg cl r = registerOf cl r := by
  cases cl <;> rfl

theorem isPending_of_pending {t : Thread} {i : Nat} {tag : BitVec 32} (h : t.rstate i = .pending tag) :
    t.isPending i = true := by
  unfold Thread.isPending; rw [h]

theorem isPending_of_poisoned {t : Thread} {i : Nat} {pv : BitVec 32} (h : t.rstate i = .poisoned pv) :
    t.isPending i = false := by
  unfold Thread.isPending; rw [h]

theorem State.park_eq_parkedOn (s : State) (regs : List Nat) : s.park regs = parkedOn s regs := rfl

theorem State.advance_eq_setThread (s : State) (n : Nat) :
    s.advance n = s.setThread s.cur { s.thr with pc := s.thr.pc + BitVec.ofNat 64 n } := rfl

/-- POISON_USE, as the model records it, is the trap that R353 describes. -/
theorem State.poisonUse_eq_trap (s : State) (i : Nat) (pv : BitVec 32) : s.poisonUse i pv = s.trap (usesPoison i pv) := by
  have hcode : bits pv 15 0 = (pv.extractLsb' 0 16).toNat := by simp [bits]
  unfold State.poisonUse usesPoison
  rw [hcode]

/-- One pending operand parks the instruction on every register it names (R36). -/
theorem State.operands_parks {s : State} {reads writes : List Nat} {body : State → State} {i : Nat}
    (hi : i ∈ reads ++ writes) (hp : s.thr.isPending i = true) :
    s.operands reads writes body = parkedOn s (reads ++ writes) := by
  have hany : ((reads ++ writes).any fun j => s.thr.isPending j) = true := List.any_eq_true.2 ⟨i, hi, hp⟩
  unfold State.operands
  rw [if_pos hany, State.park_eq_parkedOn]

/-- With no operand pending, a poisoned first operand traps (R37). -/
theorem State.operands_traps {s : State} {i : Nat} {reads writes : List Nat} {body : State → State} {pv : BitVec 32}
    (hp : ∀ j ∈ i :: reads ++ writes, s.thr.isPending j = false) (hi : s.thr.rstate i = .poisoned pv) :
    s.operands (i :: reads) writes body = s.trap (usesPoison i pv) := by
  have hfirst : s.thr.firstPoison (i :: reads) = some (i, pv) := by
    unfold Thread.firstPoison; rw [hi]
  unfold State.operands
  rw [if_neg (by rw [mem_any_false hp]; decide), hfirst]
  exact s.poisonUse_eq_trap i pv

/-- With bit 0 of a full guard one, a control instruction looks at its operands. -/
theorem control_on {g : Guard} {len : Nat} {reads writes : List Nat} {body : State → State} {s : State}
    (hg : s.thr.rstate (rp g) = .full) (hb : (s.thr.preg g).getLsbD 0 = true) :
    control g len reads writes body s = .next (s.operands reads writes body) := by
  unfold control State.guarded
  rw [hg]; simp only [hb, if_true]

/-- An executed FWAIT reads its register, writes none, and has nothing else to do than move on (R45). -/
theorem exec_fwait {g : Guard} {s : State} (a : Reg6) (cl : RClass) (hg : s.thr.rstate (rp g) = .full)
    (hb : (s.thr.preg g).getLsbD 0 = true) :
    exec (.fwait g a cl) s = .next (s.operands [registerOf cl a] [] fun s => s.advance 4) := by
  calc exec (.fwait g a cl) s = control g 4 [registerOf cl a] [] (fun s => s.advance 4) s := by
        rw [← classReg_eq_registerOf]; rfl
    _ = _ := control_on hg hb

/-- Settles O29: the three states of the register are the three ways of `State.operands` for a single operand. -/
theorem fwaitIsAFirstUse : Obligations.FwaitIsAFirstUse := by
  unfold Obligations.FwaitIsAFirstUse
  intro g a cl s _ hg hb
  rw [exec_fwait a cl hg hb]
  refine ⟨fun tag hpending => ?pending, fun pv hpoisoned => ?poisoned, fun hfull => ?full⟩
  case pending =>
    exact congrArg _ (State.operands_parks (List.mem_singleton_self _) (isPending_of_pending hpending))
  case poisoned =>
    rw [State.operands_traps (by simpa using isPending_of_poisoned hpoisoned) hpoisoned]
  case full =>
    rw [State.operands_ready (by simpa using hfull) (by simp)]
    exact congrArg _ (s.advance_eq_setThread 4)

end Sys2Proof.Machine
end

section
/-! SUPPORT. The word operations of spec/06 R138-R143 as their rules say them: quotients and remainders, minima and maxima,
shifts, bit fields and counts. -/

namespace Sys2Proof.Machine

/-! ### Quotients and remainders (R139) -/

theorem divS_eq_quotS (x y : Word) : divS x y = quotS x y := by
  by_cases hover : x = leastWord ∧ y = BitVec.allOnes 64
  · obtain ⟨rfl, rfl⟩ := hover
    decide
  · simp only [divS, quotS, hover, if_false]

/-- The last clause of R139 for DIVS and REMS: it holds by zero and in the overflow case too. -/
theorem divS_mul_add_remS {w : Nat} (x y : BitVec w) : divS x y * y + remS x y = x := by
  by_cases hy : y = 0
  · simp [divS, remS, hy]
  · simp only [divS, remS, hy, if_false]
    calc BitVec.ofInt w (x.toInt.tdiv y.toInt) * y + BitVec.ofInt w (x.toInt.tmod y.toInt)
      _ = BitVec.ofInt w (x.toInt.tdiv y.toInt * y.toInt + x.toInt.tmod y.toInt) := by
        rw [BitVec.ofInt_add, BitVec.ofInt_mul, BitVec.ofInt_toInt]
      _ = x := by rw [Int.tdiv_mul_add_tmod, BitVec.ofInt_toInt]

theorem remS_eq_remdS (x y : Word) : remS x y = remdS x y := by
  by_cases hy : y = 0
  · simp [remS, remdS, hy]
  · have hrem : remS x y = x - quotS x y * y := by
      rw [← divS_eq_quotS, BitVec.eq_sub_iff_add_eq, BitVec.add_comm, divS_mul_add_remS]
    rw [hrem, remdS, if_neg hy]

theorem divU_eq_udiv {w : Nat} (x y : BitVec w) : divU x y = if y = 0 then BitVec.allOnes w else x / y := by
  unfold divU; rw [← BitVec.toNat_udiv, BitVec.ofNat_toNat, BitVec.setWidth_eq]

theorem remU_eq_umod {w : Nat} (x y : BitVec w) : remU x y = if y = 0 then x else x % y := by
  unfold remU; rw [← BitVec.toNat_umod, BitVec.ofNat_toNat, BitVec.setWidth_eq]

/-- The last clause of R139 for DIVU and REMU. -/
theorem divU_mul_add_remU {w : Nat} (x y : BitVec w) : divU x y * y + remU x y = x := by
  by_cases hy : y = 0
  · simp [divU, remU, hy]
  · rw [divU_eq_udiv, remU_eq_umod, if_neg hy, if_neg hy]
    exact BitVec.eq_of_toNat_eq (by simp [Nat.div_add_mod', Nat.mod_eq_of_lt x.isLt])

/-! ### High products, minima and maxima (R138) -/

theorem mulhu64_eq_highHalf (x y : Word) : mulhu64 x y = highHalf ((x.toNat * y.toNat : Nat) : Int) := by
  have hdiv : ((x.toNat * y.toNat : Nat) : Int) / 2 ^ 64 = ((x.toNat * y.toNat / 2 ^ 64 : Nat) : Int) := by norm_cast
  unfold mulhu64 highHalf
  rw [hdiv, BitVec.ofInt_natCast]

theorem minS_eq_slt {w : Nat} (x y : BitVec w) : minS x y = if y.slt x then y else x := by
  simp only [minS, BitVec.slt, decide_eq_true_eq, ← Int.not_le, ite_not]

theorem maxS_eq_slt {w : Nat} (x y : BitVec w) : maxS x y = if x.slt y then y else x := by
  simp only [maxS, BitVec.slt, decide_eq_true_eq]
  rcases Int.lt_trichotomy x.toInt y.toInt with h | h | h
  · rw [if_pos (Int.le_of_lt h), if_pos h]
  · rw [BitVec.eq_of_toInt_eq h]; simp
  · rw [if_neg (by omega), if_neg (by omega)]

theorem minU_eq_ult {w : Nat} (x y : BitVec w) : minU x y = if y.ult x then y else x := by
  simp only [minU, BitVec.ult, decide_eq_true_eq, ← Nat.not_le, ite_not]

theorem maxU_eq_ult {w : Nat} (x y : BitVec w) : maxU x y = if x.ult y then y else x := by
  simp only [maxU, BitVec.ult, decide_eq_true_eq]
  rcases Nat.lt_trichotomy x.toNat y.toNat with h | h | h
  · rw [if_pos (Nat.le_of_lt h), if_pos h]
  · rw [BitVec.eq_of_toNat_eq h]; simp
  · rw [if_neg (by omega), if_neg (by omega)]

/-! ### Shifts (R138, R141, R142) -/

/-- A shift count is the low six bits of its register. -/
theorem bits_five_zero (x : Word) : bits x 5 0 = x.toNat % 64 := by simp [bits]

theorem shiftLeft_eq_mul {w : Nat} (x : BitVec w) (n : Nat) : x <<< n = x * BitVec.ofNat w (2 ^ n) := by
  refine BitVec.eq_of_toNat_eq ?_
  rw [BitVec.toNat_shiftLeft, BitVec.toNat_mul, BitVec.toNat_ofNat, Nat.shiftLeft_eq, Nat.mul_mod_mod]

theorem rotr64_eq_rotateRight (x : Word) (n : Reg6) : rotr64 x n.toNat = x.rotateRight n.toNat := by
  have hn : n.toNat < 64 := n.isLt
  rw [BitVec.rotateRight_def, Nat.mod_eq_of_lt hn]; rfl

/-- The lower half of a register kept, the upper half replaced. -/
theorem orHigh_eq_or (x : Word) (imm : BitVec 32) :
    orHigh x imm = (imm.setWidth 64 <<< 32) ||| (x &&& 0xFFFFFFFF) := by
  have himm := imm.isLt
  have hlow : x.toNat % 2 ^ 32 < 2 ^ 32 := Nat.mod_lt _ (by decide)
  have hand : (x &&& 0xFFFFFFFF).toNat = x.toNat % 2 ^ 32 := Nat.and_two_pow_sub_one_eq_mod x.toNat 32
  have hshift : (imm.setWidth 64 <<< 32).toNat = imm.toNat <<< 32 := by
    simp only [BitVec.toNat_shiftLeft, BitVec.toNat_setWidth, Nat.shiftLeft_eq]; omega
  refine BitVec.eq_of_toNat_eq ?_
  rw [BitVec.toNat_or, hand, hshift, ← Nat.shiftLeft_add_eq_or_of_lt hlow, Nat.shiftLeft_eq]
  simp only [orHigh, bits, BitVec.toNat_ofNat]
  omega

/-! ### Bit fields (R143) -/

/-- The last bit of a field of R143 lies in the word. -/
theorem pos_add_len_of_bitsOk {pos len1 : BitVec 6} (h : bitsOk pos len1 = true) : pos.toNat + len1.toNat < 64 := by
  simp only [bitsOk, decide_eq_true_eq] at h; omega

theorem getLsbD_bfx (x : Word) (pos len1 : Nat) {j : Nat} (hj : j < 64) :
    (bfx x pos (len1 + 1)).getLsbD j = (decide (j ≤ len1) && x.getLsbD (pos + j)) := by
  have hlen : pos + (len1 + 1) - 1 + 1 - pos = len1 + 1 := by omega
  simp only [bfx, bits, hlen, BitVec.getLsbD_ofNat, hj, decide_true, Bool.true_and, Nat.testBit_mod_two_pow,
    Nat.testBit_div_two_pow, Nat.lt_succ_iff, BitVec.testBit_toNat, Nat.add_comm pos j]

theorem getLsbD_bfxSigned (x : Word) {pos len1 : Nat} (h : pos + len1 < 64) {j : Nat} (hj : j < 64) :
    (bfxSigned x pos (len1 + 1)).getLsbD j = x.getLsbD (pos + min j len1) := by
  unfold bfxSigned
  rw [BitVec.getLsbD_sshiftRight, BitVec.msb_eq_getLsbD_last, decide_eq_false (by omega), Bool.not_false, Bool.true_and,
    BitVec.getLsbD_shiftLeft, BitVec.getLsbD_shiftLeft]
  by_cases hjl : j ≤ len1
  · rw [if_pos (by omega), decide_eq_true (by omega), decide_eq_false (by omega),
      show 64 - (len1 + 1) + j - (64 - (len1 + 1) - pos) = pos + min j len1 by omega]; rfl
  · rw [if_neg (by omega), decide_eq_true (by omega), decide_eq_false (by omega),
      show 64 - 1 - (64 - (len1 + 1) - pos) = pos + min j len1 by omega]; rfl

theorem getLsbD_bfIns (old x : Word) (pos len1 : Nat) {j : Nat} (hj : j < 64) :
    (bfIns old x pos (len1 + 1)).getLsbD j
      = if pos ≤ j ∧ j ≤ pos + len1 then x.getLsbD (j - pos) else old.getLsbD j := by
  have hlen : pos + (len1 + 1) - 1 + 1 - pos = len1 + 1 := by omega
  unfold bfIns putBits
  simp only [hlen, BitVec.getLsbD_or, BitVec.getLsbD_and, BitVec.getLsbD_not, BitVec.getLsbD_ofNat, hj, decide_true, Bool.true_and,
    Nat.testBit_mul_two_pow, Nat.testBit_two_pow_sub_one, Nat.testBit_mod_two_pow, BitVec.testBit_toNat]
  by_cases hin : pos ≤ j ∧ j ≤ pos + len1
  · rw [if_pos hin, decide_eq_true hin.1, decide_eq_true (show j - pos < len1 + 1 by omega)]; simp
  · rw [if_neg hin]
    have hout : (decide (pos ≤ j) && decide (j - pos < len1 + 1)) = false := by
      rw [Bool.and_eq_false_iff, decide_eq_false_iff_not, decide_eq_false_iff_not]; omega
    rw [← Bool.and_assoc, hout]; simp

/-! ### Bits in reverse, and counts (R138) -/

/-- Bit j after a sweep that ORs a mask in for every number that passes. -/
theorem getLsbD_foldl_or {w : Nat} (p : Nat → Bool) (v : Nat → BitVec w) (j : Nat) (l : List Nat) : ∀ acc : BitVec w,
    (l.foldl (fun n i => if p i then n ||| v i else n) acc).getLsbD j
      = (acc.getLsbD j || l.any fun i => p i && (v i).getLsbD j) := by
  induction l with
  | nil => intro acc; simp
  | cons i l ih =>
    intro acc
    rw [List.foldl_cons, ih, List.any_cons]
    cases p i <;> simp [Bool.or_assoc]

theorem getLsbD_bitReverse (x : Word) {j : Nat} (hj : j < 64) : (bitReverse x).getLsbD j = x.getLsbD (63 - j) := by
  have hbit : ∀ i < 64, (BitVec.ofNat 64 (2 ^ (63 - i))).getLsbD j = decide (i = 63 - j) := by
    intro i hi
    simp only [BitVec.getLsbD_ofNat, hj, decide_true, Bool.true_and, Nat.testBit_two_pow]
    exact decide_eq_decide.2 (by omega)
  unfold bitReverse
  rw [getLsbD_foldl_or, Bool.eq_iff_iff]
  simp only [show (0 : Word).getLsbD j = false from BitVec.getLsbD_zero, Bool.false_or, List.any_eq_true, List.mem_range, Bool.and_eq_true]
  constructor
  · rintro ⟨i, hi, hx, hv⟩
    rw [hbit i hi, decide_eq_true_eq] at hv
    exact hv ▸ hx
  · intro hx
    exact ⟨63 - j, by omega, hx, by rw [hbit _ (by omega), decide_eq_true rfl]⟩

theorem foldl_boolNat_eq_countP (p : Nat → Bool) (l : List Nat) : ∀ n : Nat,
    l.foldl (fun n i => n + boolNat (p i)) n = n + l.countP p := by
  induction l with
  | nil => intro n; rfl
  | cons i l ih =>
    intro n
    rw [List.foldl_cons, ih, List.countP_cons, boolNat]
    omega

theorem popCount_eq_ones (x : Word) : popCount x = ones x := by
  unfold popCount ones
  rw [foldl_boolNat_eq_countP (fun i => x.getLsbD i), Nat.zero_add]

/-- The search stops at the first number that passes. -/
theorem findFrom_before {f : Nat → Bool} {n : Nat} : ∀ {lo j : Nat}, lo ≤ j → j < (findFrom f lo n).getD (lo + n) →
    f j = false := by
  induction n with
  | zero => intro lo j hlo hj; simp only [findFrom, Option.getD_none] at hj; omega
  | succ n ih =>
    intro lo j hlo hj
    unfold findFrom at hj
    split at hj
    · simp only [Option.getD_some] at hj; omega
    · next hf =>
      rcases Nat.eq_or_lt_of_le hlo with rfl | hlt
      · simpa using hf
      · exact ih hlt (by rwa [Nat.succ_add_eq_add_succ])

/-- A word has its trailing zeros, and a one after them. -/
theorem trailZeros_spec {w : Nat} (x : BitVec w) : trailZeros x ≤ w ∧ (∀ j < trailZeros x, x.getLsbD j = false)
    ∧ (trailZeros x < w → x.getLsbD (trailZeros x) = true) := by
  have hbefore : ∀ j < trailZeros x, x.getLsbD j = false := fun j hj =>
    findFrom_before (Nat.zero_le j) (by rwa [Nat.zero_add])
  cases hsearch : findFrom (fun i => x.getLsbD i) 0 w with
  | none =>
    have hz : trailZeros x = w := by rw [trailZeros, hsearch, Option.getD_none]
    exact ⟨Nat.le_of_eq hz, hbefore, fun hlt => absurd hz (Nat.ne_of_lt hlt)⟩
  | some i =>
    obtain ⟨-, hi, hone⟩ := findFrom_spec hsearch
    have hz : trailZeros x = i := by rw [trailZeros, hsearch, Option.getD_some]
    exact ⟨by omega, hbefore, fun _ => hz ▸ hone⟩

/-- The sweep behind CLZ, up to bit n: its value tells the highest one among the first n bits. -/
theorem leadZeros_sweep {w : Nat} (x : BitVec w) : ∀ n ≤ w,
    let z := (List.range n).foldl (fun m i => if x.getLsbD i then w - 1 - i else m) w
    z ≤ w ∧ (∀ i < n, w - z ≤ i → x.getLsbD i = false) ∧ (z < w → x.getLsbD (w - 1 - z) = true) := by
  intro n
  induction n with
  | zero => simp
  | succ n ih =>
    intro hn
    obtain ⟨hle, hzero, hone⟩ := ih (by omega)
    rw [List.range_succ, List.foldl_append, List.foldl_cons, List.foldl_nil]
    by_cases hx : x.getLsbD n
    · simp only [hx, if_true]
      refine ⟨by omega, fun i hi h => by omega, fun _ => ?_⟩
      rwa [show w - 1 - (w - 1 - n) = n by omega]
    · rw [if_neg hx]
      refine ⟨hle, fun i hi h => ?_, hone⟩
      rcases Nat.eq_or_lt_of_le (Nat.le_of_lt_succ hi) with rfl | hlt
      · simpa using hx
      · exact hzero i hlt h

/-- A word has its leading zeros, and a one below them. -/
theorem leadZeros_spec (x : Word) : leadZeros x ≤ 64 ∧ (∀ j < leadZeros x, x.getLsbD (63 - j) = false)
    ∧ (leadZeros x < 64 → x.getLsbD (63 - leadZeros x) = true) := by
  obtain ⟨hle, hzero, hone⟩ := leadZeros_sweep x 64 (Nat.le_refl 64)
  exact ⟨hle, fun j hj => hzero _ (by omega) (by unfold leadZeros at hj; omega), hone⟩

end Sys2Proof.Machine
end

section
/-! SUPPORT. Scalar results (R138-R143): one law for the instructions that write one scalar register, then the tables of
the rules, instruction by instruction. -/

namespace Sys2Proof.Machine

/-- A control instruction whose body writes x to s[d] completes with x in s[d]. -/
theorem completes_toS {i : Instr} {s : State} {g : Guard} {reads : List Nat} {d : Reg6} {len : Nat} {f : State → Word}
    {x : Word} (hx : exec i s = control g len reads [rs d] (fun s => s.putS d (f s) len) s) (hf : f s = x)
    (h : s.Runs g reads [rs d]) : Completes i (.toS g reads d x len) s :=
  ⟨s.putS d x len, by rw [hx, control_runs h, hf], writesOnly_putS s d x len⟩

/-- R138-R142: sums, products, quotients, minima and maxima. -/
theorem arithmetic_completes {i : Instr} {s : State} {e : Effect} (he : arithmeticOf s.thr i = some e)
    (h : s.Runs e.g e.reads (e.outs.map (·.1))) : Completes i e s := by
  cases i with
  | add => cases he; exact completes_toS rfl rfl h
  | sub => cases he; exact completes_toS rfl rfl h
  | mul => cases he; exact completes_toS rfl rfl h
  | mulhs => cases he; exact completes_toS rfl rfl h
  | mulhu => cases he; exact completes_toS rfl (mulhu64_eq_highHalf _ _) h
  | divs => cases he; exact completes_toS rfl (divS_eq_quotS _ _) h
  | divu => cases he; exact completes_toS rfl (divU_eq_udiv _ _) h
  | rems => cases he; exact completes_toS rfl (remS_eq_remdS _ _) h
  | remu => cases he; exact completes_toS rfl (remU_eq_umod _ _) h
  | addi => cases he; exact completes_toS rfl rfl h
  | movi => cases he; exact completes_toS rfl rfl h
  | addiL => cases he; exact completes_toS rfl rfl h
  | muladd => cases he; exact completes_toS rfl rfl h
  | mins => cases he; exact completes_toS rfl (minS_eq_slt _ _) h
  | minu => cases he; exact completes_toS rfl (minU_eq_ult _ _) h
  | maxs => cases he; exact completes_toS rfl (maxS_eq_slt _ _) h
  | maxu => cases he; exact completes_toS rfl (maxU_eq_ult _ _) h
  | shadd => cases he; exact completes_toS rfl (congrArg _ (shiftLeft_eq_mul _ _)) h
  | _ => cases he

/-- R138, R141, R142: bitwise operations and shifts. -/
theorem logic_completes {i : Instr} {s : State} {e : Effect} (he : logicOf s.thr i = some e)
    (h : s.Runs e.g e.reads (e.outs.map (·.1))) : Completes i e s := by
  cases i with
  | and => cases he; exact completes_toS rfl rfl h
  | or => cases he; exact completes_toS rfl rfl h
  | xor => cases he; exact completes_toS rfl rfl h
  | sll => cases he; exact completes_toS rfl (congrArg _ (bits_five_zero _)) h
  | srl => cases he; exact completes_toS rfl (congrArg _ (bits_five_zero _)) h
  | sra => cases he; exact completes_toS rfl (congrArg _ (bits_five_zero _)) h
  | andi => cases he; exact completes_toS rfl rfl h
  | ori => cases he; exact completes_toS rfl rfl h
  | xori => cases he; exact completes_toS rfl rfl h
  | slli => cases he; exact completes_toS rfl rfl h
  | srli => cases he; exact completes_toS rfl rfl h
  | srai => cases he; exact completes_toS rfl rfl h
  | rotri => cases he; exact completes_toS rfl (rotr64_eq_rotateRight _ _) h
  | andiL => cases he; exact completes_toS rfl rfl h
  | xoriL => cases he; exact completes_toS rfl rfl h
  | orhi => cases he; exact completes_toS rfl (orHigh_eq_or _ _) h
  | _ => cases he

/-- R138, R143: BREV and the bit fields, bit by bit. -/
theorem bitField_completes {i : Instr} {s : State} {g : Guard} {reads : List Nat} {d : Reg6} {len : Nat}
    (hform : bitsForm i = some (g, reads, d, len)) (hwf : wellFormed i = true) (h : s.Runs g reads [rs d]) :
    ∃ x, Completes i (.toS g reads d x len) s ∧ ∀ j < 64, bitsOf s.thr x j i := by
  cases i with
  | brev => cases hform; exact ⟨_, completes_toS rfl rfl h, fun j hj => getLsbD_bitReverse _ hj⟩
  | bfxu => cases hform; exact ⟨_, completes_toS rfl rfl h, fun j hj => getLsbD_bfx _ _ _ hj⟩
  | bfxs =>
    cases hform
    exact ⟨_, completes_toS rfl rfl h, fun j hj => getLsbD_bfxSigned _ (pos_add_len_of_bitsOk hwf) hj⟩
  | bfi => cases hform; exact ⟨_, completes_toS rfl rfl h, fun j hj => getLsbD_bfIns _ _ _ _ hj⟩
  | _ => cases hform

/-- R138: CLZ, CTZ and POPC. -/
theorem count_completes {i : Instr} {s : State} {g : Guard} {a d : Reg6} (hform : countForm i = some (g, a, d))
    (h : s.Runs g [rs a] [rs d]) :
    ∃ n, Completes i (.toS g [rs a] d (BitVec.ofNat 64 n) 4) s ∧ countOf s.thr n i := by
  cases i with
  | clz => cases hform; exact ⟨_, completes_toS rfl rfl h, leadZeros_spec _⟩
  | ctz => cases hform; exact ⟨_, completes_toS rfl rfl h, trailZeros_spec _⟩
  | popc => cases hform; exact ⟨_, completes_toS rfl rfl h, popCount_eq_ones _⟩
  | _ => cases hform

/-- What an instruction that completes with s[d] := x leaves in s[d], where d is not s0. -/
theorem Completes.sreg_eq {i : Instr} {s : State} {g : Guard} {reads : List Nat} {d : Reg6} {x : Word} {len : Nat}
    (h : Completes i (.toS g reads d x len) s) (hd : isConst (rs d) = false) :
    ∃ t, exec i s = .next t ∧ t.thr.sreg d = x := by
  obtain ⟨t, ht, hw⟩ := h
  have hvalue : wide (t.thr.sreg d) = wide x := by
    rw [wide, ← Thread.value_rs, (hw.written _ (List.mem_singleton_self _)).1, if_neg (by rw [hd]; decide)]
  exact ⟨t, ht, by simpa [wide] using congrArg (BitVec.setWidth 64) hvalue⟩

theorem State.Runs.of_subset {s : State} {g : Guard} {reads writes writes' : List Nat} (h : s.Runs g reads writes)
    (hsub : writes' ⊆ writes) : s.Runs g reads writes' :=
  ⟨⟨h.guard, h.reads, fun i hi => h.writes i (hsub hi)⟩, h.bit⟩

/-- R139: the quotient that one division leaves, times the divisor, and the remainder that the other leaves, make the
dividend. -/
theorem quotient_mul_add_remainder {iq ir : Instr} {s : State} {g : Guard} {d c a b : Reg6} {q r : Word → Word → Word}
    (hq : exec iq s = scalar2 q g d a b 4 s) (hr : exec ir s = scalar2 r g c a b 4 s)
    (hqr : ∀ x y, q x y * y + r x y = x) (h : s.Runs g [rs a, rs b] [rs d, rs c])
    (hd : isConst (rs d) = false) (hc : isConst (rs c) = false) :
    ∃ t u, exec iq s = .next t ∧ exec ir s = .next u ∧ t.thr.sreg d * s.thr.sreg b + u.thr.sreg c = s.thr.sreg a := by
  obtain ⟨t, ht, hquot⟩ := (completes_toS hq rfl (h.of_subset (by simp))).sreg_eq hd
  obtain ⟨u, hu, hrem⟩ := (completes_toS hr rfl (h.of_subset (by simp))).sreg_eq hc
  exact ⟨t, u, ht, hu, by rw [hquot, hrem, hqr]⟩

/-- Settles O12: each family of instructions completes as its table says. -/
theorem scalarResults : Obligations.ScalarResults := by
  unfold Obligations.ScalarResults
  refine ⟨fun _ _ _ => arithmetic_completes, fun _ _ _ => logic_completes, fun _ _ _ _ _ _ => bitField_completes,
    fun _ _ _ _ _ => count_completes, fun signed g d c a b s h hd hc => ?division⟩
  case division =>
    cases signed with
    | true => exact quotient_mul_add_remainder rfl rfl divS_mul_add_remS h hd hc
    | false => exact quotient_mul_add_remainder rfl rfl divU_mul_add_remU h hd hc

end Sys2Proof.Machine
end

section
/-! SUPPORT. Branches, calls and jumps (R146-R148): what a transfer does with a target that can be fetched from and with
one that cannot. -/

namespace Sys2Proof.Machine

/-- The two checks of R148 on the bits of a target are those of `fetchable`. -/
theorem fetchable_iff_bits (x : Word) : fetchable x ↔ bits x 1 0 = 0 ∧ bits x 63 52 = 0 := by
  have hx := x.isLt
  simp only [fetchable, bits]
  omega

/-- R146: the offset of format B counts instructions. -/
theorem branchTarget_eq (pc : Word) (i : BitVec 21) : branchTarget pc i = pc + BitVec.ofInt 64 (4 * i.toInt) := by
  have hoffset : i.signExtend 64 <<< 2 = BitVec.ofInt 64 (4 * i.toInt) := by
    rw [BitVec.shiftLeft_eq_mul_twoPow, BitVec.mul_comm, BitVec.ofInt_mul]
    rfl
  rw [branchTarget, hoffset]

theorem State.transfer_fetchable {s : State} {x : Word} (h : fetchable x) (f : Thread → Thread) :
    s.transfer x f = s.onThr fun t => { f t with pc := x } := by
  obtain ⟨haligned, hinside⟩ := (fetchable_iff_bits x).1 h
  rw [State.transfer, if_neg (not_not_intro haligned), if_neg (not_not_intro hinside)]

theorem State.transfer_not_fetchable {s : State} {x : Word} (h : ¬fetchable x) (f : Thread → Thread) :
    s.transfer x f = s.trap (badTarget x) := by
  have hlow : bits x 1 0 = x.toNat % 4 := by simp [bits]
  by_cases haligned : bits x 1 0 = 0
  · have hbeyond : bits x 63 52 ≠ 0 := fun hinside => h ((fetchable_iff_bits x).2 ⟨haligned, hinside⟩)
    rw [State.transfer, if_neg (not_not_intro haligned), if_pos hbeyond, badTarget, ← hlow,
      if_neg (not_not_intro haligned)]
    rfl
  · rw [State.transfer, if_pos haligned, badTarget, ← hlow, if_pos haligned]
    rfl

/-- A jump after a change of registers writes what the change writes. -/
theorem WritesOnly.jump {s : State} {f : Thread → Thread} {outs : List (Nat × Vec)} {fl : BitVec 5} {pc : Word}
    (h : WritesOnly s (s.onThr f) outs fl pc) (x : Word) :
    WritesOnly s (s.onThr fun t => { f t with pc := x }) outs fl x where
  written := fun o ho => by
    have hf := h.written o ho
    rw [State.thr_onThr] at hf ⊢
    exact hf
  kept := fun i hi ho => by
    have hf := h.kept i hi ho
    rw [State.thr_onThr] at hf ⊢
    exact hf
  flags := by simpa only [State.thr_onThr] using h.flags
  pc := by rw [State.thr_onThr]
  elsewhere :=
    { machine := rfl
      threads := fun g hg => by rw [State.onThr_eq, State.thread_setThread, if_neg hg]
      thread := by simpa only [State.thr_onThr] using h.elsewhere.thread
      memory := State.peek_eq rfl rfl rfl rfl }

/-- A transfer that links nothing writes the pc alone. -/
theorem writesOnly_jump (s : State) (x : Word) : WritesOnly s (s.onThr fun t => { id t with pc := x }) [] 0 x where
  written := fun _ ho => absurd ho List.not_mem_nil
  kept := fun _ _ _ => by rw [State.thr_onThr]; exact ⟨rfl, rfl⟩
  flags := by rw [State.thr_onThr]; exact or_zero5 _
  pc := by rw [State.thr_onThr]
  elsewhere := elsewhere_onThr s _ fun _ => rfl

/-- A transfer that links writes pc + 4 to its link register. -/
theorem writesOnly_link (s : State) (d : Reg6) (x : Word) :
    WritesOnly s (s.onThr fun t => { t.setS d (t.pc + 4) with pc := x }) [(rs d, wide (s.thr.pc + 4))] 0 x :=
  (writesOnly_putS s d (s.thr.pc + 4) 0).jump x

/-- A control instruction that transfers to x goes there, or traps with nothing written. -/
theorem control_transfers {i : Instr} {s : State} {g : Guard} {len : Nat} {reads writes : List Nat} {x : Word}
    {to' : State → Word} {f : Thread → Thread} {outs : List (Nat × Vec)}
    (hx : exec i s = control g len reads writes (fun s => s.transfer (to' s) f) s) (hto : to' s = x)
    (hw : WritesOnly s (s.onThr fun t => { f t with pc := x }) outs 0 x) (h : s.Runs g reads writes) :
    (fetchable x → ∃ t, exec i s = .next t ∧ WritesOnly s t outs 0 x)
      ∧ (¬fetchable x → exec i s = .next (s.trap (badTarget x))) := by
  rw [hx, control_runs h, hto]
  exact ⟨fun hgood => ⟨_, rfl, State.transfer_fetchable hgood f ▸ hw⟩,
    fun hbad => congrArg _ (State.transfer_not_fetchable hbad f)⟩

/-- Settles O14: the four transfers differ in their target and in what they link. -/
theorem controlTransfers : Obligations.ControlTransfers := by
  unfold Obligations.ControlTransfers
  refine ⟨fun g i s => ?br, fun g i s => ?call, fun g a s => ?jr, fun g d a s => ?jalr, fun g d a => ⟨rfl, rfl⟩⟩
  case br => exact control_transfers rfl (branchTarget_eq _ _) (writesOnly_jump s _)
  case call => exact control_transfers rfl (branchTarget_eq _ _) (writesOnly_link s 63 _)
  case jr => exact control_transfers rfl rfl (writesOnly_jump s _)
  case jalr => exact control_transfers rfl rfl (writesOnly_link s d _)

end Sys2Proof.Machine
end

section
/-! SUPPORT. The lane operations of spec/07 as R164-R166, R170 and R177 say them: saturation, quotients, signs, the
compaction of lanes and the dot product. -/

namespace Sys2Proof.Machine

/-! ### Integers (R166) -/

theorem min_max_eq_clamp {lo hi : Int} (h : lo ≤ hi) (x : Int) : min (max x lo) hi = clamp lo hi x := by
  unfold clamp
  by_cases hlow : x < lo
  · rw [if_pos hlow]; omega
  · rw [if_neg hlow]; split <;> omega

theorem ofInt_satS (w : Nat) (x : Int) : BitVec.ofInt w (satS w x) = clampS w x := by
  have hpos : (0 : Int) < 2 ^ (w - 1) := Int.pow_pos (by decide)
  rw [satS, min_max_eq_clamp (by omega), clampS]

theorem ofInt_satU (w : Nat) (x : Int) : BitVec.ofInt w (satU w x) = clampU w x := by
  have hpos : (0 : Int) < 2 ^ w := Int.pow_pos (by decide)
  rw [satU, min_max_eq_clamp (by omega), clampU]

/-- The least number divided by minus one wraps to itself. -/
theorem ofInt_tdiv_intMin_allOnes (w : Nat) :
    BitVec.ofInt w ((BitVec.intMin w).toInt.tdiv (BitVec.allOnes w).toInt) = BitVec.intMin w := by
  rcases Nat.eq_zero_or_pos w with rfl | hw
  · exact Subsingleton.elim _ _
  · rw [BitVec.toInt_allOnes, if_pos hw, Int.tdiv_neg, Int.tdiv_one, BitVec.ofInt_neg, BitVec.ofInt_toInt, BitVec.neg_intMin]

theorem divS_eq_quotW {w : Nat} (x y : BitVec w) : divS x y = quotW x y := by
  unfold divS quotW
  by_cases hover : x = BitVec.intMin w ∧ y = BitVec.allOnes w
  · rw [if_pos hover, hover.1, hover.2, ofInt_tdiv_intMin_allOnes]
  · rw [if_neg hover]

theorem neg_or_self_eq_ofNat_natAbs {w : Nat} (x : BitVec w) :
    (if x.toInt < 0 then -x else x) = BitVec.ofNat w x.toInt.natAbs := by
  rw [← BitVec.ofInt_natCast]
  by_cases hneg : x.toInt < 0
  · rw [if_pos hneg, Int.ofNat_natAbs_of_nonpos (Int.le_of_lt hneg), BitVec.ofInt_neg, BitVec.ofInt_toInt]
  · rw [if_neg hneg, Int.natAbs_of_nonneg (Int.not_lt.1 hneg), BitVec.ofInt_toInt]

/-! ### Signs (R164) -/

theorem Fmt.width_sub_one (f : Fmt) : f.width - 1 = f.e + f.m := by
  unfold Fmt.width; omega

theorem clearSign_eq_mod (f : Fmt) (x : Nat) : clearSign f x = x % 2 ^ (f.width - 1) := by
  rw [f.width_sub_one, clearSign]

theorem flipSign_eq_ite (f : Fmt) {x : Nat} (hx : x < 2 ^ f.width) :
    flipSign f x = if x < 2 ^ (f.width - 1) then x + 2 ^ (f.width - 1) else x - 2 ^ (f.width - 1) := by
  have hwidth : 2 ^ f.width = 2 ^ (f.e + f.m) + 2 ^ (f.e + f.m) := by
    rw [Fmt.width, Nat.add_assoc, Nat.add_comm, Nat.pow_succ, Nat.mul_two]
  rw [f.width_sub_one, flipSign, hwidth]
  rw [hwidth] at hx
  split
  · exact Nat.mod_eq_of_lt (by omega)
  · rw [Nat.mod_eq_sub_mod (by omega), Nat.mod_eq_of_lt (by omega)]; omega

theorem sigFlag_singleton (x : Val) : sigFlag [x] = if x.isSig then Fl.invalid else 0 := by
  simp [sigFlag, flagIf]

/-! ### Compaction (R170) -/

/-- A number that passes stands in the filtered list after those below it that pass. -/
theorem getElem?_filter_range {p : Nat → Bool} {i n : Nat} (hp : p i = true) (hi : i < n) :
    ((List.range n).filter p)[(List.range i).countP p]? = some i := by
  obtain ⟨k, rfl⟩ := Nat.exists_eq_add_of_lt hi
  rw [Nat.add_assoc, List.range_add, List.filter_append, List.countP_eq_length_filter,
    List.getElem?_append_right (Nat.le_refl _), Nat.sub_self, List.range_succ_eq_map, List.map_cons, Nat.add_zero,
    List.filter_cons_of_pos hp, List.getElem?_cons_zero]

/-! ### The dot product (R177) -/

theorem byteVal_eq (sgn : Bool) (v : Vec) (i : Nat) :
    byteVal sgn v i = if sgn then signed 8 (elem 8 v i) else (elem 8 v i : Int) := by
  cases sgn with
  | false => rfl
  | true => simp [byteVal, signed]

theorem wrap_signed_add (acc : Nat) (x : Int) : (wrap 32 (signed 32 acc + x) : Int) = (acc + x) % 2 ^ 32 := by
  unfold wrap signed
  rw [Int.toNat_of_nonneg (Int.emod_nonneg _ (by decide))]
  split <;> omega

theorem wrap_lt (n : Nat) (x : Int) : wrap n x < 2 ^ n := by
  have hpos : (0 : Int) < 2 ^ n := Int.pow_pos (by decide)
  have hcast : ((2 ^ n : Nat) : Int) = 2 ^ n := by rw [Int.natCast_pow]; rfl
  rw [wrap, Int.toNat_lt (Int.emod_nonneg x (Int.ne_of_gt hpos)), hcast]
  exact Int.emod_lt_of_pos x hpos

theorem dotLane_lt (x y : Bool) (acc : Nat) (va vb : Vec) (i : Nat) : dotLane x y acc va vb i < 2 ^ 32 := wrap_lt _ _

theorem dotLane_eq_dotSum (x y : Bool) (acc : Nat) (va vb : Vec) (i : Nat) :
    (dotLane x y acc va vb i : Int) = dotSum x y acc va vb i := by
  unfold dotLane dotSum
  simp only [← byteVal_eq, wrap_signed_add]
  simp only [sumTo, List.range_succ, List.range_zero, List.nil_append, List.cons_append, List.foldl_cons, List.foldl_nil,
    Nat.add_zero, Int.zero_add, Int.add_assoc]

end Sys2Proof.Machine
end

section
/-! SUPPORT. Vector results lane by lane (R164-R167, R169, R170, R177): the merging instructions family by family, then
those that write their destination as a whole.
Where the model writes an operation out as a function, `rfl : _ = exec… ..` names the definition that holds it. -/

namespace Sys2Proof.Machine

/-! ### Merging instructions -/

/-- R165, R167: the short integer forms and VSPLATI. -/
theorem lanes_merge {i : Instr} {s : State} {r : LaneEffect} (he : lanesOf s.thr i = some r) (h : r.ready s) :
    Merges i r s := by
  cases i with
  | vaddI32 => cases he; exact int2_merges rfl (fun _ _ => rfl) h
  | vsubI32 => cases he; exact int2_merges rfl (fun _ _ => rfl) h
  | vmulI32 => cases he; exact int2_merges rfl (fun _ _ => rfl) h
  | vminS32 => cases he; exact int2_merges rfl minS_eq_slt h
  | vmaxS32 => cases he; exact int2_merges rfl maxS_eq_slt h
  | vminuI32 => cases he; exact int2_merges rfl minU_eq_ult h
  | vmaxuI32 => cases he; exact int2_merges rfl maxU_eq_ult h
  | vsraI32 => cases he; exact int2_merges rfl (fun _ _ => rfl) h
  | vand => cases he; exact int2_merges rfl (fun _ _ => rfl) h
  | vor => cases he; exact int2_merges rfl (fun _ _ => rfl) h
  | vxor => cases he; exact int2_merges rfl (fun _ _ => rfl) h
  | vandn => cases he; exact int2_merges (rfl : _ = execVandn ..) (fun _ _ => rfl) h
  | vshlI32 => cases he; exact int2_merges rfl (fun _ _ => rfl) h
  | vshrI32 => cases he; exact int2_merges rfl (fun _ _ => rfl) h
  | vnot => cases he; exact int1_merges rfl (fun _ => rfl) h
  | vmov => cases he; exact int1_merges rfl (fun _ => rfl) h
  | vsplati => cases he; exact vecMap_merges h (Nat.le_refl _) (rfl : _ = execVsplati ..) fun _ => rfl
  | _ => cases he

/-- R166: the long integer forms, at every width. -/
theorem widths_merge {i : Instr} {s : State} {r : LaneEffect} (he : widthsOf s.thr i = some r) (h : r.ready s) :
    Merges i r s := by
  cases i with
  | vaddIw => cases he; exact int2_merges rfl (fun _ _ => rfl) h
  | vsubIw => cases he; exact int2_merges rfl (fun _ _ => rfl) h
  | vmulIw => cases he; exact int2_merges rfl (fun _ _ => rfl) h
  | vmulhs => cases he; exact int2_merges rfl (fun _ _ => rfl) h
  | vmulhu => cases he; exact int2_merges rfl (fun _ _ => rfl) h
  | vadds => cases he; exact int2_merges rfl (fun _ _ => ofInt_satS _ _) h
  | vaddsu => cases he; exact int2_merges rfl (fun _ _ => ofInt_satU _ _) h
  | vsubs => cases he; exact int2_merges rfl (fun _ _ => ofInt_satS _ _) h
  | vsubsu => cases he; exact int2_merges rfl (fun _ _ => ofInt_satU _ _) h
  | vmins => cases he; exact int2_merges rfl minS_eq_slt h
  | vmaxs => cases he; exact int2_merges rfl maxS_eq_slt h
  | vminu => cases he; exact int2_merges rfl minU_eq_ult h
  | vmaxu => cases he; exact int2_merges rfl maxU_eq_ult h
  | vshl => cases he; exact int2_merges rfl (fun _ _ => rfl) h
  | vshr => cases he; exact int2_merges rfl (fun _ _ => rfl) h
  | vsra => cases he; exact int2_merges rfl (fun _ _ => rfl) h
  | vmad g d a b c w =>
    cases he
    exact vecMap_merges (f := fun t e =>
      (elem (widthBits w) (t.vreg a) e * elem (widthBits w) (t.vreg b) e + elem (widthBits w) (t.vreg c) e, 0))
      h (Nat.le_refl _) rfl fun _ => rfl
  | vdivs => cases he; exact int2_merges rfl divS_eq_quotW h
  | vdivu => cases he; exact int2_merges rfl divU_eq_udiv h
  | vabsIw => cases he; exact int1_merges (rfl : _ = execVabsIw ..) neg_or_self_eq_ofNat_natAbs h
  | _ => cases he

theorem zipLane_eq_ite (base : Nat) (va vb : Vec) (i : Nat) :
    zipLane base va vb i = if i % 2 = 0 then elem 32 va (i / 2 + base) else elem 32 vb (i / 2 + base) := by
  unfold zipLane; split <;> rfl

/-- R170: the permutes that merge per lane. -/
theorem permutes_merge {i : Instr} {s : State} {r : LaneEffect} (he : permuteOf s.thr i = some r) (h : r.ready s) :
    Merges i r s := by
  cases i with
  | vperm => cases he; exact permute_merges (rfl : _ = execVperm ..) (fun _ => rfl) h
  | vbcast => cases he; exact permute_merges (rfl : _ = execVbcast ..) (fun _ => congrArg _ (bits_five_zero _)) h
  | vext => cases he; exact permute_merges (rfl : _ = execVext ..) (fun _ => by rw [bits_five_zero, Nat.add_mod_mod]) h
  | vziplo => cases he; exact permute_merges (rfl : _ = execVziplo ..) (fun _ => zipLane_eq_ite _ _ _ _) h
  | vziphi => cases he; exact permute_merges (rfl : _ = execVziphi ..) (fun _ => zipLane_eq_ite _ _ _ _) h
  | _ => cases he

/-- VMIN and VMAX (R164). -/
theorem pick_merges {i : Instr} {s : State} {isMax : Bool} {g : Guard} {d a b : Reg6} {ty : Ty}
    (hx : exec i s = fpPick isMax g d a b ty s) (h : (signOf.pick s.thr isMax g d a b (fmtOf ty)).ready s) :
    Merges i (signOf.pick s.thr isMax g d a b (fmtOf ty)) s :=
  vecMap_merges (f := fun t e =>
    (fmtOf ty).pick isMax (elem (fmtOf ty).width (t.vreg a) e) (elem (fmtOf ty).width (t.vreg b) e))
    h (Nat.le_refl _) hx fun _ => rfl

/-- VABS and VNEG, each by what it does to an encoding of the format (R164). -/
theorem sign_merges {i : Instr} {s : State} {g : Guard} {d a : Reg6} {ty : Ty} {f f' : Fmt → Nat → Nat}
    (hx : exec i s = fpSign f g d a ty s) (hf : ∀ x < 2 ^ (fmtOf ty).width, f (fmtOf ty) x = f' (fmtOf ty) x)
    (h : (signOf.sign s.thr (fmtOf ty) g d a f').ready s) : Merges i (signOf.sign s.thr (fmtOf ty) g d a f') s := by
  refine vecMap_merges (f := fun t e =>
    let x := elem (fmtOf ty).width (t.vreg a) e
    (if ((fmtOf ty).val x).isNan then (fmtOf ty).nan else f (fmtOf ty) x, sigFlag [(fmtOf ty).val x]))
    h (Nat.le_refl _) hx fun e => ?_
  simp only [hf _ (elem_lt _ _ _), sigFlag_singleton]
  rfl

/-- R164: VMIN, VMAX, VABS and VNEG round nothing. -/
theorem signs_merge {i : Instr} {s : State} {r : LaneEffect} (he : signOf s.thr i = some r) (h : r.ready s) :
    Merges i r s := by
  cases i with
  | vmin => cases he; exact pick_merges rfl h
  | vmax => cases he; exact pick_merges rfl h
  | vabs => cases he; exact sign_merges rfl (fun x _ => clearSign_eq_mod _ x) h
  | vneg => cases he; exact sign_merges rfl (fun _ => flipSign_eq_ite _) h
  | _ => cases he

/-! ### Instructions that write their destination as a whole -/

/-- A vector instruction whose body writes x to v[d] gives x. -/
theorem gives_putV {i : Instr} {q : VForm} {s : State} {reads : List Nat} {d : Reg6} {f : State → Vec}
    {holds : List Vec → BitVec 5 → Prop}
    (hx : exec i s = vectorFrame q.g reads [rv d] (fun s => s.putV d (f s) q.len) s) (hd : q.dests = [rv d])
    (h : s.Ready q.g reads q.dests) (hsays : holds [f s] 0) : Gives i q s holds := by
  rw [hd] at h
  refine ⟨s.putV d (f s) q.len, [f s], 0, by rw [hx, vectorFrame_ready h], by rw [hd]; rfl, ?_, hsays⟩
  rw [hd]
  exact writesOnly_putV s d (f s) q.len

@[simp] theorem at0_singleton (x : Vec) : at0 [x] = x := rfl

theorem elem_mod (w : Nat) (v : Vec) (e : Nat) : elem w v e % 2 ^ w = elem w v e := Nat.mod_eq_of_lt (elem_lt w v e)

theorem elem_vecOf_tabulate {w : Nat} (f : Nat → Nat) {e : Nat} (he : e < 2048 / w) :
    elem w (vecOf w (tabulate (2048 / w) f)) e = f e % 2 ^ w := by
  rw [elem_vecOf (by simpa [tabulate] using Nat.mul_div_le 2048 w)]
  simp [tabulate, he]

/-- Element e of a register of merged elements. -/
theorem elem_vecOf_lanes {w : Nat} (pg : Word) (old : Vec) (f : Nat → Nat × Nat) {e : Nat} (he : e < 2048 / w) :
    elem w (vecOf w ((lanes w w pg old f).map (·.1))) e
      = if active w pg e then (f e).1 % 2 ^ w else elem w old e := by
  rw [elem_vecOf (by simpa [lanes_length] using Nat.mul_div_le 2048 w), lanes_get _ _ _ _ _ _ he]
  split
  · rfl
  · exact elem_mod _ _ _

/-- Guard bit i governs lane i of 32 bits (R12). -/
theorem active_lane (pg : Word) (i : Nat) : active 32 pg i = pg.getLsbD i := by
  simp [active, guardLane]

/-- VSEL chooses a source for each element (R169). -/
theorem vsel_says (t : Thread) (g : Guard) (d a b : Reg6) (w : Width) :
    selectSays t [vecOf (widthBits w) (tabulate (2048 / widthBits w) fun e =>
      elem (widthBits w) (if active (widthBits w) (t.preg g) e then t.vreg a else t.vreg b) e)] 0 (.vsel g d a b w) := by
  refine ⟨rfl, fun e he => ?_⟩
  rw [← active_iff, at0_singleton, elem_vecOf_tabulate _ he, elem_mod]
  exact ⟨fun ha => by rw [if_pos ha], fun ha => by rw [if_neg ha]⟩

/-- VINS replaces one lane, where the guard activates it (R170). -/
theorem vins_says (t : Thread) (g : Guard) (d a b : Reg6) :
    selectSays t [vecOf 32 (tabulate 64 fun i =>
      if i = bits (t.sreg b) 5 0 ∧ active 32 (t.preg g) (bits (t.sreg b) 5 0) then bits (t.sreg a) 31 0
      else elem 32 (t.vreg d) i)] 0 (.vins g d a b) := by
  refine ⟨rfl, fun i hi => ?_⟩
  have hchosen : (i = bits (t.sreg b) 5 0 ∧ active 32 (t.preg g) (bits (t.sreg b) 5 0) = true)
      ↔ (i = (t.sreg b).toNat % 64 ∧ (t.preg g).getLsbD i = true) := by
    rw [bits_five_zero, active_lane]
    exact and_congr_right fun hi => by rw [hi]
  rw [at0_singleton, elem_vecOf_tabulate (w := 32) _ hi]
  simp only [hchosen]
  split
  · simp [bits]
  · exact elem_mod _ _ _

/-- VCOMP moves the lanes that the guard activates down, in order, and fills with zeros (R170). -/
theorem vcomp_says (t : Thread) (g : Guard) (d a : Reg6) :
    selectSays t [vecOf 32 (((List.range 64).filter (active 32 (t.preg g))).map (elem 32 (t.vreg a)))] 0
      (.vcomp g d a) := by
  have hactive : active 32 (t.preg g) = fun i => (t.preg g).getLsbD i := funext (active_lane _)
  have hfits : 32 * (((List.range 64).filter (active 32 (t.preg g))).map (elem 32 (t.vreg a))).length ≤ 2048 := by
    have hle := List.length_filter_le (active 32 (t.preg g)) (List.range 64)
    rw [List.length_range] at hle
    rw [List.length_map]
    omega
  rw [hactive] at hfits ⊢
  refine ⟨rfl, fun i hi hg => ?moved, fun k hk _ => ?filled⟩
  case moved =>
    rw [at0_singleton, elem_vecOf hfits, List.getElem?_map, getElem?_filter_range hg hi]
    exact elem_mod _ _ _
  case filled =>
    rw [at0_singleton, elem_vecOf hfits, List.getElem?_eq_none]
    · rfl
    · rwa [List.length_map, ← List.countP_eq_length_filter]

/-- VDOT sums in each lane that the guard activates, and keeps the others (R177). -/
theorem dot_says (t : Thread) (x y : Bool) (g : Guard) (d a b : Reg6) :
    dotSays t x y g d a b (vecOf 32 ((lanes 32 32 (t.preg g) (t.vreg d) fun i =>
      (dotLane x y (elem 32 (t.vreg d) i) (t.vreg a) (t.vreg b) i, 0)).map (·.1))) := by
  intro i hi
  rw [← active_iff, elem_vecOf_lanes (w := 32) _ _ _ hi]
  refine ⟨fun ha => ?summed, fun ha => by rw [if_neg ha]⟩
  case summed =>
    rw [if_pos ha, Nat.mod_eq_of_lt (dotLane_lt ..), dotLane_eq_dotSum]

/-- The three forms of VDOT differ in the signs of their bytes. -/
theorem dot_gives {i : Instr} {x y : Bool} {g : Guard} {d a b : Reg6} {s : State} {holds : List Vec → BitVec 5 → Prop}
    (hx : exec i s = dot x y g d a b s) (h : (selectShape.dot g d a b).ready s)
    (hsays : ∀ v, dotSays s.thr x y g d a b v → holds [v] 0) : Gives i (selectShape.dot g d a b) s holds :=
  gives_putV hx rfl h.1 (hsays _ (dot_says _ _ _ _ _ _ _))

/-- R169, R170, R177: VSEL, VINS, VCOMP and VDOT. -/
theorem selects_give {i : Instr} {s : State} {q : VForm} (hq : selectShape i = some q) (h : q.ready s) :
    Gives i q s fun xs fl => selectSays s.thr xs fl i := by
  cases i with
  | vsel => cases hq; exact gives_putV (rfl : _ = execVsel ..) rfl (whole_ready h) (vsel_says ..)
  | vins => cases hq; exact gives_putV (rfl : _ = execVins ..) rfl h.1 (vins_says ..)
  | vcomp => cases hq; exact gives_putV (rfl : _ = execVcomp ..) rfl (whole_ready h) (vcomp_says ..)
  | vdotS8 => cases hq; exact dot_gives rfl h fun _ hdot => ⟨rfl, hdot⟩
  | vdotU8 => cases hq; exact dot_gives rfl h fun _ hdot => ⟨rfl, hdot⟩
  | vdotSu8 => cases hq; exact dot_gives rfl h fun _ hdot => ⟨rfl, hdot⟩
  | _ => cases hq

/-- Settles O17: each family of instructions completes element by element as its table says. -/
theorem vectorLanes : Obligations.VectorLanes := by
  unfold Obligations.VectorLanes
  exact ⟨fun _ _ _ => lanes_merge, fun _ _ _ => widths_merge, fun _ _ _ => permutes_merge,
    fun _ _ _ he _ => signs_merge he, fun _ _ _ => selects_give⟩

end Sys2Proof.Machine
end
